-- ==== Sys2Proof/Word.lean ====
section
/-!
DEFINITION. The word types of the machine and their plainest names. Everything a repair may have to mend (extension,
byte order, bit fields) stands in `Machine/Bits.lean`.
-/

namespace Sys2Proof

/-- A byte, lane or memory cell. -/
abbrev Byte := BitVec 8

/-- A scalar register (R13). -/
abbrev Word := BitVec 64

/-- A vector register: 256 byte lanes, lane i in bits [8i+7:8i] (R18). -/
abbrev Vec := BitVec 2048

/-- A mask register: one bit per byte lane (R18). -/
abbrev Mask := BitVec 256

/-- A 64-byte message, byte 0 in bits [7:0] (R164). -/
abbrev Msg := BitVec 512

end Sys2Proof
end

