-- ==== Sys2Proof/Syntax.lean ====
section
/-!
DEFINITION. The syntax of the machine: the operand fields of an instruction word (R62, R65), the logit words (R289),
the 64-byte commands (R164) and the events of the agents, all as ONE inductive with a constructor per row of the
opcode table. Who moves next is a `Move`.
-/

namespace Sys2Proof

/-- An operand field (R65): class, register index or immediate selector, block/trap bit, modifier. -/
structure Operand where
  cls : BitVec 3 := 0
  idx : BitVec 8 := 0
  bt : Bool := false
  mod : BitVec 2 := 0
  deriving DecidableEq, Repr, Inhabited

/-- A guard field (R62, R64): the predicate p0 to p7 and the negate bit. -/
structure Guard where
  neg : Bool := false
  pred : BitVec 3 := 0
  deriving DecidableEq, Repr, Inhabited

/-- The fields of a 128-bit instruction word below its opcode (R62). Operand E stands in `imm` (bits [109:96]). -/
structure Fields where
  ty : BitVec 4 := 15
  g1 : Guard := {}
  g2 : Guard := {}
  d : Operand := {}
  a : Operand := {}
  b : Operand := {}
  c : Operand := {}
  spc : BitVec 3 := 0
  nt : Bool := false
  ch : BitVec 2 := 0
  y : Bool := false
  grp : Bool := false
  fn : BitVec 8 := 0
  imm : BitVec 32 := 0
  deriving DecidableEq, Repr, Inhabited

/-- A context: compute die 0-3, physical cell 0-143, context 0-3 (R2, R13). -/
structure CtxId where
  die : Nat := 0
  cell : Nat := 0
  ctx : Nat := 0
  deriving DecidableEq, Repr, Inhabited

/-- What a start step may find out of order besides a failing path (R377, steps 25 to 29). -/
inductive StartFind where
  | cellRetired (die cell : Nat)
  | tileOut (die cell tile : Nat)
  | spareHeld (die cell : Nat)
  | engineOut (box : Nat)
  | portDown (port : Nat)
  deriving DecidableEq, Repr, Inhabited

/-- What the error-correcting codes say at a read (R380): nothing, a corrected error, an uncorrectable word, or an error that shows itself
elsewhere, uncorrectable (`part`) or corrected (`fixed`), by its PART: 1 register file, 2 accumulator, 3 FIFO tile, 4 store buffer, 5 scratch
tile, 6 L2, 7 HBM. -/
inductive Ecc where
  | clean
  | corrected
  | lost
  | part (n : Nat)
  | fixed (n : Nat)
  deriving DecidableEq, Repr, Inhabited

/-- A target class of the scheduler (R313). -/
inductive Target where
  | cells
  | sampler
  | engine (box : Nat)
  | core (n : Nat)
  deriving DecidableEq, Repr, Inhabited

/-- The registers and control fields without a behaviour of their own (R7, R362, R363, R365): of the link and its windows, of a vector's entry in
the MSI-X table (its message address, its data, its mask bit), and `block`, an aligned doubleword of die scratch, which a control core
stores (R346, R351, R369). -/
inductive HostReg where
  | hbOff
  | barSize
  | rbase (win : Nat)
  | rsize (win : Nat)
  | rhead (win : Nat)
  | vectorAddr (vec : Nat)
  | vectorData (vec : Nat)
  | vectorMask (vec : Nat)
  | readOnly (off : Nat)
  | block (die off : Nat)
  deriving DecidableEq, Repr, Inhabited

/-- What an inbound packet asks for (R371, R372). -/
inductive PacketKind where
  | put
  | get
  | post
  deriving DecidableEq, Repr, Inhabited

/-- A packet that arrives from the network (R370 to R372): its source, its job, the place it names and its bytes. The packets of a record carry
the number of its message, its whole length and their offset in it (R368, R371). -/
structure Packet where
  fa : BitVec 128 := 0
  job : BitVec 24 := 0
  kind : PacketKind := .put
  addr : BitVec 49 := 0
  ringDie : Nat := 0
  len : Nat := 0
  msg : Nat := 0
  off : Nat := 0
  data : List Byte := []
  bar : Option (Nat × Nat) := none
  deriving DecidableEq, Repr, Inhabited

/-- How the far side answers a transport command (R371 to R375): packet k is placed (with the bytes that an NGET asked for), placed with a
subtraction that clamped, or refused; a record is rejected by its ring, or finds a bad descriptor there; or the other ranks' bytes for the k-th collective of a group, or their disagreement. -/
inductive NetAck where
  | placed (k : Nat) (data : List Byte)
  | clamped (k : Nat) (data : List Byte)
  | refused (k : Nat)
  | rejected (k : Nat) (ring : Bool)
  | ranks (k : Nat) (srcs : List (List Byte))
  | disagree (k : Nat)
  deriving DecidableEq, Repr, Inhabited

/-- The instructions and events of the opcode table, one constructor per row. Action words carry their `Fields`, logit
words their parameter slots, commands their 64-byte message, events the agent they concern. -/
inductive Instr where
  /-- ILL (R89). -/
  | ill (w : Fields)
  /-- NOP (R89). -/
  | nop (w : Fields)
  /-- ENDA (R89). -/
  | enda (w : Fields)
  /-- BRF (R90). -/
  | brf (w : Fields)
  /-- SKIPT (R90). -/
  | skipt (w : Fields)
  /-- PEEK (R91). -/
  | peek (w : Fields)
  /-- PUSHN (R92). -/
  | pushn (w : Fields)
  /-- COMMIT (R93). -/
  | commit (w : Fields)
  /-- ABORT (R94). -/
  | abort (w : Fields)
  /-- TSSET (R95). -/
  | tsset (w : Fields)
  /-- HANDOFF (R96). -/
  | handoff (w : Fields)
  /-- TRAP (R97). -/
  | trap (w : Fields)
  /-- YIELD (R98). -/
  | yield (w : Fields)
  /-- ADD (R100). -/
  | add (w : Fields)
  /-- SUB (R100). -/
  | sub (w : Fields)
  /-- MUL (R100). -/
  | mul (w : Fields)
  /-- MULH (R100). -/
  | mulh (w : Fields)
  /-- DIV (R101). -/
  | div (w : Fields)
  /-- REM (R101). -/
  | rem (w : Fields)
  /-- MADD (R100). -/
  | madd (w : Fields)
  /-- AND (R100). -/
  | and (w : Fields)
  /-- OR (R100). -/
  | or (w : Fields)
  /-- XOR (R100). -/
  | xor (w : Fields)
  /-- ANDN (R100). -/
  | andn (w : Fields)
  /-- SHL (R100). -/
  | shl (w : Fields)
  /-- SHR (R100). -/
  | shr (w : Fields)
  /-- SAR (R100). -/
  | sar (w : Fields)
  /-- ROTR (R100). -/
  | rotr (w : Fields)
  /-- MIN (R100). -/
  | min (w : Fields)
  /-- MAX (R100). -/
  | max (w : Fields)
  /-- CLZ (R100). -/
  | clz (w : Fields)
  /-- POPC (R100). -/
  | popc (w : Fields)
  /-- BFX (R101). -/
  | bfx (w : Fields)
  /-- BFI (R101). -/
  | bfi (w : Fields)
  /-- MOV (R100). -/
  | mov (w : Fields)
  /-- SEL (R100). -/
  | sel (w : Fields)
  /-- CMP (R100). -/
  | cmp (w : Fields)
  /-- FADD (R102). -/
  | fadd (w : Fields)
  /-- FSUB (R102). -/
  | fsub (w : Fields)
  /-- FMUL (R102). -/
  | fmul (w : Fields)
  /-- FFMA (R102). -/
  | ffma (w : Fields)
  /-- FMIN (R102). -/
  | fmin (w : Fields)
  /-- FMAX (R102). -/
  | fmax (w : Fields)
  /-- FDIV (R102). -/
  | fdiv (w : Fields)
  /-- FSQRT (R102). -/
  | fsqrt (w : Fields)
  /-- FCMP (R102). -/
  | fcmp (w : Fields)
  /-- FCVT (R103). -/
  | fcvt (w : Fields)
  /-- PLOG (R104). -/
  | plog (w : Fields)
  /-- VADD (R113). -/
  | vadd (w : Fields)
  /-- VSUB (R113). -/
  | vsub (w : Fields)
  /-- VMUL (R113). -/
  | vmul (w : Fields)
  /-- VMULH (R113). -/
  | vmulh (w : Fields)
  /-- VMADD (R113). -/
  | vmadd (w : Fields)
  /-- VADDS (R114). -/
  | vadds (w : Fields)
  /-- VSUBS (R114). -/
  | vsubs (w : Fields)
  /-- VAND (R113). -/
  | vand (w : Fields)
  /-- VOR (R113). -/
  | vor (w : Fields)
  /-- VXOR (R113). -/
  | vxor (w : Fields)
  /-- VSHL (R113). -/
  | vshl (w : Fields)
  /-- VSHR (R113). -/
  | vshr (w : Fields)
  /-- VSAR (R113). -/
  | vsar (w : Fields)
  /-- VMIN (R113). -/
  | vmin (w : Fields)
  /-- VMAX (R113). -/
  | vmax (w : Fields)
  /-- VABS (R113). -/
  | vabs (w : Fields)
  /-- VCMP (R113). -/
  | vcmp (w : Fields)
  /-- VSEL (R113). -/
  | vsel (w : Fields)
  /-- VDOT (R115). -/
  | vdot (w : Fields)
  /-- VCLZ (R113). -/
  | vclz (w : Fields)
  /-- VPOPC (R113). -/
  | vpopc (w : Fields)
  /-- VFADD (R116). -/
  | vfadd (w : Fields)
  /-- VFSUB (R116). -/
  | vfsub (w : Fields)
  /-- VFMUL (R116). -/
  | vfmul (w : Fields)
  /-- VFFMA (R116). -/
  | vffma (w : Fields)
  /-- VFMIN (R116). -/
  | vfmin (w : Fields)
  /-- VFMAX (R116). -/
  | vfmax (w : Fields)
  /-- VFCMP (R116). -/
  | vfcmp (w : Fields)
  /-- VFEXP2 (R58). -/
  | vfexp2 (w : Fields)
  /-- VFLOG2 (R117). -/
  | vflog2 (w : Fields)
  /-- VFRCP (R117). -/
  | vfrcp (w : Fields)
  /-- VFRSQ (R117). -/
  | vfrsq (w : Fields)
  /-- VFSIG (R117). -/
  | vfsig (w : Fields)
  /-- VCVT (R118). -/
  | vcvt (w : Fields)
  /-- VQK4 (R120). -/
  | vqk4 (w : Fields)
  /-- VBCAST (R121). -/
  | vbcast (w : Fields)
  /-- VINS (R121). -/
  | vins (w : Fields)
  /-- VEXT (R121). -/
  | vext (w : Fields)
  /-- VPERM (R121). -/
  | vperm (w : Fields)
  /-- VSLIDE (R121). -/
  | vslide (w : Fields)
  /-- VZIP (R121). -/
  | vzip (w : Fields)
  /-- VUNZIP (R121). -/
  | vunzip (w : Fields)
  /-- VCOMPR (R122). -/
  | vcompr (w : Fields)
  /-- VEXPND (R122). -/
  | vexpnd (w : Fields)
  /-- VRSUM (R123). -/
  | vrsum (w : Fields)
  /-- VRMAX (R123). -/
  | vrmax (w : Fields)
  /-- VRMIN (R123). -/
  | vrmin (w : Fields)
  /-- VSCAN (R124). -/
  | vscan (w : Fields)
  /-- VIOTA (R125). -/
  | viota (w : Fields)
  /-- MLOG (R125). -/
  | mlog (w : Fields)
  /-- MCNT (R125). -/
  | mcnt (w : Fields)
  /-- MFIRST (R125). -/
  | mfirst (w : Fields)
  /-- LD (R131). -/
  | ld (w : Fields)
  /-- ST (R131). -/
  | st (w : Fields)
  /-- VLD (R131). -/
  | vld (w : Fields)
  /-- VST (R131). -/
  | vst (w : Fields)
  /-- VLDS (R131). -/
  | vlds (w : Fields)
  /-- VSTS (R131). -/
  | vsts (w : Fields)
  /-- VGATH (R131). -/
  | vgath (w : Fields)
  /-- VSCAT (R131). -/
  | vscat (w : Fields)
  /-- PREF (R133). -/
  | pref (w : Fields)
  /-- BINIT (R139). -/
  | binit (w : Fields)
  /-- BPUSH (R140). -/
  | bpush (w : Fields)
  /-- BPOP (R141). -/
  | bpop (w : Fields)
  /-- BHT (R141). -/
  | bht (w : Fields)
  /-- BRET (R141). -/
  | bret (w : Fields)
  /-- CFLUSH (R144). -/
  | cflush (w : Fields)
  /-- CINV (R144). -/
  | cinv (w : Fields)
  /-- AADD (R145). -/
  | aadd (w : Fields)
  /-- AMIN (R145). -/
  | amin (w : Fields)
  /-- AMAX (R145). -/
  | amax (w : Fields)
  /-- AAND (R145). -/
  | aand (w : Fields)
  /-- AOR (R145). -/
  | aor (w : Fields)
  /-- AXOR (R145). -/
  | axor (w : Fields)
  /-- AXCHG (R145). -/
  | axchg (w : Fields)
  /-- ACAS (R145). -/
  | acas (w : Fields)
  /-- AFADD (R145). -/
  | afadd (w : Fields)
  /-- AINC (R145). -/
  | ainc (w : Fields)
  /-- FENCE (R148). -/
  | fence (w : Fields)
  /-- WAITW (R149). -/
  | waitw (w : Fields)
  /-- BARINIT (R151). -/
  | barinit (w : Fields)
  /-- BARARR (R151). -/
  | bararr (w : Fields)
  /-- BARTX (R151). -/
  | bartx (w : Fields)
  /-- BARWAIT (R151). -/
  | barwait (w : Fields)
  /-- QBIND (R154). -/
  | qbind (w : Fields)
  /-- QPUSH (R156). -/
  | qpush (w : Fields)
  /-- QMARK (R157). -/
  | qmark (w : Fields)
  /-- QSTAT (R160). -/
  | qstat (w : Fields)
  /-- QFILT (R161). -/
  | qfilt (w : Fields)
  /-- QCLOSE (R158). -/
  | qclose (w : Fields)
  /-- SEND (R165). -/
  | send (w : Fields)
  /-- SENDI (R165). -/
  | sendi (w : Fields)
  /-- MLDB (R181). -/
  | mldb (w : Fields)
  /-- MSWAP (R182). -/
  | mswap (w : Fields)
  /-- MMA (R183). -/
  | mma (w : Fields)
  /-- MSCA (R185). -/
  | msca (w : Fields)
  /-- MZERO (R186). -/
  | mzero (w : Fields)
  /-- MDRN (R187). -/
  | mdrn (w : Fields)
  /-- MSTAT (R186). -/
  | mstat (w : Fields)
  /-- RLDECL (R191). -/
  | rldecl (w : Fields)
  /-- RLPUSH (R193). -/
  | rlpush (w : Fields)
  /-- RLMERGE (R194). -/
  | rlmerge (w : Fields)
  /-- RLSEND (R194). -/
  | rlsend (w : Fields)
  /-- RLREAD (R195). -/
  | rlread (w : Fields)
  /-- RLTH (R195). -/
  | rlth (w : Fields)
  /-- RLCLR (R195). -/
  | rlclr (w : Fields)
  /-- RNORM (R197). -/
  | rnorm (w : Fields)
  /-- RSCAN (R197). -/
  | rscan (w : Fields)
  /-- LAUNCH (R215). -/
  | launch (w : Fields)
  /-- CANCEL (R218). -/
  | cancel (w : Fields)
  /-- CSTAT (R217). -/
  | cstat (w : Fields)
  /-- SRD (R202). -/
  | srd (w : Fields)
  /-- SWR (R202). -/
  | swr (w : Fields)
  /-- RTT (R204). -/
  | rtt (w : Fields)
  /-- TLBINV (R207). -/
  | tlbinv (w : Fields)
  /-- CFGWR (R210). -/
  | cfgwr (w : Fields)
  /-- CFGRD (R210). -/
  | cfgrd (w : Fields)
  /-- CRC32C (R211). -/
  | crc32c (w : Fields)
  /-- SM3C (R212). -/
  | sm3c (w : Fields)
  /-- HALT (R205). -/
  | halt (w : Fields)
  /-- LBIAS (R289). -/
  | lbias
  /-- LPEN_REP (R289). -/
  | lpenRep (a : BitVec 3)
  /-- LPEN_FREQ (R289). -/
  | lpenFreq (a : BitVec 3)
  /-- LPEN_PRES (R289). -/
  | lpenPres (a : BitVec 3)
  /-- LTEMP (R289). -/
  | ltemp
  /-- LCLAMP (R289). -/
  | lclamp (a b : BitVec 3)
  /-- LVMASK_ALLOW (R289). -/
  | lvmaskAllow
  /-- LVMASK_BAN (R289). -/
  | lvmaskBan
  /-- LSCALE (R289). -/
  | lscale (a : BitVec 3)
  /-- LADDC (R289). -/
  | laddc (a : BitVec 3)
  /-- LTOPK (R294). -/
  | ltopk
  /-- LTOPP (R294). -/
  | ltopp
  /-- LMINP (R294). -/
  | lminp (a : BitVec 3)
  /-- LDRAW (R293). -/
  | ldraw
  /-- LDRAW_GREEDY (R295). -/
  | ldrawGreedy
  /-- LCOUNT (R297). -/
  | lcount
  /-- LEND (R290). -/
  | lend
  /-- ECOPY (R170). -/
  | ecopy (m : Msg)
  /-- ESTRIDE (R171). -/
  | estride (m : Msg)
  /-- ERAGGED (R171). -/
  | eragged (m : Msg)
  /-- EGATHER (R170). -/
  | egather (m : Msg)
  /-- ESCATTER (R170). -/
  | escatter (m : Msg)
  /-- EFILL (R170). -/
  | efill (m : Msg)
  /-- EREDUCE (R175). -/
  | ereduce (m : Msg)
  /-- EJOIN (R174). -/
  | ejoin (m : Msg)
  /-- ESIGNAL (R170). -/
  | esignal (m : Msg)
  /-- EVERIFY (R170). -/
  | everify (m : Msg)
  /-- SSEQ (R285). -/
  | sseq (m : Msg)
  /-- SBATCH (R286). -/
  | sbatch (m : Msg)
  /-- SLAUNCH (R314). -/
  | slaunch (m : Msg)
  /-- SGRAPH (R317). -/
  | sgraph (m : Msg)
  /-- SOPEN (R310). -/
  | sopen (m : Msg)
  /-- SCANCEL (R322). -/
  | scancel (m : Msg)
  /-- NPUT (R371). -/
  | nput (m : Msg)
  /-- NGET (R371). -/
  | nget (m : Msg)
  /-- NPOST (R371). -/
  | npost (m : Msg)
  /-- NCOLL (R375). -/
  | ncoll (m : Msg)
  /-- MRETIRE (R382). -/
  | mretire (m : Msg)
  /-- MDIE (R384). -/
  | mdie (m : Msg)
  /-- MRECAL (R382). -/
  | mrecal (m : Msg)
  /-- MFW (R385). -/
  | mfw (m : Msg)
  /-- MATTEST (R386). -/
  | mattest (m : Msg)
  /-- MRECORD (R383). -/
  | mrecord (m : Msg)
  /-- BEGIN (R209). -/
  | beginLoad (die cell : Nat)
  /-- SEAL (R209). -/
  | sealLoad (die cell : Nat) (crc : BitVec 32)
  /-- CLEAR (R209). -/
  | clearLoad (die cell : Nat)
  /-- MODULE_RESET (R377). -/
  | moduleReset (fails : List (Nat × Nat)) (found : List StartFind)
  /-- THERMAL_TRIP (R387). -/
  | thermalTrip
  /-- ARBITER_GRANT (R253). -/
  | arbiterGrant (die cell : Nat)
  /-- FORCED_GRANT (R253). -/
  | forcedGrant (die cell : Nat)
  /-- ARBITER_WEIGHT_REFRESH (R253). -/
  | arbiterWeightRefresh (die cell : Nat)
  /-- YIELD_EXPIRY (R98). -/
  | yieldExpiry (x : CtxId)
  /-- TERMINAL_SHIFT (R82). -/
  | terminalShift (x : CtxId)
  /-- NONTERMINAL_LOOKUP (R82). -/
  | nonterminalLookup (x : CtxId)
  /-- ACTION_STEP (R86). -/
  | actionStep (x : CtxId)
  /-- END_STEP (R82). -/
  | endStep (x : CtxId)
  /-- ROUND_CLOSE (R84). -/
  | roundClose (x : CtxId)
  /-- RECOVERY (R249). -/
  | recovery (x : CtxId)
  /-- ROUND_COMMIT (R264). -/
  | roundCommit (x : CtxId)
  /-- UNIT_DONE (R244). -/
  | unitDone (x : CtxId)
  /-- UNIT_STOP (R322). -/
  | unitStop (x : CtxId)
  /-- MESSAGE_DEPARTURE (R166). -/
  | messageDeparture (die cell k : Nat)
  /-- BEAT_DEPARTURE (R159). -/
  | beatDeparture (x : CtxId) (port : Nat)
  /-- BEAT_ARRIVAL (R153). -/
  | beatArrival (k : Nat)
  /-- INBOX_MESSAGE_DELIVERY (R167). -/
  | inboxMessageDelivery (k : Nat)
  /-- LOAD_DATA_ARRIVAL (R132). -/
  | loadDataArrival (x : CtxId) (k : Nat) (e : Ecc)
  /-- ATOMIC_OLD_VALUE_RETURN (R146). -/
  | atomicOldValueReturn (x : CtxId) (k : Nat)
  /-- WAITW_SATISFIED (R149). -/
  | waitwSatisfied (x : CtxId) (k : Nat)
  /-- CSTAT_FILL (R217). -/
  | cstatFill (x : CtxId) (k : Nat)
  /-- LOOKAHEAD_FILL (R35). -/
  | lookaheadFill (x : CtxId) (k : Nat)
  /-- TRANSLATION_WALK (R348). -/
  | translationWalk (k : Nat)
  /-- WALK_RESULT (R357). -/
  | walkResult (k : Nat)
  /-- FAULT_RESOLUTION (R351). -/
  | faultResolution (die slot : Nat)
  /-- TLBINV_ACKNOWLEDGE (R356). -/
  | tlbinvAcknowledge (x : CtxId)
  /-- MMA_ROW_FIRE (R184). -/
  | mmaRowFire (die cell : Nat)
  /-- MLDB_FILL (R181). -/
  | mldbFill (die cell : Nat)
  /-- MSWAP_EFFECT (R182). -/
  | mswapEffect (die cell : Nat)
  /-- CLOSING_UNIT_OPERATION (R198). -/
  | closingUnitOperation (die cell : Nat)
  /-- CHILD_ARRIVAL (R273). -/
  | childArrival (k : Nat)
  /-- RELEASE (R276). -/
  | release (k : Nat)
  /-- ENGINE_COMMAND_START (R174). -/
  | engineCommandStart (box q j : Nat)
  /-- COMMAND_MIGRATION (R174). -/
  | commandMigration (box q j box2 : Nat)
  /-- ENGINE_COMMAND_FINISH (R176). -/
  | engineCommandFinish (box q j : Nat)
  /-- MESSAGE_RING_RECORD (R177). -/
  | messageRingRecord (box q j : Nat)
  /-- BATCH_START (R282). -/
  | batchStart (die : Nat)
  /-- SAMPLER_EOF_DISCARD (R283). -/
  | samplerEofDiscard (x : CtxId) (port : Nat)
  /-- LAP_1 (R291). -/
  | lap1 (die : Nat)
  /-- LAP_2 (R294). -/
  | lap2 (die : Nat)
  /-- BATCH_COMPLETION (R300). -/
  | batchCompletion (die : Nat)
  /-- GRAPH_ADMISSION (R320). -/
  | graphAdmission (die k : Nat)
  /-- DISPATCH (R313). -/
  | dispatch (die : Nat) (cls : Target)
  /-- NODE_REPLY (R319). -/
  | nodeReply (k : Nat)
  /-- POOL_GRANT (R311). -/
  | poolGrant (die : Nat)
  /-- ENTRY_AGEING (R312). -/
  | entryAgeing (die k : Nat)
  /-- POOL_FAULT (R321). -/
  | poolFault (die : Nat)
  /-- PAGE_LOAD (R333). -/
  | pageLoad (k : Nat)
  /-- PREEMPT_FREEZE (R335). -/
  | preemptFreeze (die : Nat)
  /-- FREEZE_WAVE (R336). -/
  | freezeWave (k : Nat)
  /-- CONTEXT_STOP (R337). -/
  | contextStop (x : CtxId)
  /-- IMAGE_READOUT (R338). -/
  | imageReadout (k : Nat)
  /-- RESTORE (R341). -/
  | restore (k : Nat)
  /-- BUDGET_WINDOW (R343). -/
  | budgetWindow (k : Nat)
  /-- GOVERNOR_UPDATE (R387). -/
  | governorUpdate (k budget : Nat)
  /-- HOST_MSG_WRITE (R364). -/
  | hostMsgWrite (win off : Nat) (bytes : List Byte)
  /-- WINDOW_HANDOVER (R364). -/
  | windowHandover (win : Nat)
  /-- CTL_WRITE (R363). -/
  | ctlWrite (win : Nat) (val : BitVec 64)
  /-- HOST_RING_WRITE (R365). -/
  | hostRingWrite (k : Nat)
  /-- HOST_HBM_ACCESS (R362). -/
  | hostHbmAccess (addr len : Nat) (data : Option (List Byte))
  /-- HOST_REQUEST_COMPLETION (R366). -/
  | hostRequestCompletion (k : Nat) (bad : Bool)
  /-- REGISTER_WRITE (R7). -/
  | registerWrite (reg : HostReg) (val : BitVec 64)
  /-- INBOUND_PACKET (R372). -/
  | inboundPacket (p : Packet)
  /-- TRANSPORT_ACKNOWLEDGEMENT (R373). -/
  | transportAcknowledgement (q : Nat) (ack : NetAck)
  /-- TIMEOUT (R373). -/
  | timeout (q : Nat)
  /-- CONGESTION_ENTRY_WRITE (R374). -/
  | congestionEntryWrite (peer : Nat) (entry : BitVec 128)
  /-- CORE_RESTART (R385). -/
  | coreRestart (die core : Nat) (ok : Bool)
  /-- RECALIBRATION_END (R382). -/
  | recalibrationEnd (stack chan : Nat)
  deriving DecidableEq, Repr, Inhabited

/-- Who moves next: a context that holds its cell's grant (`second` for the second word of a pair, R71), an agent that takes the next part of its running command or the
next message of its queue, the sampler's next logit word, or an event. -/
inductive Move where
  | issue (x : CtxId)
  | second (x : CtxId)
  | engine (box q j : Nat) (e : Ecc)
  | sampler (die : Nat) (e : Ecc)
  | scheduler (die : Nat)
  | manage (core : Nat)
  | logit (die : Nat)
  | event (i : Instr)
  deriving DecidableEq, Repr, Inhabited

end Sys2Proof
end

