-- ==== Sys2Proof/Machine/Bits.lean ====
section
/-!
DEFINITION. Byte order, extension, elements of a vector and sparse maps: the small functions every other file uses.
All values are little-endian (R5).
-/

namespace Sys2Proof.Machine

/-- A sparse map: keys with their values, at most one entry a key. -/
abbrev SMap (α : Type) := List (Nat × α)

/-- The value at a key. -/
def SMap.get? {α : Type} : SMap α → Nat → Option α
  | [], _ => none
  | (k', v) :: r, k => if k' = k then some v else SMap.get? r k

/-- The value at a key, or a default. -/
def SMap.getD {α : Type} (m : SMap α) (k : Nat) (d : α) : α := (m.get? k).getD d

/-- Sets the value at a key. -/
def SMap.set {α : Type} : SMap α → Nat → α → SMap α
  | [], k, v => [(k, v)]
  | (k', v') :: r, k, v => if k' = k then (k, v) :: r else (k', v') :: SMap.set r k v

/-- Removes a key. -/
def SMap.erase {α : Type} (m : SMap α) (k : Nat) : SMap α := m.filter (fun e => e.1 != k)

/-- The natural numbers below n, each mapped. -/
def tab {α : Type} (n : Nat) (f : Nat → α) : List α := (List.range n).map f

/-- The field [hi:lo] of a number. -/
def fld (x hi lo : Nat) : Nat := (x >>> lo) % 2 ^ (hi + 1 - lo)

/-- One bit of a number. -/
def bit (x i : Nat) : Bool := x.testBit i

/-- A bit as a number. -/
def b2n (b : Bool) : Nat := if b then 1 else 0

/-- Byte i of a number (R5). -/
def byteOf (x i : Nat) : Byte := BitVec.ofNat 8 (x >>> (8 * i))

/-- The n low bytes of a number, lowest first (R5). -/
def toBytes : Nat → Nat → List Byte
  | 0, _ => []
  | n + 1, x => BitVec.ofNat 8 x :: toBytes n (x >>> 8)

/-- The number that bytes hold, the first lowest (R5). -/
def ofBytes : List Byte → Nat
  | [] => 0
  | b :: r => b.toNat + 256 * ofBytes r

/-- Elements of w bits packed into a number, the first lowest (R18). -/
def pack (w : Nat) : List Nat → Nat
  | [] => 0
  | x :: r => x % 2 ^ w + 2 ^ w * pack w r

/-- Element j of w bits (R18). -/
def elem (w x j : Nat) : Nat := (x >>> (w * j)) % 2 ^ w

/-- The n elements of w bits of a number. -/
def elems (w n x : Nat) : List Nat := tab n (elem w x)

/-- Replaces field [lo + w - 1 : lo]. -/
def putFld (x lo w v : Nat) : Nat :=
  x - ((x >>> lo) % 2 ^ w) * 2 ^ lo + (v % 2 ^ w) * 2 ^ lo

/-- The signed value of the low w bits (two's complement, R37). -/
def sgn (w x : Nat) : Int :=
  let y := x % 2 ^ w
  if y < 2 ^ (w - 1) then (y : Int) else (y : Int) - (2 ^ w : Nat)

/-- The low w bits of an exact integer (R9, R37). -/
def wrap (w : Nat) (x : Int) : Nat := (x % (2 ^ w : Nat)).toNat

/-- Clamps an integer. -/
def clampInt (lo hi x : Int) : Int := if x < lo then lo else if hi < x then hi else x

/-- Clears the bits of a number. -/
def clearBits (w x y : Nat) : Nat := (x % 2 ^ w) &&& ((2 ^ w - 1) ^^^ (y % 2 ^ w))

/-- The number of set bits among the low n. -/
def popCount : Nat → Nat → Nat
  | 0, _ => 0
  | n + 1, x => x % 2 + popCount n (x / 2)

/-- The lowest set bit below n, counted from i. -/
def lowBit : Nat → Nat → Nat → Option Nat
  | 0, _, _ => none
  | n + 1, i, x => if x % 2 = 1 then some i else lowBit n (i + 1) (x / 2)

/-- Rounds up to a multiple. -/
def ceilTo (m x : Nat) : Nat := (x + m - 1) / m * m

/-- The first index at which a list meets a test. -/
def firstIdx {α : Type} (p : α → Bool) : List α → Nat → Option Nat
  | [], _ => none
  | x :: r, i => if p x then some i else firstIdx p r (i + 1)

/-- Removes the element at an index. -/
def dropIdx {α : Type} : List α → Nat → List α
  | [], _ => []
  | _ :: r, 0 => r
  | x :: r, n + 1 => x :: dropIdx r n

/-- Changes the element at an index. -/
def modIdx {α : Type} (f : α → α) : List α → Nat → List α
  | [], _ => []
  | x :: r, 0 => f x :: r
  | x :: r, n + 1 => x :: modIdx f r n

end Sys2Proof.Machine
end

