-- ==== Sys2Proof/Machine/Fp.lean ====
section
/-!
DEFINITION. Number formats and the one rounding of R44: a floating-point value is an exact dyadic number, an operation
computes exactly, and `roundMag` rounds once. Codes are numbers below 2^width.
-/

namespace Sys2Proof.Machine

/-- A floating-point format (R39). `top` is the code of its largest finite magnitude. -/
structure Fmt where
  w : Nat
  eb : Nat
  mb : Nat
  bias : Nat
  top : Nat
  inf? : Bool
  nanCode : Nat
  deriving DecidableEq, Repr

def Fmt.f32 : Fmt := ⟨32, 8, 23, 127, 0x7F7FFFFF, true, 0x7FC00000⟩
def Fmt.bf16 : Fmt := ⟨16, 8, 7, 127, 0x7F7F, true, 0x7FC0⟩
def Fmt.f16 : Fmt := ⟨16, 5, 10, 15, 0x7BFF, true, 0x7E00⟩
def Fmt.e4m3 : Fmt := ⟨8, 4, 3, 7, 0x7E, false, 0x7F⟩
def Fmt.e5m2 : Fmt := ⟨8, 5, 2, 15, 0x7B, true, 0x7E⟩
def Fmt.e2m1 : Fmt := ⟨4, 2, 1, 1, 0x7, false, 0x0⟩

/-- The format of a TY code; integers have none (R37, R39). -/
def Fmt.ofTy (ty : Nat) : Option Fmt :=
  if ty = 8 then some .f32 else if ty = 9 then some .bf16 else if ty = 10 then some .f16
  else if ty = 11 then some .e4m3 else if ty = 12 then some .e5m2 else if ty = 13 then some .e2m1 else none

/-- A floating-point value: NaN, an infinity, or (−1)^neg × m × 2^e exactly. -/
inductive FVal where
  | nan
  | inf (neg : Bool)
  | fin (neg : Bool) (m : Nat) (e : Int)
  deriving DecidableEq, Repr

/-- Decodes a code (R39); denormals at their value (R40). -/
def FVal.ofCode (f : Fmt) (c : Nat) : FVal :=
  let neg := bit c (f.w - 1)
  let mag := c % 2 ^ (f.w - 1)
  let ex := mag >>> f.mb
  let m := mag % 2 ^ f.mb
  if f.top < mag then (if f.inf? && m == 0 then .inf neg else .nan)
  else if ex = 0 then .fin neg m (1 - (f.bias : Int) - f.mb)
  else .fin neg (2 ^ f.mb + m) ((ex : Int) - f.bias - f.mb)

/-- A rounding mode (R43). -/
inductive Rnd where
  | rne | rtz | rdn | rup | rna
  deriving DecidableEq, Repr

def Rnd.ofCode (c : Nat) : Rnd :=
  if c = 1 then .rtz else if c = 2 then .rdn else if c = 3 then .rup else if c = 4 then .rna else .rne

/-- A code with its sign. -/
def signed (f : Fmt) (neg : Bool) (mag : Nat) : Nat := if neg then 2 ^ (f.w - 1) + mag else mag

/-- The result of a magnitude beyond the largest finite one (R45, R47). -/
def overflow (f : Fmt) (r : Rnd) (sat neg : Bool) : Nat :=
  let atMax := sat || f.w == 4 || (match r with
    | .rne | .rna => false
    | .rtz => true
    | .rdn => !neg
    | .rup => neg)
  if atMax then signed f neg f.top
  else if f.inf? then signed f neg (f.top + 1) else f.nanCode

/-- Whether a quotient is raised by one, from the discarded part: above, at or below half, and exactness (R43). -/
def roundsUp (r : Rnd) (neg odd gtHalf atHalf exact : Bool) : Bool :=
  match r with
  | .rne => gtHalf || (atHalf && odd)
  | .rtz => false
  | .rdn => !exact && neg
  | .rup => !exact && !neg
  | .rna => gtHalf || atHalf

/-- Rounds the magnitude k × 2^t, or a value strictly between it and (k + 1) × 2^t when `sticky`, once to the format
(R44, R45). A sticky magnitude has at least three bits more than the format. -/
def roundMag (f : Fmt) (r : Rnd) (sat neg : Bool) (k : Nat) (t : Int) (sticky : Bool) : Nat :=
  if k = 0 && !sticky then signed f neg 0
  else
    let emin : Int := 1 - (f.bias : Int) - f.mb
    let lsb : Int := max ((Nat.log2 k : Int) + t - f.mb) emin
    let q0 : Nat × Bool × Bool × Bool :=      -- quotient, above half, at half, exact
      if lsb ≤ t then (k <<< (t - lsb).toNat, false, false, !sticky)
      else
        let sh := (lsb - t).toNat
        let q := k >>> sh
        let rem := k - q <<< sh
        let half := 2 ^ (sh - 1)
        (q, decide (half < rem) || (rem == half && sticky), rem == half && !sticky, rem == 0 && !sticky)
    let q := q0.1 + b2n (roundsUp r neg (q0.1 % 2 == 1) q0.2.1 q0.2.2.1 q0.2.2.2)
    let code := (lsb - emin).toNat * 2 ^ f.mb + q
    if f.top < code then overflow f r sat neg else signed f neg code

/-- Rounds an exact value (R44, R45, R47). (DEDUCED, log 75) -/
def roundVal (f : Fmt) (r : Rnd) (sat : Bool) : FVal → Nat
  | .nan => f.nanCode
  | .inf neg => if sat || f.w == 4 then signed f neg f.top
      else if f.inf? then signed f neg (f.top + 1) else f.nanCode
  | .fin neg m e => roundMag f r sat neg m e false

/-- The sign and the magnitude of an integer × 2^e as a value; an exact zero takes the given sign. -/
def FVal.ofInt (zneg : Bool) (x : Int) (e : Int) : FVal :=
  if x = 0 then .fin zneg 0 e else .fin (decide (x < 0)) x.natAbs e

def FVal.neg : FVal → FVal
  | .nan => .nan
  | .inf n => .inf (!n)
  | .fin n m e => .fin (!n) m e

def FVal.abs : FVal → FVal
  | .nan => .nan
  | .inf _ => .inf false
  | .fin _ m e => .fin false m e

def FVal.isNan : FVal → Bool
  | .nan => true
  | _ => false

/-- The signed integer of a finite value on the grid 2^g, g at most its exponent. -/
def onGrid (neg : Bool) (m : Nat) (e g : Int) : Int :=
  let x : Int := ((m <<< (e - g).toNat : Nat) : Int)
  if neg then -x else x

/-- The exact sum, with the sign of an exact zero by R44. -/
def FVal.add (r : Rnd) : FVal → FVal → FVal
  | .nan, _ => .nan
  | _, .nan => .nan
  | .inf n, .inf n' => if n = n' then .inf n else .nan
  | .inf n, _ => .inf n
  | _, .inf n => .inf n
  | .fin n m e, .fin n' m' e' =>
    let g := min e e'
    let zneg := if n = n' && m == 0 && m' == 0 then n else r == .rdn
    FVal.ofInt zneg (onGrid n m e g + onGrid n' m' e' g) g

/-- The exact product (R41: 0 × ∞ is invalid). (DESIGN CHOICE, log 73) -/
def FVal.mul : FVal → FVal → FVal
  | .nan, _ => .nan
  | _, .nan => .nan
  | .inf n, .inf n' => .inf (n != n')
  | .inf n, .fin n' m _ => if m = 0 then .nan else .inf (n != n')
  | .fin n m _, .inf n' => if m = 0 then .nan else .inf (n != n')
  | .fin n m e, .fin n' m' e' => .fin (n != n') (m * m') (e + e')

/-- Rounds a / b once (R41, R102). (DESIGN CHOICE, log 73) -/
def fdiv (f : Fmt) (r : Rnd) (sat : Bool) : FVal → FVal → Nat
  | .nan, _ => f.nanCode
  | _, .nan => f.nanCode
  | .inf _, .inf _ => f.nanCode
  | .inf n, .fin n' _ _ => roundVal f r sat (.inf (n != n'))
  | .fin n _ _, .inf n' => signed f (n != n') 0
  | .fin n m e, .fin n' m' e' =>
    if m' = 0 then (if m = 0 then f.nanCode else roundVal f r sat (.inf (n != n')))
    else
      let s := 96 + Nat.log2 m' - Nat.log2 m
      let q := (m <<< s) / m'
      roundMag f r sat (n != n') q (e - e' - s) ((m <<< s) % m' != 0)

/-- The integer square root by bits, `i` bits still to try. -/
def isqrt : Nat → Nat → Nat → Nat
  | 0, _, acc => acc
  | i + 1, x, acc =>
    let c := acc + 2 ^ i
    if c * c ≤ x then isqrt i x c else isqrt i x acc

/-- The square root of a number. -/
def natSqrt (x : Nat) : Nat := isqrt (Nat.log2 x / 2 + 1) x 0

/-- Rounds √a once (R102). -/
def fsqrt (f : Fmt) (r : Rnd) (sat : Bool) : FVal → Nat
  | .nan => f.nanCode
  | .inf n => if n then f.nanCode else roundVal f r sat (.inf false)
  | .fin n m e =>
    if m = 0 then signed f n 0
    else if n then f.nanCode
    else
      let odd := e % 2 = 1
      let m2 := (if odd then 2 * m else m) <<< 128
      let k := natSqrt m2
      roundMag f r sat false k ((e - (if odd then 1 else 0)) / 2 - 64) (k * k != m2)

/-- Signed comparison of two values that are not NaN (R46: zeros are equal). -/
def FVal.cmp : FVal → FVal → Ordering
  | .inf n, .inf n' => if n = n' then .eq else if n then .lt else .gt
  | .inf n, _ => if n then .lt else .gt
  | _, .inf n => if n then .gt else .lt
  | .fin n m e, .fin n' m' e' =>
    let g := min e e'
    compare (onGrid n m e g) (onGrid n' m' e' g)
  | _, _ => .eq

/-- The sign of a value; −0 has one. -/
def FVal.sign : FVal → Bool
  | .nan => false
  | .inf n => n
  | .fin n _ _ => n

/-- a orders strictly below b, with −0 below +0 (R46, minimum and maximum). -/
def FVal.below (a b : FVal) : Bool :=
  match a.cmp b with
  | .lt => true
  | .gt => false
  | .eq => a.sign && !b.sign

/-- Minimum or maximum of two codes (R46). -/
def fminmax (f : Fmt) (max? : Bool) (x y : Nat) : Nat :=
  let a := FVal.ofCode f x
  let b := FVal.ofCode f y
  if a.isNan || b.isNan then f.nanCode
  else if max? then (if a.below b then y else x) else (if b.below a then y else x)

/-- Converts a value to an integer in the mode; NaN gives 0 (R48). -/
def FVal.toInt (r : Rnd) : FVal → Option Int
  | .nan => some 0
  | .inf _ => none
  | .fin n m e =>
    let mag : Nat :=
      if 0 ≤ e then m <<< e.toNat
      else
        let sh := (-e).toNat
        let q := m >>> sh
        let rem := m - q <<< sh
        let half := 2 ^ (sh - 1)
        q + b2n (roundsUp r n (q % 2 == 1) (decide (half < rem)) (rem == half) (rem == 0))
    some (if n then -(mag : Int) else mag)

/-- Whether a TY code is an integer type, and whether it is signed; its width in bits (R37, R39). -/
def isInt (ty : Nat) : Bool := ty < 8
def isSigned (ty : Nat) : Bool := ty < 4
def tyBits (ty : Nat) : Nat :=
  if ty = 0 || ty = 4 || ty = 11 || ty = 12 || ty = 14 then 8
  else if ty = 1 || ty = 5 || ty = 9 || ty = 10 then 16
  else if ty = 2 || ty = 6 || ty = 8 then 32
  else if ty = 3 || ty = 7 then 64
  else if ty = 13 then 4 else 0

/-- The range of an integer type (R37). -/
def tyMin (ty : Nat) : Int := if isSigned ty then -((2 ^ (tyBits ty - 1) : Nat) : Int) else 0
def tyMax (ty : Nat) : Int :=
  if isSigned ty then ((2 ^ (tyBits ty - 1) : Nat) : Int) - 1 else ((2 ^ tyBits ty : Nat) : Int) - 1

/-- Wraps or clamps an exact integer to an integer type (R37). -/
def toTy (ty : Nat) (sat : Bool) (x : Int) : Nat :=
  wrap (tyBits ty) (if sat then clampInt (tyMin ty) (tyMax ty) x else x)

/-- The value of the low bits at an integer type (R37). -/
def tyVal (ty x : Nat) : Int :=
  if isSigned ty then sgn (tyBits ty) x else ((x % 2 ^ tyBits ty : Nat) : Int)

/-- Extends a result of an integer type to 64 bits (R38); floats stand zero-extended (R102). -/
def extTy (ty x : Nat) : Word :=
  if isSigned ty && isInt ty then BitVec.ofInt 64 (sgn (tyBits ty) x) else BitVec.ofNat 64 (x % 2 ^ tyBits ty)

/-- Converts a code of type `src` to a code of type `dst` (R38, R41, R47, R48). (DEDUCED, log 75) -/
def convert (src dst : Nat) (r : Rnd) (sat : Bool) (x : Nat) : Nat :=
  if src = dst then x % 2 ^ tyBits src
  else match Fmt.ofTy src, Fmt.ofTy dst with
  | none, none => toTy dst sat (tyVal src x)
  | none, some f => roundVal f r sat (FVal.ofInt false (tyVal src x) 0)
  | some f, none =>
    match (FVal.ofCode f x).toInt r with
    | some i => toTy dst true i
    | none => toTy dst true (if (FVal.ofCode f x).sign then tyMin dst else tyMax dst)
  | some f, some g => roundVal g r sat (FVal.ofCode f x)

/-- Two-operand arithmetic on codes, rounded once (R44). -/
def faddc (f : Fmt) (r : Rnd) (sat : Bool) (x y : Nat) : Nat :=
  roundVal f r sat ((FVal.ofCode f x).add r (FVal.ofCode f y))
def fsubc (f : Fmt) (r : Rnd) (sat : Bool) (x y : Nat) : Nat :=
  roundVal f r sat ((FVal.ofCode f x).add r (FVal.ofCode f y).neg)
def fmulc (f : Fmt) (r : Rnd) (sat : Bool) (x y : Nat) : Nat :=
  roundVal f r sat ((FVal.ofCode f x).mul (FVal.ofCode f y))
def ffmac (f : Fmt) (r : Rnd) (sat : Bool) (x y z : Nat) : Nat :=
  roundVal f r sat (((FVal.ofCode f x).mul (FVal.ofCode f y)).add r (FVal.ofCode f z))
def fdivc (f : Fmt) (r : Rnd) (sat : Bool) (x y : Nat) : Nat := fdiv f r sat (FVal.ofCode f x) (FVal.ofCode f y)
def fsqrtc (f : Fmt) (r : Rnd) (sat : Bool) (x : Nat) : Nat := fsqrt f r sat (FVal.ofCode f x)

/-- The f32 helpers of the sampler and the matrix island: round to nearest even, no saturation. -/
def f32add (x y : Nat) : Nat := faddc .f32 .rne false x y
def f32sub (x y : Nat) : Nat := fsubc .f32 .rne false x y
def f32mul (x y : Nat) : Nat := fmulc .f32 .rne false x y
def f32nan (x : Nat) : Bool := (FVal.ofCode .f32 x).isNan
def f32lt (x y : Nat) : Bool :=
  !f32nan x && !f32nan y && (FVal.ofCode .f32 x).cmp (FVal.ofCode .f32 y) == .lt
def f32eq (x y : Nat) : Bool :=
  !f32nan x && !f32nan y && (FVal.ofCode .f32 x).cmp (FVal.ofCode .f32 y) == .eq
def f32negInf : Nat := 0xFF800000
def f32posInf : Nat := 0x7F800000
def f32one : Nat := 0x3F800000

end Sys2Proof.Machine
end

