-- ==== Sys2Proof/Machine/Legal.lean ====
section
/-!
DEFINITION. The rules a word must keep before it means anything: the use each opcode makes of its fields (the opcode map
R74, the types R75, the tables of the instruction classes) and the checks of R76 with REASON and FBIT.
-/

namespace Sys2Proof.Machine

/-- Operand classes as the entries list them (R20); class 2 is split into p0-p7 and m0-m15. -/
inductive Cls where
  | s | v | p | m | a | q | b | c | i
  deriving DecidableEq, Repr

/-- The source modifiers an entry accepts (R66): none, those of the operand's class, or complement only. -/
inductive Mods where
  | none | arith | compl
  deriving DecidableEq, Repr

/-- The use of an operand field: unused, a destination (with `.sat` accepted or not), a source. -/
inductive Use where
  | unused
  | dst (cls : List Cls) (sat : Bool)
  | src (cls : List Cls) (mods : Mods)
  deriving DecidableEq, Repr

/-- The use of bits [127:96] besides IMM32: operand E, the mask (R107), a vector entry that takes no mask, or none. -/
inductive EUse where
  | none
  | reg (cls : List Cls)
  | mask
  | noMask
  deriving DecidableEq, Repr

/-- The FN form (R72): `conv n` has source types 0 to n; `order` says whether .acq and .rel are accepted and whether the
scope must be zero without a flag (R136); `roundFloat` is the rounding form for floating-point types only (R123). -/
inductive FnForm where
  | none | rounding | conv (top : Nat) | convDrain | cond | truth
  | order (acq rel zeroScope : Bool) | barrier | mark | pushMark | level | roundFloat
  deriving DecidableEq, Repr

/-- What an opcode's entry says of its fields. -/
structure OpSpec where
  opc : Nat
  tys : List Nat
  d : Use := .unused
  a : Use := .unused
  b : Use := .unused
  c : Use := .unused
  e : EUse := .none
  fn : FnForm := .none
  spcs : List Nat := [0]
  deriving DecidableEq, Repr

/-- The entry of each action word; the other rows of the table have none. -/
def opSpec : Instr → Option OpSpec
  | .ill _ => some { opc := 0x000, tys := [15] }
  | .nop _ => some { opc := 0x001, tys := [15] }
  | .enda _ => some { opc := 0x002, tys := [15] }
  | .brf _ => some { opc := 0x003, tys := [15], a := .src [.i] .none }
  | .skipt _ => some { opc := 0x004, tys := [15], a := .src [.i] .none, b := .src [.s, .c, .i] .none }
  | .peek _ => some { opc := 0x005, tys := [15], d := .dst [.s] false, a := .src [.i] .none }
  | .pushn _ => some { opc := 0x006, tys := [15], a := .src [.s, .c, .i] .none }
  | .commit _ => some { opc := 0x007, tys := [15] }
  | .abort _ => some { opc := 0x008, tys := [15] }
  | .tsset _ => some { opc := 0x009, tys := [15], a := .src [.s, .c, .i] .none }
  | .handoff _ => some { opc := 0x00A, tys := [15], a := .src [.s, .c, .i] .none }
  | .trap _ => some { opc := 0x00B, tys := [15], a := .src [.s, .c, .i] .none }
  | .yield _ => some { opc := 0x00C, tys := [15], a := .src [.s, .c, .i] .none }
  | .add _ => some { opc := 0x040, tys := [0, 1, 2, 3, 4, 5, 6, 7], d := .dst [.s] true, a := .src [.s, .c, .i] .arith, b := .src [.s, .c, .i] .arith }
  | .sub _ => some { opc := 0x041, tys := [0, 1, 2, 3, 4, 5, 6, 7], d := .dst [.s] true, a := .src [.s, .c, .i] .arith, b := .src [.s, .c, .i] .arith }
  | .mul _ => some { opc := 0x042, tys := [0, 1, 2, 3, 4, 5, 6, 7], d := .dst [.s] true, a := .src [.s, .c, .i] .arith, b := .src [.s, .c, .i] .arith }
  | .mulh _ => some { opc := 0x043, tys := [0, 1, 2, 3, 4, 5, 6, 7], d := .dst [.s] false, a := .src [.s, .c, .i] .arith, b := .src [.s, .c, .i] .arith }
  | .div _ => some { opc := 0x044, tys := [0, 1, 2, 3, 4, 5, 6, 7], d := .dst [.s] false, a := .src [.s, .c, .i] .none, b := .src [.s, .c, .i] .none }
  | .rem _ => some { opc := 0x045, tys := [0, 1, 2, 3, 4, 5, 6, 7], d := .dst [.s] false, a := .src [.s, .c, .i] .none, b := .src [.s, .c, .i] .none }
  | .madd _ => some { opc := 0x046, tys := [0, 1, 2, 3, 4, 5, 6, 7], d := .dst [.s] true, a := .src [.s, .c, .i] .arith, b := .src [.s, .c, .i] .arith, c := .src [.s, .c, .i] .arith }
  | .and _ => some { opc := 0x047, tys := [0, 1, 2, 3, 4, 5, 6, 7], d := .dst [.s] false, a := .src [.s, .c, .i] .none, b := .src [.s, .c, .i] .none }
  | .or _ => some { opc := 0x048, tys := [0, 1, 2, 3, 4, 5, 6, 7], d := .dst [.s] false, a := .src [.s, .c, .i] .none, b := .src [.s, .c, .i] .none }
  | .xor _ => some { opc := 0x049, tys := [0, 1, 2, 3, 4, 5, 6, 7], d := .dst [.s] false, a := .src [.s, .c, .i] .none, b := .src [.s, .c, .i] .none }
  | .andn _ => some { opc := 0x04A, tys := [0, 1, 2, 3, 4, 5, 6, 7], d := .dst [.s] false, a := .src [.s, .c, .i] .none, b := .src [.s, .c, .i] .none }
  | .shl _ => some { opc := 0x04B, tys := [0, 1, 2, 3, 4, 5, 6, 7], d := .dst [.s] false, a := .src [.s, .c, .i] .none, b := .src [.s, .c, .i] .none }
  | .shr _ => some { opc := 0x04C, tys := [0, 1, 2, 3, 4, 5, 6, 7], d := .dst [.s] false, a := .src [.s, .c, .i] .none, b := .src [.s, .c, .i] .none }
  | .sar _ => some { opc := 0x04D, tys := [0, 1, 2, 3, 4, 5, 6, 7], d := .dst [.s] false, a := .src [.s, .c, .i] .none, b := .src [.s, .c, .i] .none }
  | .rotr _ => some { opc := 0x04E, tys := [0, 1, 2, 3, 4, 5, 6, 7], d := .dst [.s] false, a := .src [.s, .c, .i] .none, b := .src [.s, .c, .i] .none }
  | .min _ => some { opc := 0x04F, tys := [0, 1, 2, 3, 4, 5, 6, 7], d := .dst [.s] false, a := .src [.s, .c, .i] .arith, b := .src [.s, .c, .i] .arith }
  | .max _ => some { opc := 0x050, tys := [0, 1, 2, 3, 4, 5, 6, 7], d := .dst [.s] false, a := .src [.s, .c, .i] .arith, b := .src [.s, .c, .i] .arith }
  | .clz _ => some { opc := 0x051, tys := [0, 1, 2, 3, 4, 5, 6, 7], d := .dst [.s] false, a := .src [.s, .c, .i] .none }
  | .popc _ => some { opc := 0x052, tys := [0, 1, 2, 3, 4, 5, 6, 7], d := .dst [.s] false, a := .src [.s, .c, .i] .none }
  | .bfx _ => some { opc := 0x053, tys := [0, 1, 2, 3, 4, 5, 6, 7], d := .dst [.s] false, a := .src [.s, .c, .i] .none, b := .src [.s, .c, .i] .none, c := .src [.s, .c, .i] .none }
  | .bfi _ => some { opc := 0x054, tys := [0, 1, 2, 3, 4, 5, 6, 7], d := .dst [.s] false, a := .src [.s, .c, .i] .none, b := .src [.s, .c, .i] .none, c := .src [.s, .c, .i] .none, e := .reg [.s, .c, .i] }
  | .mov _ => some { opc := 0x055, tys := [0, 1, 2, 3, 4, 5, 6, 7], d := .dst [.s] false, a := .src [.s, .c, .i] .none }
  | .sel _ => some { opc := 0x056, tys := [0, 1, 2, 3, 4, 5, 6, 7], d := .dst [.s] false, a := .src [.s, .c, .i] .none, b := .src [.s, .c, .i] .none, c := .src [.p] .compl }
  | .cmp _ => some { opc := 0x057, tys := [0, 1, 2, 3, 4, 5, 6, 7], d := .dst [.p] false, a := .src [.s, .c, .i] .arith, b := .src [.s, .c, .i] .arith, fn := .cond }
  | .fadd _ => some { opc := 0x080, tys := [8, 9, 10], d := .dst [.s] true, a := .src [.s, .c, .i] .arith, b := .src [.s, .c, .i] .arith, fn := .rounding }
  | .fsub _ => some { opc := 0x081, tys := [8, 9, 10], d := .dst [.s] true, a := .src [.s, .c, .i] .arith, b := .src [.s, .c, .i] .arith, fn := .rounding }
  | .fmul _ => some { opc := 0x082, tys := [8, 9, 10], d := .dst [.s] true, a := .src [.s, .c, .i] .arith, b := .src [.s, .c, .i] .arith, fn := .rounding }
  | .ffma _ => some { opc := 0x083, tys := [8, 9, 10], d := .dst [.s] true, a := .src [.s, .c, .i] .arith, b := .src [.s, .c, .i] .arith, c := .src [.s, .c, .i] .arith, fn := .rounding }
  | .fmin _ => some { opc := 0x084, tys := [8, 9, 10], d := .dst [.s] false, a := .src [.s, .c, .i] .arith, b := .src [.s, .c, .i] .arith, fn := .rounding }
  | .fmax _ => some { opc := 0x085, tys := [8, 9, 10], d := .dst [.s] false, a := .src [.s, .c, .i] .arith, b := .src [.s, .c, .i] .arith, fn := .rounding }
  | .fdiv _ => some { opc := 0x086, tys := [8, 9, 10], d := .dst [.s] true, a := .src [.s, .c, .i] .arith, b := .src [.s, .c, .i] .arith, fn := .rounding }
  | .fsqrt _ => some { opc := 0x087, tys := [8, 9, 10], d := .dst [.s] true, a := .src [.s, .c, .i] .arith, fn := .rounding }
  | .fcmp _ => some { opc := 0x088, tys := [8, 9, 10], d := .dst [.p] false, a := .src [.s, .c, .i] .arith, b := .src [.s, .c, .i] .arith, fn := .cond }
  | .fcvt _ => some { opc := 0x089, tys := [0, 1, 2, 3, 4, 5, 6, 7, 8, 9, 10, 11, 12], d := .dst [.s] true, a := .src [.s, .c, .i] .arith, fn := .conv 12 }
  | .plog _ => some { opc := 0x08A, tys := [15], d := .dst [.p] false, a := .src [.p] .compl, b := .src [.p] .compl, c := .src [.p] .compl, fn := .truth }
  | .vadd _ => some { opc := 0x0C0, tys := [0, 1, 2, 3, 4, 5, 6, 7], d := .dst [.v] true, a := .src [.v, .q, .s, .c, .i] .arith, b := .src [.v, .q, .s, .c, .i] .arith, e := .mask }
  | .vsub _ => some { opc := 0x0C1, tys := [0, 1, 2, 3, 4, 5, 6, 7], d := .dst [.v] true, a := .src [.v, .q, .s, .c, .i] .arith, b := .src [.v, .q, .s, .c, .i] .arith, e := .mask }
  | .vmul _ => some { opc := 0x0C2, tys := [0, 1, 2, 3, 4, 5, 6, 7], d := .dst [.v] true, a := .src [.v, .q, .s, .c, .i] .arith, b := .src [.v, .q, .s, .c, .i] .arith, e := .mask }
  | .vmulh _ => some { opc := 0x0C3, tys := [0, 1, 2, 3, 4, 5, 6, 7], d := .dst [.v] false, a := .src [.v, .q, .s, .c, .i] .arith, b := .src [.v, .q, .s, .c, .i] .arith, e := .mask }
  | .vmadd _ => some { opc := 0x0C4, tys := [0, 1, 2, 3, 4, 5, 6, 7], d := .dst [.v] true, a := .src [.v, .q, .s, .c, .i] .arith, b := .src [.v, .q, .s, .c, .i] .arith, c := .src [.v, .q, .s, .c, .i] .arith, e := .mask }
  | .vadds _ => some { opc := 0x0C5, tys := [0, 1, 2, 4, 5, 6], d := .dst [.v] true, a := .src [.v, .q, .s, .c, .i] .arith, b := .src [.v, .q, .s, .c, .i] .arith, e := .mask }
  | .vsubs _ => some { opc := 0x0C6, tys := [0, 1, 2, 4, 5, 6], d := .dst [.v] true, a := .src [.v, .q, .s, .c, .i] .arith, b := .src [.v, .q, .s, .c, .i] .arith, e := .mask }
  | .vand _ => some { opc := 0x0C7, tys := [0, 1, 2, 3, 4, 5, 6, 7], d := .dst [.v] false, a := .src [.v, .q, .s, .c, .i] .none, b := .src [.v, .q, .s, .c, .i] .none, e := .mask }
  | .vor _ => some { opc := 0x0C8, tys := [0, 1, 2, 3, 4, 5, 6, 7], d := .dst [.v] false, a := .src [.v, .q, .s, .c, .i] .none, b := .src [.v, .q, .s, .c, .i] .none, e := .mask }
  | .vxor _ => some { opc := 0x0C9, tys := [0, 1, 2, 3, 4, 5, 6, 7], d := .dst [.v] false, a := .src [.v, .q, .s, .c, .i] .none, b := .src [.v, .q, .s, .c, .i] .none, e := .mask }
  | .vshl _ => some { opc := 0x0CA, tys := [0, 1, 2, 3, 4, 5, 6, 7], d := .dst [.v] false, a := .src [.v, .q, .s, .c, .i] .none, b := .src [.v, .q, .s, .c, .i] .none, e := .mask }
  | .vshr _ => some { opc := 0x0CB, tys := [0, 1, 2, 3, 4, 5, 6, 7], d := .dst [.v] false, a := .src [.v, .q, .s, .c, .i] .none, b := .src [.v, .q, .s, .c, .i] .none, e := .mask }
  | .vsar _ => some { opc := 0x0CC, tys := [0, 1, 2, 3, 4, 5, 6, 7], d := .dst [.v] false, a := .src [.v, .q, .s, .c, .i] .none, b := .src [.v, .q, .s, .c, .i] .none, e := .mask }
  | .vmin _ => some { opc := 0x0CD, tys := [0, 1, 2, 3, 4, 5, 6, 7], d := .dst [.v] false, a := .src [.v, .q, .s, .c, .i] .arith, b := .src [.v, .q, .s, .c, .i] .arith, e := .mask }
  | .vmax _ => some { opc := 0x0CE, tys := [0, 1, 2, 3, 4, 5, 6, 7], d := .dst [.v] false, a := .src [.v, .q, .s, .c, .i] .arith, b := .src [.v, .q, .s, .c, .i] .arith, e := .mask }
  | .vabs _ => some { opc := 0x0CF, tys := [0, 1, 2, 3, 4, 5, 6, 7], d := .dst [.v] true, a := .src [.v, .q, .s, .c, .i] .none, e := .mask }
  | .vcmp _ => some { opc := 0x0D0, tys := [0, 1, 2, 3, 4, 5, 6, 7], d := .dst [.m] false, a := .src [.v, .q, .s, .c, .i] .arith, b := .src [.v, .q, .s, .c, .i] .arith, e := .mask, fn := .cond }
  | .vsel _ => some { opc := 0x0D1, tys := [0, 1, 2, 3, 4, 5, 6, 7], d := .dst [.v] false, a := .src [.v, .q, .s, .c, .i] .none, b := .src [.v, .q, .s, .c, .i] .none, c := .src [.m] .compl, e := .mask }
  | .vdot _ => some { opc := 0x0D2, tys := [1, 2, 3, 5, 6, 7], d := .dst [.v] true, a := .src [.v, .q, .s, .c, .i] .none, b := .src [.v, .q, .s, .c, .i] .none, c := .src [.v, .q, .s, .c, .i] .none, e := .mask }
  | .vclz _ => some { opc := 0x0D3, tys := [0, 1, 2, 3, 4, 5, 6, 7], d := .dst [.v] false, a := .src [.v, .q, .s, .c, .i] .none, e := .mask }
  | .vpopc _ => some { opc := 0x0D4, tys := [0, 1, 2, 3, 4, 5, 6, 7], d := .dst [.v] false, a := .src [.v, .q, .s, .c, .i] .none, e := .mask }
  | .vfadd _ => some { opc := 0x100, tys := [8, 9, 10], d := .dst [.v] true, a := .src [.v, .q, .s, .c, .i] .arith, b := .src [.v, .q, .s, .c, .i] .arith, e := .mask, fn := .rounding }
  | .vfsub _ => some { opc := 0x101, tys := [8, 9, 10], d := .dst [.v] true, a := .src [.v, .q, .s, .c, .i] .arith, b := .src [.v, .q, .s, .c, .i] .arith, e := .mask, fn := .rounding }
  | .vfmul _ => some { opc := 0x102, tys := [8, 9, 10], d := .dst [.v] true, a := .src [.v, .q, .s, .c, .i] .arith, b := .src [.v, .q, .s, .c, .i] .arith, e := .mask, fn := .rounding }
  | .vffma _ => some { opc := 0x103, tys := [8, 9, 10], d := .dst [.v] true, a := .src [.v, .q, .s, .c, .i] .arith, b := .src [.v, .q, .s, .c, .i] .arith, c := .src [.v, .q, .s, .c, .i] .arith, e := .mask, fn := .rounding }
  | .vfmin _ => some { opc := 0x104, tys := [8, 9, 10], d := .dst [.v] false, a := .src [.v, .q, .s, .c, .i] .arith, b := .src [.v, .q, .s, .c, .i] .arith, e := .mask, fn := .rounding }
  | .vfmax _ => some { opc := 0x105, tys := [8, 9, 10], d := .dst [.v] false, a := .src [.v, .q, .s, .c, .i] .arith, b := .src [.v, .q, .s, .c, .i] .arith, e := .mask, fn := .rounding }
  | .vfcmp _ => some { opc := 0x106, tys := [8, 9, 10], d := .dst [.m] false, a := .src [.v, .q, .s, .c, .i] .arith, b := .src [.v, .q, .s, .c, .i] .arith, e := .mask, fn := .cond }
  | .vfexp2 _ => some { opc := 0x107, tys := [8, 9, 10], d := .dst [.v] true, a := .src [.v, .q, .s, .c, .i] .arith, e := .mask, fn := .rounding }
  | .vflog2 _ => some { opc := 0x108, tys := [8, 9, 10], d := .dst [.v] true, a := .src [.v, .q, .s, .c, .i] .arith, e := .mask, fn := .rounding }
  | .vfrcp _ => some { opc := 0x109, tys := [8, 9, 10], d := .dst [.v] true, a := .src [.v, .q, .s, .c, .i] .arith, e := .mask, fn := .rounding }
  | .vfrsq _ => some { opc := 0x10A, tys := [8, 9, 10], d := .dst [.v] true, a := .src [.v, .q, .s, .c, .i] .arith, e := .mask, fn := .rounding }
  | .vfsig _ => some { opc := 0x10B, tys := [8, 9, 10], d := .dst [.v] true, a := .src [.v, .q, .s, .c, .i] .arith, e := .mask, fn := .rounding }
  | .vcvt _ => some { opc := 0x10C, tys := [0, 1, 2, 3, 4, 5, 6, 7, 8, 9, 10, 11, 12, 13], d := .dst [.v] true, a := .src [.v, .q, .s, .c, .i] .arith, b := .src [.i] .none, e := .mask, fn := .conv 14 }
  | .vqk4 _ => some { opc := 0x10D, tys := [14], d := .dst [.v] false, a := .src [.v, .q, .s, .c, .i] .none, b := .src [.v, .q, .s, .c, .i] .none, e := .noMask }
  | .vbcast _ => some { opc := 0x140, tys := [0, 1, 2, 3, 4, 5, 6, 7, 8, 9, 10, 11, 12], d := .dst [.v] false, a := .src [.v, .q, .s, .c, .i] .none, b := .src [.s, .c, .i] .none, e := .mask }
  | .vins _ => some { opc := 0x141, tys := [0, 1, 2, 3, 4, 5, 6, 7, 8, 9, 10, 11, 12], d := .dst [.v] false, a := .src [.s, .c, .i] .none, b := .src [.s, .c, .i] .none, e := .noMask }
  | .vext _ => some { opc := 0x142, tys := [0, 1, 2, 3, 4, 5, 6, 7, 8, 9, 10, 11, 12], d := .dst [.s] false, a := .src [.v, .q] .none, b := .src [.s, .c, .i] .none, e := .noMask }
  | .vperm _ => some { opc := 0x143, tys := [0, 1, 2, 3, 4, 5, 6, 7, 8, 9, 10, 11, 12], d := .dst [.v] false, a := .src [.v, .q, .s, .c, .i] .none, b := .src [.v, .q, .s, .c, .i] .none, e := .mask }
  | .vslide _ => some { opc := 0x144, tys := [0, 1, 2, 3, 4, 5, 6, 7, 8, 9, 10, 11, 12], d := .dst [.v] false, a := .src [.v, .q, .s, .c, .i] .none, b := .src [.v, .q, .s, .c, .i] .none, c := .src [.s, .c, .i] .none, e := .mask }
  | .vzip _ => some { opc := 0x145, tys := [0, 1, 2, 3, 4, 5, 6, 7, 8, 9, 10, 11, 12], d := .dst [.v] false, a := .src [.v, .q, .s, .c, .i] .none, b := .src [.v, .q, .s, .c, .i] .none, c := .src [.i] .none, e := .mask }
  | .vunzip _ => some { opc := 0x146, tys := [0, 1, 2, 3, 4, 5, 6, 7, 8, 9, 10, 11, 12], d := .dst [.v] false, a := .src [.v, .q, .s, .c, .i] .none, b := .src [.v, .q, .s, .c, .i] .none, c := .src [.i] .none, e := .mask }
  | .vcompr _ => some { opc := 0x147, tys := [0, 1, 2, 3, 4, 5, 6, 7, 8, 9, 10, 11, 12], d := .dst [.v] false, a := .src [.v, .q, .s, .c, .i] .none, c := .src [.m] .compl, e := .noMask }
  | .vexpnd _ => some { opc := 0x148, tys := [0, 1, 2, 3, 4, 5, 6, 7, 8, 9, 10, 11, 12], d := .dst [.v] false, a := .src [.v, .q, .s, .c, .i] .none, c := .src [.m] .compl, e := .noMask }
  | .vrsum _ => some { opc := 0x149, tys := [0, 1, 2, 3, 4, 5, 6, 7, 8, 9, 10, 11, 12], d := .dst [.s] true, a := .src [.v, .q, .s, .c, .i] .arith, e := .mask, fn := .roundFloat }
  | .vrmax _ => some { opc := 0x14A, tys := [0, 1, 2, 3, 4, 5, 6, 7, 8, 9, 10, 11, 12], d := .dst [.s] false, a := .src [.v, .q, .s, .c, .i] .arith, e := .mask }
  | .vrmin _ => some { opc := 0x14B, tys := [0, 1, 2, 3, 4, 5, 6, 7, 8, 9, 10, 11, 12], d := .dst [.s] false, a := .src [.v, .q, .s, .c, .i] .arith, e := .mask }
  | .vscan _ => some { opc := 0x14C, tys := [0, 1, 2, 3, 4, 5, 6, 7, 8, 9, 10, 11, 12], d := .dst [.v] true, a := .src [.v, .q, .s, .c, .i] .none, e := .mask, fn := .roundFloat }
  | .viota _ => some { opc := 0x14D, tys := [0, 1, 2, 3, 4, 5, 6, 7], d := .dst [.v] false, a := .src [.s, .c, .i] .none, e := .mask }
  | .mlog _ => some { opc := 0x14E, tys := [15], d := .dst [.m] false, a := .src [.m] .compl, b := .src [.m] .compl, c := .src [.m] .compl, e := .noMask, fn := .truth }
  | .mcnt _ => some { opc := 0x14F, tys := [15], d := .dst [.s] false, a := .src [.m] .compl, e := .noMask }
  | .mfirst _ => some { opc := 0x150, tys := [15], d := .dst [.s] false, a := .src [.m] .none, e := .noMask }
  | .ld _ => some { opc := 0x180, tys := [0, 1, 2, 3, 4, 5, 6, 7, 8, 9, 10, 11, 12], d := .dst [.s] false, a := .src [.s, .c] .none, b := .src [.s, .c, .i] .none, fn := .order true false true, spcs := [0, 1, 2, 3] }
  | .st _ => some { opc := 0x181, tys := [0, 1, 2, 3, 4, 5, 6, 7, 8, 9, 10, 11, 12], a := .src [.s, .c] .none, b := .src [.s, .c, .i] .none, c := .src [.s, .c, .i] .none, fn := .order false true true, spcs := [0, 1, 2, 3] }
  | .vld _ => some { opc := 0x182, tys := [0, 1, 2, 3, 4, 5, 6, 7, 8, 9, 10, 11, 12, 13, 14], d := .dst [.v] false, a := .src [.s, .c] .none, b := .src [.s, .c, .i] .none, e := .mask, fn := .order true false true, spcs := [0, 1, 2, 3, 4] }
  | .vst _ => some { opc := 0x183, tys := [0, 1, 2, 3, 4, 5, 6, 7, 8, 9, 10, 11, 12, 13, 14], a := .src [.s, .c] .none, b := .src [.s, .c, .i] .none, c := .src [.v, .q] .none, e := .mask, fn := .order false true true, spcs := [0, 1, 2, 3, 4] }
  | .vlds _ => some { opc := 0x184, tys := [0, 1, 2, 3, 4, 5, 6, 7, 8, 9, 10, 11, 12], d := .dst [.v] false, a := .src [.s, .c] .none, b := .src [.s, .c, .i] .none, e := .mask, fn := .order true false true, spcs := [0, 1, 2, 3] }
  | .vsts _ => some { opc := 0x185, tys := [0, 1, 2, 3, 4, 5, 6, 7, 8, 9, 10, 11, 12], a := .src [.s, .c] .none, b := .src [.s, .c, .i] .none, c := .src [.v, .q] .none, e := .mask, fn := .order false true true, spcs := [0, 1, 2, 3] }
  | .vgath _ => some { opc := 0x186, tys := [0, 1, 2, 3, 4, 5, 6, 7, 8, 9, 10, 11, 12, 13, 14], d := .dst [.v] false, a := .src [.s, .c] .none, b := .src [.v, .q] .none, e := .mask, fn := .order true false true, spcs := [0, 1, 2, 3, 4] }
  | .vscat _ => some { opc := 0x187, tys := [0, 1, 2, 3, 4, 5, 6, 7, 8, 9, 10, 11, 12, 13, 14], a := .src [.s, .c] .none, b := .src [.v, .q] .none, c := .src [.v, .q] .none, e := .mask, fn := .order false true true, spcs := [0, 1, 2, 3, 4] }
  | .pref _ => some { opc := 0x188, tys := [15], a := .src [.s, .c] .none, b := .src [.s, .c, .i] .none, fn := .order false false true }
  | .binit _ => some { opc := 0x1C0, tys := [15], d := .dst [.b] false, a := .src [.s, .c, .i] .none, b := .src [.s, .c, .i] .none }
  | .bpush _ => some { opc := 0x1C1, tys := [15], d := .dst [.b] false, a := .src [.v, .q] .none, b := .src [.i] .none }
  | .bpop _ => some { opc := 0x1C2, tys := [15], d := .dst [.v] false, a := .src [.b] .none, b := .src [.i] .none }
  | .bht _ => some { opc := 0x1C3, tys := [15], d := .dst [.s] false, a := .src [.b] .none }
  | .bret _ => some { opc := 0x1C4, tys := [15], a := .src [.b] .none, b := .src [.s, .c, .i] .none }
  | .cflush _ => some { opc := 0x1C5, tys := [15], a := .src [.s, .c, .i] .none, b := .src [.s, .c, .i] .none, c := .src [.s, .c, .i] .none }
  | .cinv _ => some { opc := 0x1C6, tys := [15], a := .src [.s, .c, .i] .none, b := .src [.s, .c, .i] .none, c := .src [.s, .c, .i] .none }
  | .aadd _ => some { opc := 0x200, tys := [2, 3, 6, 7], d := .dst [.s] false, a := .src [.s, .c] .none, b := .src [.s, .c, .i] .none, c := .src [.s, .c, .i] .none, fn := .order true true false, spcs := [0, 1, 2, 3] }
  | .amin _ => some { opc := 0x201, tys := [2, 3, 6, 7], d := .dst [.s] false, a := .src [.s, .c] .none, b := .src [.s, .c, .i] .none, c := .src [.s, .c, .i] .none, fn := .order true true false, spcs := [0, 1, 2, 3] }
  | .amax _ => some { opc := 0x202, tys := [2, 3, 6, 7], d := .dst [.s] false, a := .src [.s, .c] .none, b := .src [.s, .c, .i] .none, c := .src [.s, .c, .i] .none, fn := .order true true false, spcs := [0, 1, 2, 3] }
  | .aand _ => some { opc := 0x203, tys := [2, 3, 6, 7], d := .dst [.s] false, a := .src [.s, .c] .none, b := .src [.s, .c, .i] .none, c := .src [.s, .c, .i] .none, fn := .order true true false, spcs := [0, 1, 2, 3] }
  | .aor _ => some { opc := 0x204, tys := [2, 3, 6, 7], d := .dst [.s] false, a := .src [.s, .c] .none, b := .src [.s, .c, .i] .none, c := .src [.s, .c, .i] .none, fn := .order true true false, spcs := [0, 1, 2, 3] }
  | .axor _ => some { opc := 0x205, tys := [2, 3, 6, 7], d := .dst [.s] false, a := .src [.s, .c] .none, b := .src [.s, .c, .i] .none, c := .src [.s, .c, .i] .none, fn := .order true true false, spcs := [0, 1, 2, 3] }
  | .axchg _ => some { opc := 0x206, tys := [2, 3, 6, 7], d := .dst [.s] false, a := .src [.s, .c] .none, b := .src [.s, .c, .i] .none, c := .src [.s, .c, .i] .none, fn := .order true true false, spcs := [0, 1, 2, 3] }
  | .acas _ => some { opc := 0x207, tys := [2, 3, 6, 7], d := .dst [.s] false, a := .src [.s, .c] .none, b := .src [.s, .c, .i] .none, c := .src [.s, .c, .i] .none, e := .reg [.s, .c], fn := .order true true false, spcs := [0, 1, 2, 3] }
  | .afadd _ => some { opc := 0x208, tys := [8], d := .dst [.s] false, a := .src [.s, .c] .none, b := .src [.s, .c, .i] .none, c := .src [.s, .c, .i] .none, fn := .order true true false, spcs := [0, 1, 2, 3] }
  | .ainc _ => some { opc := 0x209, tys := [2, 3, 6, 7], d := .dst [.s] false, a := .src [.s, .c] .none, b := .src [.s, .c, .i] .none, c := .src [.s, .c, .i] .none, fn := .order true true false, spcs := [0, 1, 2, 3] }
  | .fence _ => some { opc := 0x240, tys := [15], fn := .order true true false }
  | .waitw _ => some { opc := 0x241, tys := [15], d := .dst [.s] false, a := .src [.s, .c] .none, b := .src [.s, .c, .i] .none, c := .src [.s, .c, .i] .none, fn := .order true false false, spcs := [0, 1, 2, 3] }
  | .barinit _ => some { opc := 0x242, tys := [15], a := .src [.s, .c] .none, b := .src [.s, .c, .i] .none, c := .src [.s, .c, .i] .none, fn := .barrier, spcs := [2, 3] }
  | .bararr _ => some { opc := 0x243, tys := [15], d := .dst [.s] false, a := .src [.s, .c] .none, b := .src [.s, .c, .i] .none, fn := .barrier, spcs := [2, 3] }
  | .bartx _ => some { opc := 0x244, tys := [15], a := .src [.s, .c] .none, b := .src [.s, .c, .i] .none, c := .src [.s, .c, .i] .none, fn := .barrier, spcs := [2, 3] }
  | .barwait _ => some { opc := 0x245, tys := [15], a := .src [.s, .c] .none, b := .src [.s, .c, .i] .none, c := .src [.s, .c, .i] .none, fn := .barrier, spcs := [2, 3] }
  | .qbind _ => some { opc := 0x280, tys := [15], d := .dst [.q] false, a := .src [.s, .c, .i] .none }
  | .qpush _ => some { opc := 0x281, tys := [15], d := .dst [.q] false, a := .src [.v, .q] .none, b := .src [.s, .c, .i] .none, fn := .pushMark }
  | .qmark _ => some { opc := 0x282, tys := [15], d := .dst [.q] false, fn := .mark }
  | .qstat _ => some { opc := 0x283, tys := [15], d := .dst [.s] false, a := .src [.q] .none }
  | .qfilt _ => some { opc := 0x284, tys := [15], d := .dst [.q] false, a := .src [.a] .none, b := .src [.s, .c, .i] .none }
  | .qclose _ => some { opc := 0x285, tys := [15], d := .dst [.q] false }
  | .send _ => some { opc := 0x286, tys := [15], a := .src [.s, .c, .i] .none, b := .src [.v, .q] .none }
  | .sendi _ => some { opc := 0x287, tys := [15], a := .src [.s, .c, .i] .none, b := .src [.s, .c, .i] .none, c := .src [.s, .c, .i] .none }
  | .mldb _ => some { opc := 0x2C0, tys := [0, 9, 10, 11, 12, 13, 14], a := .src [.b] .none }
  | .mswap _ => some { opc := 0x2C1, tys := [15] }
  | .mma _ => some { opc := 0x2C2, tys := [0, 9, 10, 11, 12, 13, 14], d := .dst [.a] false, a := .src [.b] .none, b := .src [.s, .c, .i, .m] .none }
  | .msca _ => some { opc := 0x2C3, tys := [11, 12, 13, 14], d := .dst [.a] false, a := .src [.s, .c, .i] .none, b := .src [.s, .c, .i] .none, c := .src [.s, .c, .i] .none, spcs := [1] }
  | .mzero _ => some { opc := 0x2C4, tys := [15], d := .dst [.a] false }
  | .mdrn _ => some { opc := 0x2C5, tys := [0, 1, 2, 3, 4, 5, 6, 7, 8, 9, 10, 11, 12], d := .dst [.v, .q, .b] true, a := .src [.a] .none, b := .src [.s, .c, .i] .none, c := .src [.i] .none, fn := .convDrain }
  | .mstat _ => some { opc := 0x2C6, tys := [15], d := .dst [.s] false }
  | .rldecl _ => some { opc := 0x300, tys := [15], d := .dst [.a] false, a := .src [.s, .c, .i] .none }
  | .rlpush _ => some { opc := 0x301, tys := [8], d := .dst [.a] false, a := .src [.s, .c, .i] .none, b := .src [.v, .a] .none, c := .src [.v, .s, .c, .i] .none, e := .mask }
  | .rlmerge _ => some { opc := 0x302, tys := [15], d := .dst [.a] false, a := .src [.s, .c, .i] .none, b := .src [.q] .none }
  | .rlsend _ => some { opc := 0x303, tys := [15], d := .dst [.q] false, a := .src [.a] .none, b := .src [.s, .c, .i] .none, c := .src [.i] .none }
  | .rlread _ => some { opc := 0x304, tys := [8], d := .dst [.v] false, a := .src [.a] .none, b := .src [.s, .c, .i] .none, c := .src [.i] .none }
  | .rlth _ => some { opc := 0x305, tys := [8], d := .dst [.s] false, a := .src [.a] .none, b := .src [.s, .c, .i] .none }
  | .rlclr _ => some { opc := 0x306, tys := [15], d := .dst [.a] false, a := .src [.s, .c, .i] .none }
  | .rnorm _ => some { opc := 0x307, tys := [8], d := .dst [.s] false, a := .src [.a] .none, b := .src [.s, .c, .i] .none, c := .src [.s, .c, .i] .none }
  | .rscan _ => some { opc := 0x308, tys := [8], d := .dst [.a] false, a := .src [.s, .c, .i] .none }
  | .launch _ => some { opc := 0x340, tys := [15], d := .dst [.s] false, a := .src [.s, .c] .none, b := .src [.s, .c, .i] .none }
  | .cancel _ => some { opc := 0x341, tys := [15], a := .src [.s, .c] .none, fn := .level }
  | .cstat _ => some { opc := 0x342, tys := [15], d := .dst [.s] false, a := .src [.s, .c] .none, b := .src [.i] .none, fn := .level }
  | .srd _ => some { opc := 0x380, tys := [15], d := .dst [.s] false, a := .src [.i] .none }
  | .swr _ => some { opc := 0x381, tys := [15], a := .src [.i] .none, b := .src [.s, .c, .i] .none }
  | .rtt _ => some { opc := 0x382, tys := [15], a := .src [.i] .none }
  | .tlbinv _ => some { opc := 0x383, tys := [15], a := .src [.s, .c] .none, b := .src [.s, .c, .i] .none, c := .src [.s, .c, .i] .none }
  | .cfgwr _ => some { opc := 0x384, tys := [15], a := .src [.s, .c] .none, b := .src [.s, .c, .i] .none, c := .src [.s, .c, .i] .none }
  | .cfgrd _ => some { opc := 0x385, tys := [15], d := .dst [.s] false, a := .src [.s, .c] .none }
  | .crc32c _ => some { opc := 0x386, tys := [15], d := .dst [.s] false, a := .src [.s, .c, .i] .none, b := .src [.s, .c, .v] .none, c := .src [.i] .none }
  | .sm3c _ => some { opc := 0x387, tys := [15], d := .dst [.v] false, a := .src [.v] .none, b := .src [.v] .none }
  | .halt _ => some { opc := 0x388, tys := [15], a := .src [.s, .c, .i] .none }
  | .lbias => none
  | .lpenRep _ => none
  | .lpenFreq _ => none
  | .lpenPres _ => none
  | .ltemp => none
  | .lclamp _ _ => none
  | .lvmaskAllow => none
  | .lvmaskBan => none
  | .lscale _ => none
  | .laddc _ => none
  | .ltopk => none
  | .ltopp => none
  | .lminp _ => none
  | .ldraw => none
  | .ldrawGreedy => none
  | .lcount => none
  | .lend => none
  | .ecopy _ => none
  | .estride _ => none
  | .eragged _ => none
  | .egather _ => none
  | .escatter _ => none
  | .efill _ => none
  | .ereduce _ => none
  | .ejoin _ => none
  | .esignal _ => none
  | .everify _ => none
  | .sseq _ => none
  | .sbatch _ => none
  | .slaunch _ => none
  | .sgraph _ => none
  | .sopen _ => none
  | .scancel _ => none
  | .nput _ => none
  | .nget _ => none
  | .npost _ => none
  | .ncoll _ => none
  | .mretire _ => none
  | .mdie _ => none
  | .mrecal _ => none
  | .mfw _ => none
  | .mattest _ => none
  | .mrecord _ => none
  | .beginLoad _ _ => none
  | .sealLoad _ _ _ => none
  | .clearLoad _ _ => none
  | .moduleReset _ _ => none
  | .thermalTrip => none
  | .arbiterGrant _ _ => none
  | .forcedGrant _ _ => none
  | .arbiterWeightRefresh _ _ => none
  | .yieldExpiry _ => none
  | .terminalShift _ => none
  | .nonterminalLookup _ => none
  | .actionStep _ => none
  | .endStep _ => none
  | .roundClose _ => none
  | .recovery _ => none
  | .roundCommit _ => none
  | .unitDone _ => none
  | .unitStop _ => none
  | .messageDeparture _ _ _ => none
  | .beatDeparture _ _ => none
  | .beatArrival _ => none
  | .inboxMessageDelivery _ => none
  | .loadDataArrival _ _ _ => none
  | .atomicOldValueReturn _ _ => none
  | .waitwSatisfied _ _ => none
  | .cstatFill _ _ => none
  | .lookaheadFill _ _ => none
  | .translationWalk _ => none
  | .walkResult _ => none
  | .faultResolution _ _ => none
  | .tlbinvAcknowledge _ => none
  | .mmaRowFire _ _ => none
  | .mldbFill _ _ => none
  | .mswapEffect _ _ => none
  | .closingUnitOperation _ _ => none
  | .childArrival _ => none
  | .release _ => none
  | .engineCommandStart _ _ _ => none
  | .commandMigration _ _ _ _ => none
  | .engineCommandFinish _ _ _ => none
  | .messageRingRecord _ _ _ => none
  | .batchStart _ => none
  | .samplerEofDiscard _ _ => none
  | .lap1 _ => none
  | .lap2 _ => none
  | .batchCompletion _ => none
  | .graphAdmission _ _ => none
  | .dispatch _ _ => none
  | .nodeReply _ => none
  | .poolGrant _ => none
  | .entryAgeing _ _ => none
  | .poolFault _ => none
  | .pageLoad _ => none
  | .preemptFreeze _ => none
  | .freezeWave _ => none
  | .contextStop _ => none
  | .imageReadout _ => none
  | .restore _ => none
  | .budgetWindow _ => none
  | .governorUpdate _ _ => none
  | .hostMsgWrite _ _ _ => none
  | .windowHandover _ => none
  | .ctlWrite _ _ => none
  | .hostRingWrite _ => none
  | .hostHbmAccess _ _ _ => none
  | .hostRequestCompletion _ _ => none
  | .registerWrite _ _ => none
  | .inboundPacket _ => none
  | .transportAcknowledgement _ _ => none
  | .timeout _ => none
  | .congestionEntryWrite _ _ => none
  | .coreRestart _ _ _ => none
  | .recalibrationEnd _ _ => none

/-- The fields of an action word. -/
def fieldsOf : Instr → Option Fields
  | .ill w => some w
  | .nop w => some w
  | .enda w => some w
  | .brf w => some w
  | .skipt w => some w
  | .peek w => some w
  | .pushn w => some w
  | .commit w => some w
  | .abort w => some w
  | .tsset w => some w
  | .handoff w => some w
  | .trap w => some w
  | .yield w => some w
  | .add w => some w
  | .sub w => some w
  | .mul w => some w
  | .mulh w => some w
  | .div w => some w
  | .rem w => some w
  | .madd w => some w
  | .and w => some w
  | .or w => some w
  | .xor w => some w
  | .andn w => some w
  | .shl w => some w
  | .shr w => some w
  | .sar w => some w
  | .rotr w => some w
  | .min w => some w
  | .max w => some w
  | .clz w => some w
  | .popc w => some w
  | .bfx w => some w
  | .bfi w => some w
  | .mov w => some w
  | .sel w => some w
  | .cmp w => some w
  | .fadd w => some w
  | .fsub w => some w
  | .fmul w => some w
  | .ffma w => some w
  | .fmin w => some w
  | .fmax w => some w
  | .fdiv w => some w
  | .fsqrt w => some w
  | .fcmp w => some w
  | .fcvt w => some w
  | .plog w => some w
  | .vadd w => some w
  | .vsub w => some w
  | .vmul w => some w
  | .vmulh w => some w
  | .vmadd w => some w
  | .vadds w => some w
  | .vsubs w => some w
  | .vand w => some w
  | .vor w => some w
  | .vxor w => some w
  | .vshl w => some w
  | .vshr w => some w
  | .vsar w => some w
  | .vmin w => some w
  | .vmax w => some w
  | .vabs w => some w
  | .vcmp w => some w
  | .vsel w => some w
  | .vdot w => some w
  | .vclz w => some w
  | .vpopc w => some w
  | .vfadd w => some w
  | .vfsub w => some w
  | .vfmul w => some w
  | .vffma w => some w
  | .vfmin w => some w
  | .vfmax w => some w
  | .vfcmp w => some w
  | .vfexp2 w => some w
  | .vflog2 w => some w
  | .vfrcp w => some w
  | .vfrsq w => some w
  | .vfsig w => some w
  | .vcvt w => some w
  | .vqk4 w => some w
  | .vbcast w => some w
  | .vins w => some w
  | .vext w => some w
  | .vperm w => some w
  | .vslide w => some w
  | .vzip w => some w
  | .vunzip w => some w
  | .vcompr w => some w
  | .vexpnd w => some w
  | .vrsum w => some w
  | .vrmax w => some w
  | .vrmin w => some w
  | .vscan w => some w
  | .viota w => some w
  | .mlog w => some w
  | .mcnt w => some w
  | .mfirst w => some w
  | .ld w => some w
  | .st w => some w
  | .vld w => some w
  | .vst w => some w
  | .vlds w => some w
  | .vsts w => some w
  | .vgath w => some w
  | .vscat w => some w
  | .pref w => some w
  | .binit w => some w
  | .bpush w => some w
  | .bpop w => some w
  | .bht w => some w
  | .bret w => some w
  | .cflush w => some w
  | .cinv w => some w
  | .aadd w => some w
  | .amin w => some w
  | .amax w => some w
  | .aand w => some w
  | .aor w => some w
  | .axor w => some w
  | .axchg w => some w
  | .acas w => some w
  | .afadd w => some w
  | .ainc w => some w
  | .fence w => some w
  | .waitw w => some w
  | .barinit w => some w
  | .bararr w => some w
  | .bartx w => some w
  | .barwait w => some w
  | .qbind w => some w
  | .qpush w => some w
  | .qmark w => some w
  | .qstat w => some w
  | .qfilt w => some w
  | .qclose w => some w
  | .send w => some w
  | .sendi w => some w
  | .mldb w => some w
  | .mswap w => some w
  | .mma w => some w
  | .msca w => some w
  | .mzero w => some w
  | .mdrn w => some w
  | .mstat w => some w
  | .rldecl w => some w
  | .rlpush w => some w
  | .rlmerge w => some w
  | .rlsend w => some w
  | .rlread w => some w
  | .rlth w => some w
  | .rlclr w => some w
  | .rnorm w => some w
  | .rscan w => some w
  | .launch w => some w
  | .cancel w => some w
  | .cstat w => some w
  | .srd w => some w
  | .swr w => some w
  | .rtt w => some w
  | .tlbinv w => some w
  | .cfgwr w => some w
  | .cfgrd w => some w
  | .crc32c w => some w
  | .sm3c w => some w
  | .halt w => some w
  | .lbias => none
  | .lpenRep _ => none
  | .lpenFreq _ => none
  | .lpenPres _ => none
  | .ltemp => none
  | .lclamp _ _ => none
  | .lvmaskAllow => none
  | .lvmaskBan => none
  | .lscale _ => none
  | .laddc _ => none
  | .ltopk => none
  | .ltopp => none
  | .lminp _ => none
  | .ldraw => none
  | .ldrawGreedy => none
  | .lcount => none
  | .lend => none
  | .ecopy _ => none
  | .estride _ => none
  | .eragged _ => none
  | .egather _ => none
  | .escatter _ => none
  | .efill _ => none
  | .ereduce _ => none
  | .ejoin _ => none
  | .esignal _ => none
  | .everify _ => none
  | .sseq _ => none
  | .sbatch _ => none
  | .slaunch _ => none
  | .sgraph _ => none
  | .sopen _ => none
  | .scancel _ => none
  | .nput _ => none
  | .nget _ => none
  | .npost _ => none
  | .ncoll _ => none
  | .mretire _ => none
  | .mdie _ => none
  | .mrecal _ => none
  | .mfw _ => none
  | .mattest _ => none
  | .mrecord _ => none
  | .beginLoad _ _ => none
  | .sealLoad _ _ _ => none
  | .clearLoad _ _ => none
  | .moduleReset _ _ => none
  | .thermalTrip => none
  | .arbiterGrant _ _ => none
  | .forcedGrant _ _ => none
  | .arbiterWeightRefresh _ _ => none
  | .yieldExpiry _ => none
  | .terminalShift _ => none
  | .nonterminalLookup _ => none
  | .actionStep _ => none
  | .endStep _ => none
  | .roundClose _ => none
  | .recovery _ => none
  | .roundCommit _ => none
  | .unitDone _ => none
  | .unitStop _ => none
  | .messageDeparture _ _ _ => none
  | .beatDeparture _ _ => none
  | .beatArrival _ => none
  | .inboxMessageDelivery _ => none
  | .loadDataArrival _ _ _ => none
  | .atomicOldValueReturn _ _ => none
  | .waitwSatisfied _ _ => none
  | .cstatFill _ _ => none
  | .lookaheadFill _ _ => none
  | .translationWalk _ => none
  | .walkResult _ => none
  | .faultResolution _ _ => none
  | .tlbinvAcknowledge _ => none
  | .mmaRowFire _ _ => none
  | .mldbFill _ _ => none
  | .mswapEffect _ _ => none
  | .closingUnitOperation _ _ => none
  | .childArrival _ => none
  | .release _ => none
  | .engineCommandStart _ _ _ => none
  | .commandMigration _ _ _ _ => none
  | .engineCommandFinish _ _ _ => none
  | .messageRingRecord _ _ _ => none
  | .batchStart _ => none
  | .samplerEofDiscard _ _ => none
  | .lap1 _ => none
  | .lap2 _ => none
  | .batchCompletion _ => none
  | .graphAdmission _ _ => none
  | .dispatch _ _ => none
  | .nodeReply _ => none
  | .poolGrant _ => none
  | .entryAgeing _ _ => none
  | .poolFault _ => none
  | .pageLoad _ => none
  | .preemptFreeze _ => none
  | .freezeWave _ => none
  | .contextStop _ => none
  | .imageReadout _ => none
  | .restore _ => none
  | .budgetWindow _ => none
  | .governorUpdate _ _ => none
  | .hostMsgWrite _ _ _ => none
  | .windowHandover _ => none
  | .ctlWrite _ _ => none
  | .hostRingWrite _ => none
  | .hostHbmAccess _ _ _ => none
  | .hostRequestCompletion _ _ => none
  | .registerWrite _ _ => none
  | .inboundPacket _ => none
  | .transportAcknowledgement _ _ => none
  | .timeout _ => none
  | .congestionEntryWrite _ _ => none
  | .coreRestart _ _ _ => none
  | .recalibrationEnd _ _ => none

end Sys2Proof.Machine

namespace Sys2Proof

/-- Operand E: bits [109:96] of the word (R62). -/
def Fields.e (w : Fields) : Operand :=
  { cls := w.imm.extractLsb' 11 3, idx := w.imm.extractLsb' 3 8, bt := w.imm.getLsbD 2, mod := w.imm.extractLsb' 0 2 }

/-- A class-7 operand that selects IMM32 (R68). -/
def Operand.isImm32 (o : Operand) : Bool := o.cls == 7 && o.idx.getLsbD 7

/-- An operand field whose bits are all zero. -/
def Operand.isZero (o : Operand) : Bool := o.cls == 0 && o.idx == 0 && !o.bt && o.mod == 0

end Sys2Proof

namespace Sys2Proof.Machine

/-- The class code of an entry's class and its legal indices (R20). -/
def Cls.code : Cls → Nat
  | .s => 0 | .v => 1 | .p => 2 | .m => 2 | .a => 3 | .q => 4 | .b => 5 | .c => 6 | .i => 7

def Cls.legalIdx (nacc : Nat) : Cls → Nat → Bool
  | .s, x => x < 64
  | .v, x => x < 32
  | .p, x => x < 8
  | .m, x => 16 ≤ x && x < 32
  | .a, x => x < 8 && x < nacc
  | .q, x => x < 16
  | .b, x => x < 8
  | .c, _ => true
  | .i, _ => true

/-- A rule broken: REASON and FBIT (R76). -/
abbrev Flaw := Nat × Nat

/-- The lower flaw: lowest REASON first, then lowest FBIT (R76). (DEDUCED, log 63) -/
def Flaw.least : List Flaw → Option Flaw
  | [] => none
  | f :: r => match Flaw.least r with
    | none => some f
    | some g => if f.1 < g.1 || (f.1 == g.1 && f.2 ≤ g.2) then some f else some g

def when' (c : Bool) (f : Flaw) : List Flaw := if c then [f] else []

/-- The lowest bit of the lowest nonzero subfield of an operand field at bit `base` (R65, R76). (DEDUCED, log 63) -/
def subfieldBit (base : Nat) (o : Operand) : Nat :=
  if o.mod != 0 then base else if o.bt then base + 2 else if o.idx != 0 then base + 3 else base + 11

/-- Class and index of an operand against the classes an entry lists (R20). -/
def classFlaws (nacc base : Nat) (cls : List Cls) (o : Operand) : List Flaw :=
  if cls.any (fun k => k.code == o.cls.toNat && k.legalIdx nacc o.idx.toNat) then
    when' (o.isImm32 && o.idx.extractLsb' 0 6 != 0) (5, base + 3)
  else if cls.any (fun k => k.code == o.cls.toNat) then [(3, base + 3)] else [(3, base + 11)]

/-- Whether a source accepts its modifier (R66): 11 never, 10 not on p or m, none on q, b, c or an immediate. -/
def modOk (m : Mods) (o : Operand) : Bool :=
  o.mod == 0 || (o.mod != 3 && (match m with
    | .none => false
    | .arith => o.cls == 0 || o.cls == 1 || o.cls == 3 || (o.cls == 2 && o.mod == 1)
    | .compl => o.cls == 2 && o.mod == 1))

/-- The flaws of one operand field. (DEDUCED, log 63) -/
def useFlaws (nacc base : Nat) (u : Use) (o : Operand) : List Flaw :=
  match u with
  | .unused => when' (!o.isZero) (5, subfieldBit base o)
  | .dst cls sat =>
    classFlaws nacc base cls o ++ when' o.bt (4, base + 2)
      ++ when' (!(o.mod == 0 || (o.mod == 1 && sat))) (4, base)
  | .src cls mods => classFlaws nacc base cls o ++ when' (!modOk mods o) (4, base)

/-- The lowest bits of the source fields that select IMM32, ascending (R68). -/
def imm32Users (s : OpSpec) (w : Fields) : List Nat :=
  let one (u : Use) (base : Nat) (o : Operand) : List Nat :=
    match u with
    | .src cls _ => if o.isImm32 && cls.contains .i then [base] else []
    | _ => []
  one s.a 36 w.a ++ one s.b 50 w.b ++ one s.c 64 w.c

/-- The flaws of bits [127:96] (R63, R68, R107). A field selects IMM32 under the full entry too, where a word leaves it unused (R121): there is then no
mask. (DEDUCED, log 63) -/
def immFlaws (nacc : Nat) (s full : OpSpec) (w : Fields) : List Flaw :=
  let users := imm32Users s w
  let none' := (imm32Users full w).isEmpty
  let high := w.imm.extractLsb' 14 18 != 0
  let second := match users with
    | _ :: b :: _ => [(7, b + 3)]
    | _ => []
  match s.e with
  | .reg cls =>
    useFlaws nacc 96 (.src cls .none) w.e ++ when' high (5, 110)
      ++ when' w.e.isImm32 (7, 99)
      ++ (match users with
          | b :: _ => [(7, b + 3)]
          | [] => [])
  | .mask =>
    if none' then
      when' high (5, 110) ++
        (if w.e.isZero then []
         else classFlaws nacc 96 [.m] w.e ++ when' (!(w.e.mod == 0 || w.e.mod == 1)) (4, 96))
    else second
  | .noMask =>
    if users.isEmpty then (if w.e.isZero then when' high (5, 110) else [(3, subfieldBit 96 w.e)]) else second
  | .none => if users.isEmpty then when' (w.imm != 0) (5, 96) else second

/-- SPC, NT and CH (R62, R69, R127). -/
def spaceFlaws (s : OpSpec) (w : Fields) : List Flaw :=
  let glob := w.spc == 0 && (match s.fn with
    | .order .. => s.spcs != [0] || s.opc == 0x188
    | _ => s.opc == 0x1C5 || s.opc == 0x1C6)
  when' (!s.spcs.contains w.spc.toNat) (5, 78)
    ++ (if glob then when' (w.nt && w.ch == 1) (5, 81)
        else when' w.nt (5, 81) ++ when' (w.ch != 0) (5, 82))

/-- Whether FN fits the form (R72, R73, R136, R151, R156, R157, R201). -/
def fnOk (s : OpSpec) (w : Fields) : Bool :=
  let fn := w.fn.toNat
  let lo := fn % 8
  let isF := !isInt w.ty.toNat
  match s.fn with
  | .none => fn == 0
  | .rounding => fn < 5
  | .roundFloat => if isF && w.ty.toNat < 13 then fn < 5 else fn == 0
  | .conv top => fn / 16 ≤ top && fn % 16 < 5
  | .convDrain => (fn / 16 == 2 || fn / 16 == 8) && fn % 16 < 5
  | .cond => fn < 6 || (fn < 8 && isF)
  | .truth => true
  | .order acq rel zs =>
    fn < 32 && lo < 6 && (acq || !bit fn 3) && (rel || !bit fn 4)
      && (!zs || lo == 0 || bit fn 3 || bit fn 4)
  | .barrier => lo < 6 && fn < 8 && (if w.spc == 2 then 2 ≤ lo else 3 ≤ lo)
  | .mark => fn < 16 && lo != 0
  | .pushMark => fn < 8
  | .level => 1 ≤ fn && fn ≤ 4

/-- The immediate of a class-7 operand as a 64-bit value (R68). -/
def immOf (w : Fields) (o : Operand) : Word :=
  if o.idx.getLsbD 7 then (if o.idx.getLsbD 6 then w.imm.zeroExtend 64 else w.imm.signExtend 64)
  else (o.idx.extractLsb' 0 7).signExtend 64

/-- A field that must be an immediate in a range (signed reading); otherwise REASON 3. -/
def immRange (w : Fields) (base : Nat) (o : Operand) (lo hi : Int) : List Flaw :=
  if o.cls == 7 then when' (!(decide (lo ≤ (immOf w o).toInt) && decide ((immOf w o).toInt ≤ hi))) (3, base + 3)
  else [(3, base + 11)]

/-- The elements a vector register has at a TY code, and its source form for VCVT (R106, R118). -/
def nElems (ty : Nat) : Nat := if ty = 14 then 256 else 2048 / tyBits ty

/-- The register ids that SRD and SWR know, and those that SWR may write (R34). -/
def specialIds : List Nat :=
  [0x000, 0x001, 0x002, 0x003, 0x004, 0x005, 0x006, 0x007, 0x008, 0x009, 0x010, 0x011, 0x020, 0x021, 0x022, 0x023,
   0x030, 0x031, 0x032, 0x040]
def privIds : List Nat := [0x008, 0x009]

/-- The narrowings of single entries (R88, R90, R91, R107, R118, R121, R138, R187, R192, R202, R204, R211, R217). (DEDUCED, log 63) -/
def entryFlaws (i : Instr) (w : Fields) : List Flaw :=
  let scalar (o : Operand) : Bool := o.cls == 0 || o.cls == 6 || o.cls == 7
  match i with
  | .brf _ => when' (decide ((immOf w w.a).toInt < 1)) (8, 0)
  | .skipt _ => immRange w 36 w.a 1 63
  | .peek _ => immRange w 36 w.a 1 2
  | .vcvt _ =>
    let ns := nElems (w.fn.toNat / 16)
    let nd := nElems w.ty.toNat
    (if ns = 0 || nd = 0 then [] else immRange w 50 w.b 0 (max ns nd / min ns nd - 1 : Nat))
      ++ when' (w.fn.toNat / 16 == 14 && scalar w.a) (3, 47)
  | .vzip _ => immRange w 64 w.c 0 1
  | .vunzip _ => immRange w 64 w.c 0 1
  | .bpush _ => immRange w 50 w.b 0 63
  | .bpop _ => immRange w 50 w.b 0 63
  | .mldb _ => when' w.a.bt (4, 38)
  | .mma _ => when' w.a.bt (4, 38)
  | .mdrn _ =>
    if w.d.cls == 1 then immRange w 64 w.c 0 (tyBits w.ty.toNat / 8 - 1 : Nat)
    else if w.d.cls == 4 then immRange w 64 w.c 0 7
    else immRange w 64 w.c 0 0
  | .rlpush _ =>
    if w.b.cls == 1 then when' (w.c.cls != 1) (3, 75)
    else when' (w.c.cls == 1) (3, 75) ++ when' ((imm32Users
      { opc := 0, tys := [], a := .src [.i] .none, c := .src [.i] .none } w).isEmpty && !w.e.isZero) (3, subfieldBit 96 w.e)
  | .rlsend _ => immRange w 64 w.c 1 7
  | .rlread _ => immRange w 64 w.c 0 1
  | .cstat _ => immRange w 50 w.b 0 7
  | .srd _ => when' (w.a.cls == 7 && !(specialIds.contains (immOf w w.a).toNat)) (3, 39)
  | .swr _ => when' (w.a.cls == 7 && !(privIds.contains (immOf w w.a).toNat)) (3, 39)
  | .rtt _ => when' (!(w.a.cls == 7 && (immOf w w.a).toNat < 2)) (1, 0)
  | .crc32c _ => immRange w 64 w.c 1 (if w.b.cls == 1 then 256 else 8)
  | _ => []

/-- The entry of a word as its own fields narrow it: B of VBCAST is unused when A is a scalar (R63, R121). -/
def wordSpec (i : Instr) (w : Fields) : Option OpSpec :=
  match i, opSpec i with
  | .vbcast _, some s => some (if w.a.cls == 0 || w.a.cls == 6 || w.a.cls == 7 then { s with b := .unused } else s)
  | _, e => e

/-- Every rule of R76 that a word breaks, its branch rules apart (those need the block table, R86). `nacc` is the
context's accumulator count (R16). Nothing is asked of ILL: it traps by itself, whatever its other fields (R64, R74). -/
def wordFlaws (nacc : Nat) (i : Instr) (w : Fields) : List Flaw :=
  match i, wordSpec i w with
  | .ill _, _ => []
  | _, none => []
  | i, some s =>
    when' (!s.tys.contains w.ty.toNat) (2, 10)
      ++ useFlaws nacc 22 s.d w.d ++ useFlaws nacc 36 s.a w.a ++ useFlaws nacc 50 s.b w.b ++ useFlaws nacc 64 s.c w.c
      ++ immFlaws nacc s ((opSpec i).getD s) w ++ spaceFlaws s w ++ when' (!fnOk s w) (6, 88) ++ entryFlaws i w

/-- The flaw that %finfo reports, if any (R76). -/
def wordFlaw (nacc : Nat) (i : Instr) : Option Flaw :=
  match fieldsOf i with
  | none => none
  | some w => Flaw.least (wordFlaws nacc i w)

end Sys2Proof.Machine
end

