-- ==== Sys2Proof/WellFormed.lean ====
section
/-!
DEFINITION. Which instructions are well formed: an action word that breaks no rule of R76 for a context with all eight
accumulators; a command whose opcode byte is its own; every logit word; an event that names parts the package has (R2).
-/

namespace Sys2Proof

open Sys2Proof.Machine

/-- A context the package has (R2, R13). -/
def CtxId.ok (x : CtxId) : Bool := x.die < 4 && x.cell < 144 && x.ctx < 4

/-- An action word keeps every rule of R76. -/
def wordOk (i : Instr) : Bool := (wordFlaw 8 i).isNone

/-- The opcode byte of a command. -/
def cmdOk (opc : Nat) (m : Msg) : Bool := (m.extractLsb' 0 8).toNat == opc

/-- A die and a physical cell the package has. -/
def cellOk (die cell : Nat) : Bool := die < 4 && cell < 144

/-- Well-formedness, by kind of row. -/
def Instr.wellFormed (i : Instr) : Bool :=
  match i with
  | .ecopy m => cmdOk 0x01 m
  | .estride m => cmdOk 0x02 m
  | .eragged m => cmdOk 0x03 m
  | .egather m => cmdOk 0x04 m
  | .escatter m => cmdOk 0x05 m
  | .efill m => cmdOk 0x06 m
  | .ereduce m => cmdOk 0x07 m
  | .ejoin m => cmdOk 0x08 m
  | .esignal m => cmdOk 0x09 m
  | .everify m => cmdOk 0x0A m
  | .sseq m => cmdOk 0x20 m
  | .sbatch m => cmdOk 0x21 m
  | .slaunch m => cmdOk 0x30 m
  | .sgraph m => cmdOk 0x31 m
  | .sopen m => cmdOk 0x32 m
  | .scancel m => cmdOk 0x33 m
  | .nput m => cmdOk 0x40 m
  | .nget m => cmdOk 0x41 m
  | .npost m => cmdOk 0x42 m
  | .ncoll m => cmdOk 0x43 m
  | .mretire m => cmdOk 0x60 m
  | .mdie m => cmdOk 0x61 m
  | .mrecal m => cmdOk 0x62 m
  | .mfw m => cmdOk 0x63 m
  | .mattest m => cmdOk 0x64 m
  | .mrecord m => cmdOk 0x65 m
  | .beginLoad die cell => cellOk die cell
  | .sealLoad die cell _ => cellOk die cell
  | .clearLoad die cell => cellOk die cell
  | .arbiterGrant die cell => cellOk die cell
  | .forcedGrant die cell => cellOk die cell
  | .arbiterWeightRefresh die cell => cellOk die cell
  | .yieldExpiry x => x.ok
  | .terminalShift x => x.ok
  | .nonterminalLookup x => x.ok
  | .actionStep x => x.ok
  | .endStep x => x.ok
  | .roundClose x => x.ok
  | .recovery x => x.ok
  | .roundCommit x => x.ok
  | .unitDone x => x.ok
  | .unitStop x => x.ok
  | .messageDeparture die cell _ => cellOk die cell
  | .beatDeparture x _ => x.ok
  | .loadDataArrival x _ _ => x.ok
  | .atomicOldValueReturn x _ => x.ok
  | .waitwSatisfied x _ => x.ok
  | .cstatFill x _ => x.ok
  | .lookaheadFill x _ => x.ok
  | .faultResolution die _ => die < 4
  | .tlbinvAcknowledge x => x.ok
  | .mmaRowFire die cell => cellOk die cell
  | .mldbFill die cell => cellOk die cell
  | .mswapEffect die cell => cellOk die cell
  | .closingUnitOperation die cell => cellOk die cell
  | .batchStart die => die < 4
  | .samplerEofDiscard x _ => x.ok
  | .lap1 die => die < 4
  | .lap2 die => die < 4
  | .batchCompletion die => die < 4
  | .graphAdmission die _ => die < 4
  | .dispatch die _ => die < 4
  | .poolGrant die => die < 4
  | .entryAgeing die _ => die < 4
  | .poolFault die => die < 4
  | .preemptFreeze die => die < 4
  | .contextStop x => x.ok
  | .hostMsgWrite win _ _ => win < 4096
  | .windowHandover win => win < 4096
  | .ctlWrite win _ => win < 4096
  | .coreRestart die _ _ => die < 4
  | _ => wordOk i

end Sys2Proof
end

