-- ==== Sys2Proof/Decode.lean ====
section
/-!
DEFINITION. From bits to instructions and back. `decodeWord` reads a 128-bit word (R62 to R77), `decodeLogit` a 32-bit logit
word (R289), `decodeCommand` a 64-byte command (R168, R282, R309, R371, R382). Each is total and refuses by name.
`encode` is written from the same tables of the manual.
-/

namespace Sys2Proof

open Sys2Proof.Machine

/-- Why a decoder refuses: a word with REASON and FBIT of R76, a logit word that R290 rejects, a command byte that no
receiver knows, or a length that no encoding has. -/
inductive Bad where
  | ill (reason fbit : Nat)
  | logit
  | command
  | length
  deriving DecidableEq, Repr

/-- The constructor of an opcode (R74). -/
def ofOpcode (opc : Nat) (w : Fields) : Option Instr :=
  match opc with
  | 0x000 => some (.ill w)
  | 0x001 => some (.nop w)
  | 0x002 => some (.enda w)
  | 0x003 => some (.brf w)
  | 0x004 => some (.skipt w)
  | 0x005 => some (.peek w)
  | 0x006 => some (.pushn w)
  | 0x007 => some (.commit w)
  | 0x008 => some (.abort w)
  | 0x009 => some (.tsset w)
  | 0x00A => some (.handoff w)
  | 0x00B => some (.trap w)
  | 0x00C => some (.yield w)
  | 0x040 => some (.add w)
  | 0x041 => some (.sub w)
  | 0x042 => some (.mul w)
  | 0x043 => some (.mulh w)
  | 0x044 => some (.div w)
  | 0x045 => some (.rem w)
  | 0x046 => some (.madd w)
  | 0x047 => some (.and w)
  | 0x048 => some (.or w)
  | 0x049 => some (.xor w)
  | 0x04A => some (.andn w)
  | 0x04B => some (.shl w)
  | 0x04C => some (.shr w)
  | 0x04D => some (.sar w)
  | 0x04E => some (.rotr w)
  | 0x04F => some (.min w)
  | 0x050 => some (.max w)
  | 0x051 => some (.clz w)
  | 0x052 => some (.popc w)
  | 0x053 => some (.bfx w)
  | 0x054 => some (.bfi w)
  | 0x055 => some (.mov w)
  | 0x056 => some (.sel w)
  | 0x057 => some (.cmp w)
  | 0x080 => some (.fadd w)
  | 0x081 => some (.fsub w)
  | 0x082 => some (.fmul w)
  | 0x083 => some (.ffma w)
  | 0x084 => some (.fmin w)
  | 0x085 => some (.fmax w)
  | 0x086 => some (.fdiv w)
  | 0x087 => some (.fsqrt w)
  | 0x088 => some (.fcmp w)
  | 0x089 => some (.fcvt w)
  | 0x08A => some (.plog w)
  | 0x0C0 => some (.vadd w)
  | 0x0C1 => some (.vsub w)
  | 0x0C2 => some (.vmul w)
  | 0x0C3 => some (.vmulh w)
  | 0x0C4 => some (.vmadd w)
  | 0x0C5 => some (.vadds w)
  | 0x0C6 => some (.vsubs w)
  | 0x0C7 => some (.vand w)
  | 0x0C8 => some (.vor w)
  | 0x0C9 => some (.vxor w)
  | 0x0CA => some (.vshl w)
  | 0x0CB => some (.vshr w)
  | 0x0CC => some (.vsar w)
  | 0x0CD => some (.vmin w)
  | 0x0CE => some (.vmax w)
  | 0x0CF => some (.vabs w)
  | 0x0D0 => some (.vcmp w)
  | 0x0D1 => some (.vsel w)
  | 0x0D2 => some (.vdot w)
  | 0x0D3 => some (.vclz w)
  | 0x0D4 => some (.vpopc w)
  | 0x100 => some (.vfadd w)
  | 0x101 => some (.vfsub w)
  | 0x102 => some (.vfmul w)
  | 0x103 => some (.vffma w)
  | 0x104 => some (.vfmin w)
  | 0x105 => some (.vfmax w)
  | 0x106 => some (.vfcmp w)
  | 0x107 => some (.vfexp2 w)
  | 0x108 => some (.vflog2 w)
  | 0x109 => some (.vfrcp w)
  | 0x10A => some (.vfrsq w)
  | 0x10B => some (.vfsig w)
  | 0x10C => some (.vcvt w)
  | 0x10D => some (.vqk4 w)
  | 0x140 => some (.vbcast w)
  | 0x141 => some (.vins w)
  | 0x142 => some (.vext w)
  | 0x143 => some (.vperm w)
  | 0x144 => some (.vslide w)
  | 0x145 => some (.vzip w)
  | 0x146 => some (.vunzip w)
  | 0x147 => some (.vcompr w)
  | 0x148 => some (.vexpnd w)
  | 0x149 => some (.vrsum w)
  | 0x14A => some (.vrmax w)
  | 0x14B => some (.vrmin w)
  | 0x14C => some (.vscan w)
  | 0x14D => some (.viota w)
  | 0x14E => some (.mlog w)
  | 0x14F => some (.mcnt w)
  | 0x150 => some (.mfirst w)
  | 0x180 => some (.ld w)
  | 0x181 => some (.st w)
  | 0x182 => some (.vld w)
  | 0x183 => some (.vst w)
  | 0x184 => some (.vlds w)
  | 0x185 => some (.vsts w)
  | 0x186 => some (.vgath w)
  | 0x187 => some (.vscat w)
  | 0x188 => some (.pref w)
  | 0x1C0 => some (.binit w)
  | 0x1C1 => some (.bpush w)
  | 0x1C2 => some (.bpop w)
  | 0x1C3 => some (.bht w)
  | 0x1C4 => some (.bret w)
  | 0x1C5 => some (.cflush w)
  | 0x1C6 => some (.cinv w)
  | 0x200 => some (.aadd w)
  | 0x201 => some (.amin w)
  | 0x202 => some (.amax w)
  | 0x203 => some (.aand w)
  | 0x204 => some (.aor w)
  | 0x205 => some (.axor w)
  | 0x206 => some (.axchg w)
  | 0x207 => some (.acas w)
  | 0x208 => some (.afadd w)
  | 0x209 => some (.ainc w)
  | 0x240 => some (.fence w)
  | 0x241 => some (.waitw w)
  | 0x242 => some (.barinit w)
  | 0x243 => some (.bararr w)
  | 0x244 => some (.bartx w)
  | 0x245 => some (.barwait w)
  | 0x280 => some (.qbind w)
  | 0x281 => some (.qpush w)
  | 0x282 => some (.qmark w)
  | 0x283 => some (.qstat w)
  | 0x284 => some (.qfilt w)
  | 0x285 => some (.qclose w)
  | 0x286 => some (.send w)
  | 0x287 => some (.sendi w)
  | 0x2C0 => some (.mldb w)
  | 0x2C1 => some (.mswap w)
  | 0x2C2 => some (.mma w)
  | 0x2C3 => some (.msca w)
  | 0x2C4 => some (.mzero w)
  | 0x2C5 => some (.mdrn w)
  | 0x2C6 => some (.mstat w)
  | 0x300 => some (.rldecl w)
  | 0x301 => some (.rlpush w)
  | 0x302 => some (.rlmerge w)
  | 0x303 => some (.rlsend w)
  | 0x304 => some (.rlread w)
  | 0x305 => some (.rlth w)
  | 0x306 => some (.rlclr w)
  | 0x307 => some (.rnorm w)
  | 0x308 => some (.rscan w)
  | 0x340 => some (.launch w)
  | 0x341 => some (.cancel w)
  | 0x342 => some (.cstat w)
  | 0x380 => some (.srd w)
  | 0x381 => some (.swr w)
  | 0x382 => some (.rtt w)
  | 0x383 => some (.tlbinv w)
  | 0x384 => some (.cfgwr w)
  | 0x385 => some (.cfgrd w)
  | 0x386 => some (.crc32c w)
  | 0x387 => some (.sm3c w)
  | 0x388 => some (.halt w)
  | _ => none

/-- An operand field read from bit `lo` of a word (R65). -/
def readOperand (w : BitVec 128) (lo : Nat) : Operand :=
  { cls := w.extractLsb' (lo + 11) 3, idx := w.extractLsb' (lo + 3) 8, bt := w.getLsbD (lo + 2), mod := w.extractLsb' lo 2 }

/-- A guard field read from bit `lo` (R62). -/
def readGuard (w : BitVec 128) (lo : Nat) : Guard := { neg := w.getLsbD (lo + 3), pred := w.extractLsb' lo 3 }

/-- The fields of a word (R62). -/
def readFields (w : BitVec 128) : Fields :=
  { ty := w.extractLsb' 10 4, g1 := readGuard w 14, g2 := readGuard w 18,
    d := readOperand w 22, a := readOperand w 36, b := readOperand w 50, c := readOperand w 64,
    spc := w.extractLsb' 78 3, nt := w.getLsbD 81, ch := w.extractLsb' 82 2, y := w.getLsbD 84, grp := w.getLsbD 85,
    fn := w.extractLsb' 88 8, imm := w.extractLsb' 96 32 }

/-- Decodes a word for a context with `nacc` accumulators: the instruction, or REASON and FBIT (R76, R77 step 2). -/
def decodeWord (nacc : Nat) (w : BitVec 128) : Except Bad Instr :=
  match ofOpcode (w.extractLsb' 0 10).toNat (readFields w) with
  | none => .error (.ill 1 0)
  | some (.ill f) => if w.extractLsb' 86 2 = 0 then .ok (.ill f) else .error (.ill 1 0)
  | some i =>
    let res : List Flaw := if w.extractLsb' 86 2 = 0 then [] else [(5, 86)]
    match Flaw.least (wordFlaws nacc i (readFields w) ++ res) with
    | none => .ok i
    | some f => .error (.ill f.1 f.2)

/-- The bits of an operand field. -/
def Operand.bits (o : Operand) : BitVec 14 := o.cls ++ o.idx ++ BitVec.ofBool o.bt ++ o.mod

/-- The bits of a guard field. -/
def Guard.bits (g : Guard) : BitVec 4 := BitVec.ofBool g.neg ++ g.pred

/-- The 128 bits of a word (R62). -/
def wordBits (opc : BitVec 10) (w : Fields) : BitVec 128 :=
  w.imm ++ w.fn ++ (0#2) ++ BitVec.ofBool w.grp ++ BitVec.ofBool w.y ++ w.ch ++ BitVec.ofBool w.nt ++ w.spc
    ++ Operand.bits w.c ++ Operand.bits w.b ++ Operand.bits w.a ++ Operand.bits w.d
    ++ Guard.bits w.g2 ++ Guard.bits w.g1 ++ w.ty ++ opc

/-- The bits of a logit word (R289): OP, PA, PB, MODE. -/
def logitBits (op : BitVec 8) (pa pb : BitVec 3) (mode : BitVec 2) : BitVec 32 := (0#16) ++ mode ++ pb ++ pa ++ op

/-- Decodes a logit word (R289, R290). The fields that a word does not use are checked before LEND only. (DEDUCED, log 34) -/
def decodeLogit (w : BitVec 32) : Except Bad Instr :=
  let a := w.extractLsb' 8 3
  let b := w.extractLsb' 11 3
  let pick (p : Option Instr) : Except Bad Instr :=
    match p with
    | some i => .ok i
    | none => .error .logit
  if w.extractLsb' 16 16 ≠ 0 then .error .logit
  else
    let mode := (w.extractLsb' 14 2).toNat
    let onlyA := b = 0
    let none' := a = 0 ∧ b = 0
    match (w.extractLsb' 0 8).toNat with
    | 0x01 => pick (if none' ∧ mode = 0 then some .lbias else none)
    | 0x02 => pick (if onlyA then
        (if mode = 0 then some (.lpenRep a) else if mode = 1 then some (.lpenFreq a)
         else if mode = 2 then some (.lpenPres a) else none) else none)
    | 0x03 => pick (if none' ∧ mode = 0 then some .ltemp else none)
    | 0x04 => pick (if mode = 0 then some (.lclamp a b) else none)
    | 0x05 => pick (if none' then (if mode = 0 then some .lvmaskAllow else if mode = 1 then some .lvmaskBan else none) else none)
    | 0x06 => pick (if onlyA ∧ mode = 0 then some (.lscale a) else none)
    | 0x07 => pick (if onlyA ∧ mode = 0 then some (.laddc a) else none)
    | 0x08 => pick (if none' ∧ mode = 0 then some .ltopk else none)
    | 0x09 => pick (if none' ∧ mode = 0 then some .ltopp else none)
    | 0x0A => pick (if onlyA ∧ mode = 0 then some (.lminp a) else none)
    | 0x0B => pick (if none' then (if mode = 0 then some .ldraw else if mode = 1 then some .ldrawGreedy else none) else none)
    | 0x0C => pick (if none' ∧ mode = 0 then some .lcount else none)
    | 0x0D => .ok .lend
    | _ => .error .logit


/-- The constructor of a command byte. -/
def ofCommand (opc : Nat) (m : Msg) : Option Instr :=
  match opc with
  | 0x01 => some (.ecopy m)
  | 0x02 => some (.estride m)
  | 0x03 => some (.eragged m)
  | 0x04 => some (.egather m)
  | 0x05 => some (.escatter m)
  | 0x06 => some (.efill m)
  | 0x07 => some (.ereduce m)
  | 0x08 => some (.ejoin m)
  | 0x09 => some (.esignal m)
  | 0x0A => some (.everify m)
  | 0x20 => some (.sseq m)
  | 0x21 => some (.sbatch m)
  | 0x30 => some (.slaunch m)
  | 0x31 => some (.sgraph m)
  | 0x32 => some (.sopen m)
  | 0x33 => some (.scancel m)
  | 0x40 => some (.nput m)
  | 0x41 => some (.nget m)
  | 0x42 => some (.npost m)
  | 0x43 => some (.ncoll m)
  | 0x60 => some (.mretire m)
  | 0x61 => some (.mdie m)
  | 0x62 => some (.mrecal m)
  | 0x63 => some (.mfw m)
  | 0x64 => some (.mattest m)
  | 0x65 => some (.mrecord m)
  | _ => none

/-- The message of a command. -/
def commandOf : Instr → Option Msg
  | .ecopy m => some m
  | .estride m => some m
  | .eragged m => some m
  | .egather m => some m
  | .escatter m => some m
  | .efill m => some m
  | .ereduce m => some m
  | .ejoin m => some m
  | .esignal m => some m
  | .everify m => some m
  | .sseq m => some m
  | .sbatch m => some m
  | .slaunch m => some m
  | .sgraph m => some m
  | .sopen m => some m
  | .scancel m => some m
  | .nput m => some m
  | .nget m => some m
  | .npost m => some m
  | .ncoll m => some m
  | .mretire m => some m
  | .mdie m => some m
  | .mrecal m => some m
  | .mfw m => some m
  | .mattest m => some m
  | .mrecord m => some m
  | .ill _ => none
  | .nop _ => none
  | .enda _ => none
  | .brf _ => none
  | .skipt _ => none
  | .peek _ => none
  | .pushn _ => none
  | .commit _ => none
  | .abort _ => none
  | .tsset _ => none
  | .handoff _ => none
  | .trap _ => none
  | .yield _ => none
  | .add _ => none
  | .sub _ => none
  | .mul _ => none
  | .mulh _ => none
  | .div _ => none
  | .rem _ => none
  | .madd _ => none
  | .and _ => none
  | .or _ => none
  | .xor _ => none
  | .andn _ => none
  | .shl _ => none
  | .shr _ => none
  | .sar _ => none
  | .rotr _ => none
  | .min _ => none
  | .max _ => none
  | .clz _ => none
  | .popc _ => none
  | .bfx _ => none
  | .bfi _ => none
  | .mov _ => none
  | .sel _ => none
  | .cmp _ => none
  | .fadd _ => none
  | .fsub _ => none
  | .fmul _ => none
  | .ffma _ => none
  | .fmin _ => none
  | .fmax _ => none
  | .fdiv _ => none
  | .fsqrt _ => none
  | .fcmp _ => none
  | .fcvt _ => none
  | .plog _ => none
  | .vadd _ => none
  | .vsub _ => none
  | .vmul _ => none
  | .vmulh _ => none
  | .vmadd _ => none
  | .vadds _ => none
  | .vsubs _ => none
  | .vand _ => none
  | .vor _ => none
  | .vxor _ => none
  | .vshl _ => none
  | .vshr _ => none
  | .vsar _ => none
  | .vmin _ => none
  | .vmax _ => none
  | .vabs _ => none
  | .vcmp _ => none
  | .vsel _ => none
  | .vdot _ => none
  | .vclz _ => none
  | .vpopc _ => none
  | .vfadd _ => none
  | .vfsub _ => none
  | .vfmul _ => none
  | .vffma _ => none
  | .vfmin _ => none
  | .vfmax _ => none
  | .vfcmp _ => none
  | .vfexp2 _ => none
  | .vflog2 _ => none
  | .vfrcp _ => none
  | .vfrsq _ => none
  | .vfsig _ => none
  | .vcvt _ => none
  | .vqk4 _ => none
  | .vbcast _ => none
  | .vins _ => none
  | .vext _ => none
  | .vperm _ => none
  | .vslide _ => none
  | .vzip _ => none
  | .vunzip _ => none
  | .vcompr _ => none
  | .vexpnd _ => none
  | .vrsum _ => none
  | .vrmax _ => none
  | .vrmin _ => none
  | .vscan _ => none
  | .viota _ => none
  | .mlog _ => none
  | .mcnt _ => none
  | .mfirst _ => none
  | .ld _ => none
  | .st _ => none
  | .vld _ => none
  | .vst _ => none
  | .vlds _ => none
  | .vsts _ => none
  | .vgath _ => none
  | .vscat _ => none
  | .pref _ => none
  | .binit _ => none
  | .bpush _ => none
  | .bpop _ => none
  | .bht _ => none
  | .bret _ => none
  | .cflush _ => none
  | .cinv _ => none
  | .aadd _ => none
  | .amin _ => none
  | .amax _ => none
  | .aand _ => none
  | .aor _ => none
  | .axor _ => none
  | .axchg _ => none
  | .acas _ => none
  | .afadd _ => none
  | .ainc _ => none
  | .fence _ => none
  | .waitw _ => none
  | .barinit _ => none
  | .bararr _ => none
  | .bartx _ => none
  | .barwait _ => none
  | .qbind _ => none
  | .qpush _ => none
  | .qmark _ => none
  | .qstat _ => none
  | .qfilt _ => none
  | .qclose _ => none
  | .send _ => none
  | .sendi _ => none
  | .mldb _ => none
  | .mswap _ => none
  | .mma _ => none
  | .msca _ => none
  | .mzero _ => none
  | .mdrn _ => none
  | .mstat _ => none
  | .rldecl _ => none
  | .rlpush _ => none
  | .rlmerge _ => none
  | .rlsend _ => none
  | .rlread _ => none
  | .rlth _ => none
  | .rlclr _ => none
  | .rnorm _ => none
  | .rscan _ => none
  | .launch _ => none
  | .cancel _ => none
  | .cstat _ => none
  | .srd _ => none
  | .swr _ => none
  | .rtt _ => none
  | .tlbinv _ => none
  | .cfgwr _ => none
  | .cfgrd _ => none
  | .crc32c _ => none
  | .sm3c _ => none
  | .halt _ => none
  | .lbias => none
  | .lpenRep _ => none
  | .lpenFreq _ => none
  | .lpenPres _ => none
  | .ltemp => none
  | .lclamp _ _ => none
  | .lvmaskAllow => none
  | .lvmaskBan => none
  | .lscale _ => none
  | .laddc _ => none
  | .ltopk => none
  | .ltopp => none
  | .lminp _ => none
  | .ldraw => none
  | .ldrawGreedy => none
  | .lcount => none
  | .lend => none
  | .beginLoad _ _ => none
  | .sealLoad _ _ _ => none
  | .clearLoad _ _ => none
  | .moduleReset _ _ => none
  | .thermalTrip => none
  | .arbiterGrant _ _ => none
  | .forcedGrant _ _ => none
  | .arbiterWeightRefresh _ _ => none
  | .yieldExpiry _ => none
  | .terminalShift _ => none
  | .nonterminalLookup _ => none
  | .actionStep _ => none
  | .endStep _ => none
  | .roundClose _ => none
  | .recovery _ => none
  | .roundCommit _ => none
  | .unitDone _ => none
  | .unitStop _ => none
  | .messageDeparture _ _ _ => none
  | .beatDeparture _ _ => none
  | .beatArrival _ => none
  | .inboxMessageDelivery _ => none
  | .loadDataArrival _ _ _ => none
  | .atomicOldValueReturn _ _ => none
  | .waitwSatisfied _ _ => none
  | .cstatFill _ _ => none
  | .lookaheadFill _ _ => none
  | .translationWalk _ => none
  | .walkResult _ => none
  | .faultResolution _ _ => none
  | .tlbinvAcknowledge _ => none
  | .mmaRowFire _ _ => none
  | .mldbFill _ _ => none
  | .mswapEffect _ _ => none
  | .closingUnitOperation _ _ => none
  | .childArrival _ => none
  | .release _ => none
  | .engineCommandStart _ _ _ => none
  | .commandMigration _ _ _ _ => none
  | .engineCommandFinish _ _ _ => none
  | .messageRingRecord _ _ _ => none
  | .batchStart _ => none
  | .samplerEofDiscard _ _ => none
  | .lap1 _ => none
  | .lap2 _ => none
  | .batchCompletion _ => none
  | .graphAdmission _ _ => none
  | .dispatch _ _ => none
  | .nodeReply _ => none
  | .poolGrant _ => none
  | .entryAgeing _ _ => none
  | .poolFault _ => none
  | .pageLoad _ => none
  | .preemptFreeze _ => none
  | .freezeWave _ => none
  | .contextStop _ => none
  | .imageReadout _ => none
  | .restore _ => none
  | .budgetWindow _ => none
  | .governorUpdate _ _ => none
  | .hostMsgWrite _ _ _ => none
  | .windowHandover _ => none
  | .ctlWrite _ _ => none
  | .hostRingWrite _ => none
  | .hostHbmAccess _ _ _ => none
  | .hostRequestCompletion _ _ => none
  | .registerWrite _ _ => none
  | .inboundPacket _ => none
  | .transportAcknowledgement _ _ => none
  | .timeout _ => none
  | .congestionEntryWrite _ _ => none
  | .coreRestart _ _ _ => none
  | .recalibrationEnd _ _ => none

/-- Decodes a 64-byte command by its opcode byte (R164). What the receiver then says of its header is the receiver's. -/
def decodeCommand (m : Msg) : Except Bad Instr :=
  match ofCommand (m.extractLsb' 0 8).toNat m with
  | some i => .ok i
  | none => .error .command

/-- The bits of a logit instruction. -/
def encodeLogit : Instr → Option (BitVec 32)
  | .lbias => some (logitBits 1 0 0 0)
  | .lpenRep a => some (logitBits 2 a 0 0)
  | .lpenFreq a => some (logitBits 2 a 0 1)
  | .lpenPres a => some (logitBits 2 a 0 2)
  | .ltemp => some (logitBits 3 0 0 0)
  | .lclamp a b => some (logitBits 4 a b 0)
  | .lvmaskAllow => some (logitBits 5 0 0 0)
  | .lvmaskBan => some (logitBits 5 0 0 1)
  | .lscale a => some (logitBits 6 a 0 0)
  | .laddc a => some (logitBits 7 a 0 0)
  | .ltopk => some (logitBits 8 0 0 0)
  | .ltopp => some (logitBits 9 0 0 0)
  | .lminp a => some (logitBits 10 a 0 0)
  | .ldraw => some (logitBits 11 0 0 0)
  | .ldrawGreedy => some (logitBits 11 0 0 1)
  | .lcount => some (logitBits 12 0 0 0)
  | .lend => some (logitBits 13 0 0 0)
  | _ => none

/-- The 128 bits of an action word. -/
def encodeWord (i : Instr) : Option (BitVec 128) :=
  match opSpec i, fieldsOf i with
  | some s, some w => some (wordBits (BitVec.ofNat 10 s.opc) w)
  | _, _ => none

/-- The bytes of an instruction, first byte lowest (R5): 16 for an action word, 4 for a logit word, 64 for a command, none
for an event, which has no encoding. -/
def encode (i : Instr) : List Byte :=
  match encodeWord i with
  | some w => toBytes 16 w.toNat
  | none =>
    match encodeLogit i with
    | some w => toBytes 4 w.toNat
    | none =>
      match commandOf i with
      | some m => toBytes 64 m.toNat
      | none => []

/-- Decodes bytes by their number: a logit word, an action word (for a context with all 8 accumulators), a command. -/
def decodeBytes (bs : List Byte) : Except Bad Instr :=
  if bs.length = 4 then decodeLogit (BitVec.ofNat 32 (ofBytes bs))
  else if bs.length = 16 then decodeWord 8 (BitVec.ofNat 128 (ofBytes bs))
  else if bs.length = 64 then decodeCommand (BitVec.ofNat 512 (ofBytes bs))
  else .error .length

/-- The instruction whose bits are w, numbered as the opcode table numbers them: up to 32 bits are a logit word, up to 128
an action word, more a command. -/
def decodeTableWord (nbits w : Nat) : Option Instr :=
  let bs := if nbits ≤ 32 then toBytes 4 w else if nbits ≤ 128 then toBytes 16 w else toBytes 64 w
  match decodeBytes bs with
  | .ok i => some i
  | .error _ => none

end Sys2Proof
end

