-- ==== Sys2Proof/Config.lean ====
section
/-!
DEFINITION. What the manual leaves to an implementation or leaves open, as constants with no body: nothing can evaluate
them, so a claim about the machine holds whatever they are. The free values take a counter of the state (`State.fresh`,
`State.picks`) and so give a fresh value each time (assumption log 1 and 2).
-/

namespace Sys2Proof.Config

/-- Who moves next when the agenda is empty: every order that R393 leaves open is some value of this (log 1). (DESIGN CHOICE, log 1) -/
opaque nextMove : Nat → Move

/-- How many clocks pass before the next move (R3: timing is not modelled; log 1). (DESIGN CHOICE, log 1) -/
opaque tick : Nat → Nat

/-- A free choice: a cache keeps or drops a sector (R256), a walk evicts an entry (R348), and the like (log 2). (DESIGN CHOICE, log 2 and 12 and 31 and 83 and 86) -/
opaque freeBit : Nat → Bool

/-- A free number, for a choice among several (log 2). (DESIGN CHOICE, log 2) -/
opaque freeNat : Nat → Nat

/-- How many messages the inbox port of a control core holds beyond the first (R313; log 20). (DESIGN CHOICE, log 20) -/
opaque coreDepth : Nat → Nat

/-- The id that the scheduler of a die gives the n-th launch (R215: %launch is what the scheduler gives, no more is said; log 6). (DESIGN CHOICE, log 6) -/
opaque launchId : Nat → Nat → Nat

/-- The unit that performs the words of a class, where the manual names none: it names the vector unit alone (R71, R111; log 27). (DESIGN CHOICE, log 27) -/
opaque unitOf : Nat → Nat

/-- The die's physical entropy source: a fresh value for every SSEQ with HSEED = 0 (R285; log 2). (DESIGN CHOICE, log 2) -/
opaque entropy : Nat → Nat

/-- Which cells are fused off, by die and physical cell (R2, R209). (DEDUCED, log 81) -/
opaque fused : Nat → Nat → Bool

/-- Where in a die's freeze area in HBM the image of a page goes (R335: the area is set at start), by die and image. (DESIGN CHOICE, log 22) -/
opaque freezeArea : Nat → Nat → Nat

/-- A byte between two sections of a frozen image (R340). (DESIGN CHOICE, log 22) -/
opaque frozenGap : Nat → BitVec 8

/-- The HBM stack that holds a byte of HBM, by physical address (R144, R257: the interleaving is not given). (DESIGN CHOICE, log 23) -/
opaque homeStack : Nat → Nat

/-- The value of a transcendental function whose enclosure did not settle the rounding within the precisions tried:
R58 and R117 fix it, the model leaves it free there (log 8). (DESIGN CHOICE, log 8) -/
opaque hardCase : Nat → Nat

/-- The private half of the identity key pair, in fuses (R386). (DESIGN CHOICE, log 61) -/
opaque identitySecret : Nat

/-- The nonces that the security block draws for its signatures (R386). (DESIGN CHOICE, log 61) -/
opaque identityNonce : Nat → Nat

/-- The fused root key under which firmware is verified (R377, R385). (DESIGN CHOICE, log 61) -/
opaque rootKey : List Byte

/-- Firmware copy A (false) and copy B as delivered (R377, R386). (DESIGN CHOICE, log 61) -/
opaque firmwareImage : Bool → List Byte

/-- The form of a signed firmware image, which R385 does not give: its length, the bytes that are signed, the signature. (DESIGN CHOICE, log 61) -/
opaque firmwareSize : Nat
/-- (DESIGN CHOICE, log 61) -/
opaque firmwareBody : List Byte → List Byte
/-- (DESIGN CHOICE, log 61) -/
opaque firmwareSig : List Byte → List Byte

/-- The ASID under which the transport engine reads a peer or group table in memory of KIND 0, which R369 does not give. (DEDUCED, log 52) -/
opaque tableAsid : Nat

end Sys2Proof.Config
end

