-- ==== Sys2Proof/Machine/State.lean ====
section
/-!
DEFINITION. The whole state of the package as plain data: contexts, cells, memory, translation, barriers, engines, sampler,
schedulers, the pager, the host link, the transport engine and the start record; the two reason types; `State.reset`.
Fields named in the manual cite their rule; `agenda`, `picks`, `moved`, `fresh`, `cur`, `eng`, `ecc` and `die` are the model's own
(assumption log 1 and 2).
-/

namespace Sys2Proof.Machine

/-- Why the machine stops. -/
inductive Fault where
  /-- A junction reached 105 degrees: the module stopped and nothing further happens (R387). Raised by `step` once a thermal
  trip has been taken. Safe: it is the stop the manual gives. -/
  | thermalStop
  deriving DecidableEq, Repr

/-- Why the model has no next state. -/
inductive Refusal where
  /-- An instruction whose meaning is not written. Raised by `exec` alone. Safe. -/
  | notModelled (mnemonic : String)
  deriving DecidableEq, Repr

/-! ### Contexts -/

/-- The five address spaces (R30). -/
inductive Space where
  | g | s | n | d | l
  deriving DecidableEq, Repr, Inhabited

/-- A register with a full bit (R21). Long-latency producers fill s and v registers only. (DEDUCED, log 26) -/
inductive Reg where
  | s (i : Nat)
  | v (i : Nat)
  | m (i : Nat)
  deriving DecidableEq, Repr, Inhabited

/-- A beat: 256 payload bytes and a sideband (R26). -/
structure Beat where
  sb : BitVec 16 := 0
  data : Vec := 0
  deriving DecidableEq, Repr, Inhabited

/-- A pushdown frame: production, symbol offset, nonterminal (R83). -/
structure Frame where
  prod : Nat := 0
  off : Nat := 0
  nt : Nat := 0
  deriving DecidableEq, Repr, Inhabited

/-- A port q0, q2 to q15 (R153). `fifo` holds the beats from position `base`; `shead` is an inbound port's speculative head,
`ctail` an outbound port's committed tail, both as positions. `closed` is QCLOSE (R158), `shut` a closing that has
committed: later beats are discarded. `eof` says an EOF reached the head or left the port (R160). `gen` counts its QBINDs and QFILTs. `old` holds the
beats before `base` that rounds still uncommitted consumed ahead of a QBIND that changed the direction (R154, R246). -/
structure Port where
  bind : BitVec 24 := 0
  depth : Nat := 0
  fifo : List Beat := []
  base : Nat := 0
  shead : Nat := 0
  ctail : Nat := 0
  closed : Bool := false
  shut : Bool := false
  eof : Bool := false
  filt : Option (Nat × Nat) := none
  drop : BitVec 16 := 0
  gen : Nat := 0
  old : List Beat := []
  deriving DecidableEq, Repr, Inhabited

/-- An operand ring (R137). `gen` counts its BINITs. -/
structure Ring where
  declared : Bool := false
  fed : Bool := false
  sz : Nat := 0
  n : Nat := 0
  base : Nat := 0
  tail : BitVec 16 := 0
  shead : BitVec 16 := 0
  chead : BitVec 16 := 0
  gen : Nat := 0
  deriving DecidableEq, Repr, Inhabited

/-- A store-buffer entry: a 64-byte block of a space with byte enables (R134). -/
structure Entry where
  sp : Space := .g
  base : Nat := 0
  blk : Nat := 0
  data : BitVec 512 := 0
  en : BitVec 64 := 0
  deriving DecidableEq, Repr, Inhabited

/-- What a LAUNCH was granted at its issue (R215): the launch id, the entries from the reserve of the issuing unit's launch and from
the pool, and that launch (its die and key; key 0 for none). The message itself carries none of it. -/
structure LGrant where
  id : Nat := 0
  res : Nat := 0
  pool : Nat := 0
  ldie : Nat := 0
  lkey : Nat := 0
  deriving DecidableEq, Repr, Inhabited

/-- A read range of a round (R265). -/
structure Range where
  sp : Space := .g
  base : Nat := 0
  lo : Nat := 0
  hi : Nat := 0
  deriving DecidableEq, Repr, Inhabited

/-- A message buffered in a round (R134): SEND and SENDI, LAUNCH with its id and pool entries, CANCEL, HANDOFF. -/
inductive Buffered where
  | message (box : Nat) (m : Msg)
  | launch (g : LGrant) (box : Nat) (m : Msg)
  | cancel (box : Nat) (m : Msg)
  | handoff (cell ctx : Nat)
  deriving DecidableEq, Repr, Inhabited

/-- Where a context is: at a sequencer step, or at a word of an action block recorded from `first` to `last` (R86). -/
inductive Pos where
  | step
  | word (pc first last : Nat)
  deriving DecidableEq, Repr, Inhabited

/-- A recovery under way: the target nonterminal's level and action, and whether a beat has been discarded (R249). -/
structure Recov where
  level : Nat := 0
  act : Nat := 0
  deriving DecidableEq, Repr, Inhabited

/-- The state of a context that a void restores from the snapshot (R246): registers with their full bits, predicates,
stack, current symbol, token, close-pending flag, pending PUSHN, %asid, %prio and the place in the program. (DESIGN CHOICE, log 5) -/
structure Arch where
  s : Vector Word 64 := Vector.replicate 64 0
  sf : BitVec 64 := BitVec.allOnes 64
  v : Vector Vec 32 := Vector.replicate 32 0
  vf : BitVec 32 := BitVec.allOnes 32
  m : Vector Mask 16 := Vector.replicate 16 0
  mf : BitVec 16 := BitVec.allOnes 16
  p : BitVec 8 := 1
  stack : List Frame := []
  sym : Option Nat := none
  tok : Beat := {}
  closePend : Bool := false
  pushn : Option Nat := none
  recov : Option Recov := none
  asid : BitVec 16 := 0
  prio : BitVec 3 := 0
  pos : Pos := .step
  trapped : Option Pos := none
  deriving DecidableEq, Repr

/-- What a snapshot keeps of a port (R246); `drop` and `eof` follow the port until a QBIND or QFILT replaces its binding. -/
structure PortSnap where
  bind : BitVec 24 := 0
  filt : Option (Nat × Nat) := none
  drop : BitVec 16 := 0
  eof : Bool := false
  gen : Nat := 0
  closed : Bool := false
  shead : Nat := 0
  stail : Nat := 0
  deriving DecidableEq, Repr, Inhabited

/-- The tile map of the island (R181): which of four stores is active and which loads, and their types. -/
structure TileMap where
  act : Nat := 0
  load : Nat := 1
  aty : Nat := 15
  lty : Nat := 15
  deriving DecidableEq, Repr, Inhabited

/-- A round's snapshot (R243). -/
structure Snap where
  arch : Arch := {}
  ports : SMap PortSnap := []
  rings : SMap Ring := []
  tiles : TileMap := {}
  deriving DecidableEq, Repr

/-- A round (R134, R243, R265): the timestamp of the round before it, buffered entries and messages, read ranges, the snapshot at its opening, the journal of
accumulator rows and list declarations it changed (R189), and, once closed, how far it consumed and filled ports and
rings, and the clock in which its request to commit reached the arbiter of its domain with the context that made it, as an inbox id (R263). `void` marks a round voided while its page
was frozen (R336). -/
structure Round where
  serial : Nat := 0
  ts : BitVec 32 := 0
  prev : Option (BitVec 32) := none
  ents : List Entry := []
  msgs : List Buffered := []
  ranges : List Range := []
  readAll : Bool := false
  snap : Snap := {}
  journal : List (Nat × BitVec 8192) := []
  decls : List (Nat × Nat) := []
  endPorts : SMap Nat := []
  endRings : SMap (Nat × BitVec 16) := []
  final : Bool := false
  asked : Option (Nat × Nat) := none
  void : Bool := false
  deriving DecidableEq, Repr

/-- A part of a load still to be performed: its place, its length, where its bytes go in the destination, whether L1 may
answer it and under which hint (CH, plus 4 for NT: R69), the bytes forwarded from the context's own buffer (R129, R135), the size of the page it
was translated under, as a power of two (R356), and the bytes it had when its round committed, if it is still to be performed then (R269). -/
structure Piece where
  sp : Space := .g
  base : Nat := 0
  va : Nat := 0
  home : Nat := 0
  len : Nat := 0
  off : Nat := 0
  l1 : Bool := false
  hint : Nat := 0
  fwd : List (Option Byte) := []
  lg : Nat := 0
  early : Option (List Byte) := none
  deriving DecidableEq, Repr, Inhabited

/-- What a pending producer waits for (R21); `lanes` reads lane slices into bytes of its destination, `store` is a store to `.s` or `.l` with its
parts still to be performed, which has no destination (R32), `atomic` holds its operands until it is performed (R146). -/
inductive Await where
  | load (ty : Nat) (vec : Bool) (todo : List Piece) (got : List (Nat × Byte))
  | lanes (l : List (Nat × Nat))
  | store (todo : List (List (Nat × Byte)))
  | atomic (op ty home : Nat) (a b : Word) (asid va : Nat)
  | waitw (home asid va : Nat)
  | cstat (home sel : Nat) (wait : Bool)
  | look (n : Nat)
  | hostAtomic (home len asid va : Nat)
  | closing
  | settle
  deriving DecidableEq, Repr, Inhabited

/-- A pending producer: its number, the round it was issued in, its destination, the scope of its acquire, its wait, and the size of the page that
an atomic or a WAITW was translated under, as a power of two (R356).
`settle` is an interlocked result of the closing unit (R198): its register stays full and later words only wait. -/
structure Prod where
  id : Nat := 0
  serial : Nat := 0
  dst : Reg := .s 0
  acq : Option Nat := none
  kind : Await := .closing
  lg : Nat := 0
  deriving DecidableEq, Repr, Inhabited

/-- What a context waits for (R252). -/
inductive Wait where
  | none
  | regs (l : List Reg)
  | portIn (q n : Nat)
  | portOut (q n : Nat)
  | ringIn (b n : Nat)
  | ringOut (b : Nat)
  | head
  | buffer
  | pending (ids : List Nat)
  | walk
  | fault
  | island (progress : Nat)
  | tlbinv
  | barrier
  | pool (entries : Nat)
  | hand
  deriving DecidableEq, Repr, Inhabited

/-- Whether a context holds a unit, and how it ends (R205, R244, R322). -/
inductive Life where
  | empty
  | live
  | accepted
  | failed (cause : Nat) (finfo : BitVec 64)
  | cancelled
  deriving DecidableEq, Repr, Inhabited

/-- What the scheduler set when the unit started (R34, R241, R395): `sdie` and `lkey` name the launch's entry, `page` the
placed page. -/
structure UnitInfo where
  sdie : Nat := 0
  lkey : Nat := 0
  inst : Nat := 0
  page : Nat := 0
  launch : BitVec 32 := 0
  unit : BitVec 32 := 0
  nunit : BitVec 32 := 0
  pageOrd : BitVec 32 := 0
  domain : BitVec 16 := 0
  rlvl : Nat := 1
  sys : Bool := false
  seof : Bool := false
  ts0 : BitVec 32 := 0
  nacc : Nat := 0
  amap : List Nat := []
  island : Bool := false
  hrecv : Bool := false
  trapw : Option Nat := none
  gbase : Nat := 0
  bad : Bool := false
  deriving DecidableEq, Repr, Inhabited

/-- A context (R13). (DESIGN CHOICE, log 5) -/
structure Ctx where
  life : Life := .empty
  info : UnitInfo := {}
  arch : Arch := {}
  ports : SMap Port := []
  rings : SMap Ring := []
  c : SMap Word := []
  opn : Round := {}
  closed : Option Round := none
  rseq : BitVec 32 := 0
  cause : BitVec 8 := 0
  finfo : BitVec 64 := 0
  tepc : BitVec 16 := 0
  prods : List Prod := []
  wait : Wait := .none
  yieldTo : Nat := 0
  cancel : Bool := false
  frozen : Bool := false
  poolFault : Bool := false
  handed : Option (Nat × Nat) := none
  dirty : Option (Nat × Nat × Nat) := none
  deriving DecidableEq, Repr

/-! ### Cells -/

/-- An operation of the row queue (R178): an MMA row with its accumulator, row, type and ring; MLDB; MSWAP. -/
inductive RowOp where
  | row (acc row ty ring : Nat)
  | mldb (ring ty : Nat)
  | mswap
  deriving DecidableEq, Repr, Inhabited

/-- A row-queue entry: its context, its round and its number in program order. -/
structure RowEnt where
  ctx : Nat := 0
  serial : Nat := 0
  ord : Nat := 0
  op : RowOp := .mswap
  deriving DecidableEq, Repr, Inhabited

/-- A row of block partials: exact sums by block and column (R53), its accumulator, row and type, the round that made it,
and the round that consumed it. -/
structure Partial where
  serial : Nat := 0
  used : Option Nat := none
  acc : Nat := 0
  row : Nat := 0
  ty : Nat := 0
  sums : List FVal := []
  deriving DecidableEq, Repr

/-- An operation of the closing queue (R178, R198) with its operands as read at issue: MDRN into a register, a port (`drainQ`) or a ring
(`drainB`), RLSEND, RLMERGE of the token or from a port (`rlmergeQ`). `n` is how many beats it may append to its port. (DEDUCED, log 25) -/
inductive CloseOp where
  | msca (ty sa sb rows : Nat)
  | mzero
  | mdrn (src dst : Nat) (rnd : Nat) (sat : Bool) (row v part id : Nat)
  | drainQ (src dst : Nat) (rnd : Nat) (sat : Bool) (row q lvl n : Nat)
  | drainB (src dst : Nat) (rnd : Nat) (sat : Bool) (row ring : Nat)
  | rlsend (row q lvl n : Nat)
  | rldecl (k : Nat)
  | rlpushV (row : Nat) (vals idx : Vec) (act : Mask)
  | rlpushA (row src : Nat) (base : BitVec 32)
  | rlmerge (row : Nat) (beats : List Beat)
  | rlmergeQ (row q : Nat)
  | rlread (row part dst id : Nat)
  | rlth (row dst id : Nat)
  | rlclr (row : Option Nat)
  | rnorm (row : Nat) (st : Word) (dst id : Nat)
  | rscan (row : Nat)
  deriving DecidableEq, Repr, Inhabited

/-- A closing-queue entry: its context, round, number in program order, physical accumulator. -/
structure CloseEnt where
  ctx : Nat := 0
  serial : Nat := 0
  ord : Nat := 0
  acc : Nat := 0
  op : CloseOp := .mzero
  deriving DecidableEq, Repr, Inhabited

/-- The matrix island of a cell (R178): who holds it, its queues, its tile map and the four tile stores. `progress` counts what it
has performed, so that a word that waits for it is tried again only after a change. (DESIGN CHOICE, log 5) -/
structure Island where
  holder : Option Nat := none
  ord : Nat := 0
  progress : Nat := 0
  rq : List RowEnt := []
  pq : List Partial := []
  cq : List CloseEnt := []
  tiles : TileMap := {}
  filling : Option (Nat × Nat) := none
  stores : SMap (BitVec 139264) := []
  deriving DecidableEq, Repr

/-- A 128-byte L1 sector of a cell: its physical address, its bytes as filled with the cell's own commits applied, and the
contexts that wrote it since the fill (R136, R256). `hint` is what R69 marks it with: CH, plus 4 for NT, plus 8 once a sector filled under CH = 3 has been read. (DESIGN CHOICE, log 86) -/
structure Sector where
  pa : Nat := 0
  data : BitVec 1024 := 0
  own : List Nat := []
  hint : Nat := 0
  deriving DecidableEq, Repr, Inhabited

/-- A message in a cell's queue (R166): the context that sent it, its target and its bytes, and the launch of the unit that sent it as die
and key (R308). -/
structure Queued where
  ctx : Nat := 0
  box : Nat := 0
  priv : Bool := false
  m : Msg := 0
  log : Bool := false
  lg : Option LGrant := none
  launch : Option (Nat × Nat) := none
  deriving DecidableEq, Repr, Inhabited

/-- A translation cache entry (R348). -/
structure TlbEnt where
  asid : Nat := 0
  va : Nat := 0
  lg : Nat := 16
  pa : Nat := 0
  wr : Bool := false
  deriving DecidableEq, Repr, Inhabited

/-- A translation cache: entries and its invalidation generation (R357). (DESIGN CHOICE, log 4) -/
structure Tlb where
  ents : List TlbEnt := []
  gen : BitVec 32 := 0
  deriving DecidableEq, Repr, Inhabited

/-- The arbiter of a cell (R253): weights, credits, waits, pointer. -/
structure Arb where
  w : List Nat := [1, 1, 1, 1]
  credit : List Nat := [0, 0, 0, 0]
  wait : List Nat := [0, 0, 0, 0]
  ptr : Nat := 0
  deriving DecidableEq, Repr, Inhabited

/-- A cell (R14): its configuration words by region and offset (regions 0 to 5, R208), its status word (R209), its
contexts, accumulators (row r of physical accumulator a at key 32a + r), declared lists, island, L1, message queue,
translation cache, arbiter, and the placed page it belongs to with its index there. (DESIGN CHOICE, log 5) -/
structure Cell where
  cfg : SMap Word := []
  st : BitVec 2 := 0
  spare : Bool := false
  retired : Bool := false
  tiles : Nat := 24
  tilesOut : Nat := 0
  rcrc : BitVec 32 := 0
  ctxs : SMap Ctx := []
  accs : SMap (BitVec 8192) := []
  lists : SMap Nat := []
  island : Island := {}
  l1 : List Sector := []
  queue : List Queued := []
  tlb : Tlb := {}
  arb : Arb := {}
  undo : Arb := {}
  grant : Option Nat := none
  page : Option (Nat × Nat) := none
  deriving DecidableEq, Repr

/-! ### Translation and barriers -/

/-- A party that translates (R347, R350): its inbox is the one named in a fault slot. `job` is what a sampler or a scheduler
works on: 0 the head of its queue, else the batch's completion or one of its rows, and a launch, a node or a graph. -/
inductive Party where
  | ctx (x : CtxId)
  | engine (box q : Nat)
  | sampler (die job : Nat)
  | sched (die job : Nat)
  deriving DecidableEq, Repr, Inhabited

/-- How a walk ended (R349). -/
inductive WalkRes where
  | leaf (pa lg : Nat) (wr : Bool)
  | bad (kind level : Nat)
  deriving DecidableEq, Repr, Inhabited

/-- A walk under way for a context (R348, R357). The other parties translate at each access at once (assumption log). -/
structure Walk where
  x : CtxId := {}
  asid : Nat := 0
  va : Nat := 0
  wr : Bool := false
  hostBar : Bool := false
  gen : BitVec 32 := 0
  res : Option WalkRes := none
  deriving DecidableEq, Repr, Inhabited

/-- A party waiting on a fault slot (R350, R351): `slot` of `die`'s block, none while it waits for a free one. `res` is the first nonzero RES
that the device has seen, `away` the frozen page that the context went with. -/
structure FaultWait where
  party : Party := .sched 0 0
  die : Nat := 0
  slot : Option Nat := none
  asid : Nat := 0
  va : Nat := 0
  kind : Nat := 0
  level : Nat := 0
  wr : Bool := false
  commit : Bool := false
  gone : Bool := false
  res : Nat := 0
  away : Option Nat := none
  deriving DecidableEq, Repr, Inhabited

/-- A barrier message under way (R273, R276): an arrival of a child at a parent, `waits` once it has found the release list full (R277), or a
release. Objects are home keys. -/
inductive BarMsg where
  | arrival (child parent : Nat) (waits : Bool)
  | release (obj : Nat)
  deriving DecidableEq, Repr, Inhabited

/-- A BARWAIT queued at an object (R276): its object, its context, its c[0], and whether a flip has answered it. -/
structure BarWait where
  obj : Nat := 0
  x : CtxId := {}
  c0 : Bool := false
  answered : Bool := false
  deriving DecidableEq, Repr, Inhabited

/-- A WAITW watched at its home (R149): its context and producer, the word, the target, and the word as it was when it first reached
the target. -/
structure Watch where
  x : CtxId := {}
  id : Nat := 0
  home : Nat := 0
  target : BitVec 32 := 0
  got : Option (BitVec 32) := none
  deriving DecidableEq, Repr, Inhabited

/-- A shoot-down waiting for its acknowledge (R356): the context, its range and ASID (none for every ASID), and the serial from which on
producers were translated after it. -/
structure Shoot where
  x : CtxId := {}
  lo : Nat := 0
  hi : Nat := 0
  asid : Option Nat := none
  since : Nat := 0
  deriving DecidableEq, Repr, Inhabited

/-! ### Messages, beats, engines -/

/-- A message on its way (R166): its sender's inbox, whether the sender is privileged, its target, its bytes. `arr` numbers those that wait
at a scheduler for pool room in the order of their arrival (R311); 0 for none. `launch` is the launch of the unit that sent it (R308), `node`
the graph node whose message it is or answers, as die, graph and index (R319), `via` the frozen page that its sender went with (R342). (DESIGN CHOICE, log 41; DEDUCED, log 49) -/
structure Transit where
  src : Nat := 0
  priv : Bool := false
  box : Nat := 0
  m : Msg := 0
  lg : Option LGrant := none
  arr : Nat := 0
  launch : Option (Nat × Nat) := none
  node : Option (Nat × Nat × Nat) := none
  via : Option Nat := none
  deriving DecidableEq, Repr, Inhabited

/-- A beat on its way to a port of a context (R159). `via` is the frozen page that its sender went with, `tail` says that a frozen image
recorded it as the tail of its port (R336, R340). (DEDUCED, log 49) -/
structure Flight where
  src : Nat := 0
  box : Nat := 0
  port : Nat := 0
  beat : Beat := {}
  via : Option Nat := none
  tail : Bool := false
  deriving DecidableEq, Repr, Inhabited

/-- A command at a receiver: its bytes, its sender, its number at the receiver, its parameter block as read at its start, and its
progress. `run` counts the runs done, `off` the bytes of the current run, `cur` its address, level and length, `held` bytes read
and not yet delivered, `blk` the filter blocks, `bytes` the bytes delivered, `sub` those subtracted (R170 to R176). `phase` is
0 delivering, 1 a record to deposit, 2 EOF to place, 3 the dirty range, 4 the barrier, 5 the completion word, 6 the reply. `orig` is
the engine and number that a migrated command arrived with (R174). -/
structure Cmd where
  m : Msg := 0
  src : Nat := 0
  priv : Bool := false
  seq : Nat := 0
  free : Bool := false
  pb : Nat := 0
  started : Bool := false
  checked : Bool := false
  run : Nat := 0
  off : Nat := 0
  aux : Nat := 0
  cur : Option (Int × Nat × Nat) := none
  held : List Byte := []
  blk : Nat := 0
  fresh : Bool := true
  dropping : Bool := false
  status : Nat := 0
  bytes : Nat := 0
  faddr : Nat := 0
  sub : Nat := 0
  phase : Nat := 0
  dirty : Option (Nat × Nat × Nat) := none
  orig : Option (Nat × Nat) := none
  cancel : Bool := false
  lg : Option LGrant := none
  launch : Option (Nat × Nat) := none
  node : Option (Nat × Nat × Nat) := none
  deriving DecidableEq, Repr, Inhabited

/-- An inbox of an engine, the security block, the transport engine or a control core (R163, R168): four queues, its translation cache, and whether it is in service. -/
structure Box where
  qs : SMap (List Cmd) := []
  tlb : Tlb := {}
  seq : Nat := 0
  out : Bool := false
  deriving DecidableEq, Repr, Inhabited

/-! ### The sampler -/

/-- A logit in transit (R289): its id, its value, the count read for it (less one under UNDO), and the number of words done. -/
structure Logit where
  id : Nat := 0
  l : Nat := 0
  c : Int := 0
  pc : Nat := 0
  deriving DecidableEq, Repr, Inhabited

/-- The header of a sequence block as a row read it (R284): `bias` holds the entries in use, `seed` and `ndraw` the S and n of the
row's draw. -/
structure SeqHdr where
  prog : Nat := 0
  v : Nat := 0
  bias : List (Nat × Nat) := []
  nbias : Nat := 0
  topk : Nat := 1
  rtemp : Nat := 0
  topp : Nat := 0
  seed : Nat := 0
  ndraw : Nat := 0
  vmask : Nat := 0
  g : List Nat := []
  deriving DecidableEq, Repr, Inhabited

/-- A row of a batch (R286, R291): its entry, header, program, bitmap, lap-1 registers, list and replay values, and what its
selection and draw words ask for. f32 values are codes. `res` is none when no record can be written. -/
structure Row where
  r : Nat := 0
  seq : Nat := 0
  res : Option Nat := none
  replay : Bool := false
  undoId : Option Nat := none
  hdr : SeqHdr := {}
  words : List (BitVec 32) := []
  bits : List Byte := []
  status : Nat := 0
  n : Nat := 0
  maxp : Nat := 0xFF800000
  nans : Nat := 0
  list : List (Nat × Nat) := []
  lap : List Nat := []
  topk : Bool := false
  topp : Bool := false
  minp : Option Nat := none
  draw : Option Bool := none
  count : Bool := false
  ran : Bool := false
  deriving DecidableEq, Repr, Inhabited

/-- The sampler of a die (R282): its queue, the current batch with its feeder, its next row, the row in lap 1, the rows waiting for
lap 2, the logit in transit, the logits and mark of the beat taken last, the logits taken, the first failing row. `bad` is a batch
whose feeder failed the check, `ended` one whose end mark has been taken, `skip` one whose remaining beats are discarded, `fatal` the
addresses of faults that were resolved as fatal, by what faulted. -/
structure Sampler where
  queue : List Cmd := []
  batch : Option Cmd := none
  src : Nat := 0
  port : Nat := 0
  next : Nat := 0
  nrows : Nat := 0
  bad : Bool := false
  row : Option Row := none
  lap2 : List Row := []
  cur : Option Logit := none
  pend : List Nat := []
  mark : Nat := 0
  logits : Nat := 0
  fail : Option (Nat × Nat) := none
  ended : Bool := false
  skip : Bool := false
  cancel : Bool := false
  fatal : List (Nat × Nat) := []
  out : Bool := false
  deriving DecidableEq, Repr, Inhabited

/-! ### Schedulers and the pager -/

/-- A runnable instance of a launch: its tile record, if any (R214). -/
structure Inst where
  rc : Nat := 0
  w0 : Word := 0
  w1 : Word := 0
  tiled : Bool := false
  left : Nat := 0
  failed : Bool := false
  cancelled : Bool := false
  deriving DecidableEq, Repr, Inhabited

/-- An admitted launch (R213, R314): its descriptor, its record (a home), its entries, its instances, and the cursor of its next page:
instance, copy, page. `slots` are the used contexts of its image as (page, cell in page, context) (R395), `barred` the windows that
rejected the page at the cursor (R333), `noted` says that the first failure is recorded, `fault` that it was faulted (R321). -/
structure Launch where
  key : Nat := 0
  id : BitVec 32 := 0
  asid : Nat := 0
  image : Nat := 0
  nunit : Nat := 0
  domain : BitVec 16 := 0
  rlvl : Nat := 1
  sys : Bool := false
  seof : Bool := false
  ts0 : BitVec 32 := 0
  ovl : List (Nat × Word) := []
  crec : Nat := 0
  parent : Nat := 0
  level : Nat := 0
  since : Nat := 0
  adm : Nat := 0
  rank : Nat := 0
  reserve : Nat := 0
  fromRes : Nat := 0
  issuer : Option (Nat × Nat) := none
  node : Option (Nat × Nat) := none
  npage : Nat := 1
  slots : List (Nat × Nat × Nat) := []
  insts : List Inst := []
  inst : Nat := 0
  copy : Nat := 0
  page : Nat := 0
  prioSet : Option Nat := none
  barred : List Nat := []
  tries : Nat := 0
  noted : Bool := false
  cancel : Bool := false
  fault : Bool := false
  ended : Bool := false
  deriving DecidableEq, Repr, Inhabited

/-- A node of a graph (R316, R319): its words, its predecessors, and its state: 0 waiting, 1 ready, 2 dispatched, 3 done,
4 failed, 5 cancelled. `msgs` are the messages still to be sent, once `loaded`, `outs` the sent ones without a reply as inbox and echo. -/
structure Node where
  kind : Nat := 0
  level : Nat := 0
  reserve : Nat := 0
  ncmd : Nat := 0
  target : Nat := 0
  payload : Nat := 0
  preds : List Nat := []
  since : Nat := 0
  st : Nat := 0
  loaded : Bool := false
  msgs : List Msg := []
  outs : List (Nat × Nat) := []
  bad : Bool := false
  cancel : Bool := false
  deriving DecidableEq, Repr, Inhabited

/-- A graph (R317, R320): its record (a home), its phase's address word, its SGRAPH with what is left of its completion. `how` is its
final STATUS, `pwait` says that it waits for pool room. -/
structure Graph where
  key : Nat := 0
  asid : Nat := 0
  crec : Nat := 0
  phase : Nat := 0
  priv : Bool := false
  nodes : List Node := []
  adm : Nat := 0
  admitted : Bool := false
  pwait : Bool := false
  cmd : Cmd := {}
  how : Nat := 0
  fault : Bool := false
  ended : Bool := false
  deriving DecidableEq, Repr, Inhabited

/-- An open phase or job (R310, R321): its record (a home), its level, its parent's address word, the number of its opening, and how many
graphs were submitted to it. -/
structure Opened where
  crec : Nat := 0
  level : Nat := 0
  parent : Nat := 0
  adm : Nat := 0
  graphs : Nat := 0
  fault : Bool := false
  deriving DecidableEq, Repr, Inhabited

/-- A LAUNCH descheduled for want of pool entries (R215): its context, the entries it needs, and the launch whose reserve it may draw on (key 0
for none). -/
structure PoolWait where
  x : CtxId := {}
  need : Nat := 0
  lkey : Nat := 0
  deriving DecidableEq, Repr, Inhabited

/-- A ready entry of a scheduler: a node as graph and index, a launch with units not placed, a frozen page (R312, R341). -/
inductive Ready where
  | node (graph i : Nat)
  | launch (key : Nat)
  | frozen (page : Nat)
  deriving DecidableEq, Repr, Inhabited

/-- The scheduler of a die (R309 to R322). `blocked` is the top entry of the cells class that cannot place, and the clock since which (R335),
`progress` the clock of the last progress event (R321), `fatal` the reads whose fault was resolved as fatal, by job. -/
structure Sched where
  queue : List Cmd := []
  ids : Nat := 0
  keys : Nat := 0
  pool : Nat := 4096
  launches : List Launch := []
  graphs : List Graph := []
  opened : List Opened := []
  waits : List PoolWait := []
  progress : Nat := 0
  blocked : Option (Ready × Nat) := none
  fatal : List (Nat × FaultWait) := []
  out : Bool := false
  deriving DecidableEq, Repr, Inhabited

/-- The stage of a freeze (R335 to R338). -/
inductive Freeze where
  | no
  | asked
  | wave
  deriving DecidableEq, Repr, Inhabited

/-- A placed page (R331, R332): its launch, instance, copy and ordinal, its 16 physical cells by index with the shadow cells of a detour,
its window's number, whether it is being loaded (`skip`: the cells hold it already; `again`: from a frozen image that had not started), the
Kiln words of its load that are written, its indices that a pattern fills, how often it was rejected and by which windows (R333),
whether its units have started, its beat budget and the beats taken in window `win` (R343), its freeze, and the die it moves to. -/
structure Page where
  key : Nat := 0
  die : Nat := 0
  sdie : Nat := 0
  lkey : Nat := 0
  inst : Nat := 0
  copy : Nat := 0
  ord : Nat := 0
  cells : List Nat := []
  shadow : List Nat := []
  window : Nat := 0
  sys : Bool := false
  loading : Bool := false
  skip : Bool := false
  thaw : Bool := false
  again : Bool := false
  done : Nat := 0
  filled : List Nat := []
  tries : Nat := 0
  barred : List Nat := []
  started : Bool := false
  budget : Nat := 0
  taken : Nat := 0
  win : Nat := 0
  freeze : Freeze := .no
  adm : Nat := 0
  toDie : Nat := 0
  deriving DecidableEq, Repr, Inhabited

/-- What a section of a cell record of a frozen image holds, by its TYPE (R340): 2 the context's registers with their full bits, constants, special
and trap registers, and its stopping point with what is pending; 3 sequencing; 4 rounds; 5 store buffers; 6 ports, then the drained route tail;
7 rings; 8 the island: accumulator rows and declarations by context accumulator number, the journals, and, for its holder, tiles and queues. (DESIGN CHOICE, log 22) -/
inductive Section where
  | registers (arch : Arch) (c : SMap Word) (rseq : BitVec 32) (cause : BitVec 8) (finfo : BitVec 64) (tepc : BitVec 16) (prods : List Prod)
  | sequencing (stack : List Frame) (sym : Option Nat) (tok : Beat) (closePend : Bool) (pushn : Option Nat)
  | rounds (opn : Round) (closed : Option Round)
  | buffers (l : List (List Entry × List Buffered))
  | ports (l : SMap Port) (tail : List Flight)
  | rings (l : SMap Ring)
  | island (rows : List (BitVec 8192)) (decls : List Nat) (journals : List (List (Nat × BitVec 8192))) (held : Option Island)
  deriving DecidableEq, Repr

/-- One cell of a frozen page (R340): its configuration, contexts, accumulators, lists, island, scratch and lane bytes. -/
structure FrozenCell where
  idx : Nat := 0
  cfg : SMap Word := []
  ctxs : SMap Ctx := []
  accs : SMap (BitVec 8192) := []
  lists : SMap Nat := []
  island : Island := {}
  scratch : List Host.Cell := []
  lanes : List Host.Cell := []
  deriving DecidableEq, Repr

/-- A frozen page (R340): its page with its old cells, the die whose scheduler holds it, the state its header records, its level and age
as an entry, its cells, the WAITWs that were pending, and the beats that were on their routes. (DESIGN CHOICE, log 22) -/
structure Frozen where
  page : Page := {}
  die : Nat := 0
  st : Nat := 0
  level : Nat := 0
  since : Nat := 0
  cells : List FrozenCell := []
  watches : List Watch := []
  flights : List Flight := []
  deriving DecidableEq, Repr

/-! ### Host, network, lifecycle -/

/-- A host window (R363): collected bytes with their valid bits, control fields, ring registers, queued messages. -/
structure Window where
  msg : Msg := 0
  valid : BitVec 64 := 0
  ctl : BitVec 46 := 0
  rbase : Word := 0
  rsize : BitVec 32 := 0
  rtail : BitVec 32 := 0
  rhead : BitVec 32 := 0
  sent : BitVec 32 := 0
  err : BitVec 32 := 0
  queue : List (Msg × BitVec 46) := []
  deriving DecidableEq, Repr, Inhabited

/-- A request to host memory under way (R366): a load part of a producer, or an atomic. -/
inductive HostReq where
  | load (x : CtxId) (id : Nat)
  | atomic (x : CtxId) (id op ty home : Nat) (a b : Word)
  deriving DecidableEq, Repr, Inhabited

/-- The host link (R362 to R366): HBOFF, the current BAR 2 size (its logarithm), windows, the MSI-X table as message address and data of each
vector, the messages raised, the vectors that are not masked, pending bits, requests, and what the last access through BAR 2 answered (none:
Unsupported Request). (DESIGN CHOICE, log 5; PRESUMED, log 84) -/
structure HostLink where
  hboff : Word := 0
  barLg : Nat := 30
  answer : Option (List Byte) := some []
  wins : SMap Window := []
  table : SMap (Word × BitVec 32) := []
  msix : List (Word × BitVec 32) := []
  unmasked : List Nat := []
  pend : List Nat := []
  reqs : List HostReq := []
  deriving DecidableEq, Repr

/-- A record whose packets are arriving (R368, R371, R372): its sender, its message, its ring, the TAIL at which it starts, and the offsets that
have arrived. (DEDUCED, log 55) -/
structure Post where
  fa : BitVec 128 := 0
  job : BitVec 24 := 0
  msg : Nat := 0
  die : Nat := 0
  off : Nat := 0
  start : Nat := 0
  got : List Nat := []
  deriving DecidableEq, Repr, Inhabited

/-- The transport engine (R368, R374, R375): how many collectives of each group this module has issued, the ports that are down, when
each congestion entry was written last, the packets acknowledged and those marked for each peer, and the records that are arriving. -/
structure Net where
  colls : SMap Nat := []
  portsDown : List Nat := []
  wrote : SMap Nat := []
  acks : SMap (Nat × Nat) := []
  posts : List Post := []
  deriving DecidableEq, Repr, Inhabited

/-- The start record and the service state (R377 to R387): whether the start sequence has run, a thermal stop and the trip that the
next start records, the critical step that stopped the sequence with the record's first 136 bytes as they stood, the record's two copies,
the dies and HBM stacks in service, the stacks' rate codes, the firmware images A and B (none: as delivered), whether the module started on copy B, the cores that run copy B, the cores still to
restart, the core inbox whose MFW is under way, the recalibrations under way as stack, channel and command, the cells and
tiles to be retired once their page is gone, the last window in which the governor set each page's budget, and the engines and ports that
steps 27 and 29 took out, which module reset keeps. (PRESUMED, log 7; DEDUCED, log 59) -/
structure Service where
  started : Bool := false
  stopped : Bool := false
  tripped : Bool := false
  broken : Option Nat := none
  draft : List Byte := []
  rec0 : List Byte := []
  rec1 : List Byte := []
  dies : List Bool := [true, true, true, true]
  hbms : List Bool := List.replicate 12 true
  rates : List Nat := List.replicate 12 0
  imgA : Option (List Byte) := none
  imgB : Option (List Byte) := none
  startB : Bool := false
  copyB : List Nat := []
  restart : List Nat := []
  update : Option Nat := none
  recals : List (Nat × Nat × Nat × Nat) := []
  retiring : List (Nat × Option Nat) := []
  governor : SMap Nat := []
  engOut : List Nat := []
  portOut : List Nat := []
  deriving DecidableEq, Repr

/-! ### The machine -/

/-- The machine. -/
structure State where
  clk : Word := 0
  agenda : List Move := []
  picks : Nat := 0
  moved : List (Nat × Nat) := []
  fresh : Nat := 0
  cur : CtxId := {}
  eng : Nat × Nat := (0, 0)
  ecc : Ecc := .clean
  die : Nat := 0
  serial : Nat := 0
  mem : List Host.Cell := []
  watches : List Watch := []
  l2dirty : List Nat := []
  floors : SMap (BitVec 32) := []
  cells : SMap Cell := []
  walks : List Walk := []
  faults : List FaultWait := []
  shoots : List Shoot := []
  barMsgs : List BarMsg := []
  releases : List (Nat × Nat) := []
  barWaits : List BarWait := []
  barErrs : SMap Nat := []
  transit : List Transit := []
  flights : List Flight := []
  boxes : SMap Box := []
  samplers : SMap Sampler := []
  scheds : SMap Sched := []
  pages : List Page := []
  frozen : List Frozen := []
  redirect : List (Nat × Nat) := []
  host : HostLink := {}
  net : Net := {}
  sys : Service := {}
  deriving DecidableEq, Repr

/-- The machine right after module reset, before the start sequence runs (R377): every field at its reset value. Memory
lists nothing: every byte reads as the unlisted byte (assumption log 3). (DESIGN CHOICE, log 4 and 5; PRESUMED, log 7) -/
def State.reset : State := {}

end Sys2Proof.Machine
end

