-- ==== Sys2Proof/Machine/Mem.lean ====
section
/-!
DEFINITION. Memory by home (R146, R255): one canonical list of bytes, keyed by the home of a byte. HBM stands at its physical
address, host memory, die scratch, cell scratch by ordinal and lane slices each in a window of their own. Also the forms
of addresses (R30, R31), address words (R169), and the table walk (R344 to R349).
-/

namespace Sys2Proof.Machine

/-! ### The list -/

/-- What an unlisted byte reads as (assumption log 3). (DESIGN CHOICE, log 3) -/
def unlisted : Byte := 0

/-- Reads one byte of a canonical list. (DESIGN CHOICE, log 3) -/
def memGet : List Host.Cell → Nat → Byte
  | [], _ => unlisted
  | (k, b) :: r, a => if k = a then b else if a < k then unlisted else memGet r a

/-- Writes one byte and keeps the list canonical. (DESIGN CHOICE, log 3) -/
def memSet : List Host.Cell → Nat → Byte → List Host.Cell
  | [], a, b => if b = unlisted then [] else [(a, b)]
  | (k, v) :: r, a, b =>
    if a < k then (if b = unlisted then (k, v) :: r else (a, b) :: (k, v) :: r)
    else if a = k then (if b = unlisted then r else (a, b) :: r)
    else (k, v) :: memSet r a b

/-- The canonical form: addresses strictly rise above a bound, and no entry equals the unlisted byte. -/
def memAbove : Nat → List Host.Cell → Bool
  | _, [] => true
  | lo, (k, b) :: r => lo ≤ k && b != unlisted && memAbove (k + 1) r

/-- The canonical form of a memory. (DESIGN CHOICE, log 3) -/
def Memory.wf (m : List Host.Cell) : Bool := memAbove 0 m

/-- Writes bytes upward from an address. -/
def memSets : List Host.Cell → Nat → List Byte → List Host.Cell
  | m, _, [] => m
  | m, a, b :: r => memSets (memSet m a b) (a + 1) r

/-- Reads n bytes upward from an address. -/
def memGets (m : List Host.Cell) : Nat → Nat → List Byte
  | _, 0 => []
  | a, n + 1 => memGet m a :: memGets m (a + 1) n

/-- The little-endian number in n bytes (R5). -/
def memNum (m : List Host.Cell) (a n : Nat) : Nat := ofBytes (memGets m a n)

/-- Zeroes every byte from lo up to and not including hi. -/
def memClear (m : List Host.Cell) (lo hi : Nat) : List Host.Cell := m.filter (fun e => e.1 < lo || hi ≤ e.1)

/-- The listed bytes from lo up to and not including hi, with addresses relative to lo. -/
def memSlice (m : List Host.Cell) (lo hi : Nat) : List Host.Cell :=
  (m.filter (fun e => lo ≤ e.1 && e.1 < hi)).map (fun e => (e.1 - lo, e.2))

/-- Writes listed bytes back at an offset. -/
def memPut (m : List Host.Cell) (lo : Nat) (l : List Host.Cell) : List Host.Cell :=
  l.foldl (fun m e => memSet m (lo + e.1) e.2) m

/-! ### Homes -/

/-- The window of a kind of home. (DESIGN CHOICE, log 3) -/
def homeTag (t : Nat) : Nat := t * 2 ^ 64

/-- HBM, by physical address (R344). (DESIGN CHOICE, log 3) -/
def hbmKey (pa : Nat) : Nat := pa

/-- Host memory, by bus address (R344, R366). (DESIGN CHOICE, log 3) -/
def hostKey (a : Nat) : Nat := homeTag 1 + a

/-- Die scratch (R30). (DESIGN CHOICE, log 3) -/
def dieKey (die off : Nat) : Nat := homeTag 2 + die * 2 ^ 24 + off

/-- Cell scratch: cell key (die × 144 + cell), ordinal and byte in one 22-bit offset (R31). (DESIGN CHOICE, log 3) -/
def tileKey (ck off : Nat) : Nat := homeTag 3 + ck * 2 ^ 22 + off

/-- A lane slice: lane and offset (R30). (DESIGN CHOICE, log 3) -/
def laneKey (ck lane off : Nat) : Nat := homeTag 4 + ck * 2 ^ 18 + lane * 2 ^ 10 + off

/-- The key of a cell. -/
def cellKey (die cell : Nat) : Nat := die * 144 + cell

/-- The home of a physical address (R344). -/
def paKey (pa : Nat) : Nat := if bit pa 45 then hostKey (pa % 2 ^ 45) else hbmKey pa

/-- A home key in HBM. -/
def isHbm (k : Nat) : Bool := k < homeTag 1

/-- A home key in host memory. -/
def isHostKey (k : Nat) : Bool := homeTag 1 ≤ k && k < homeTag 2

/-! ### Cells and contexts -/

end Sys2Proof.Machine

namespace Sys2Proof

/-- The key of a context's cell. -/
def CtxId.ck (x : CtxId) : Nat := Machine.cellKey x.die x.cell

/-- The inbox of a context (R163). -/
def CtxId.box (x : CtxId) : Nat := x.die * 2 ^ 10 + x.cell * 4 + x.ctx

end Sys2Proof

namespace Sys2Proof.Machine

/-- The cell at a key. -/
def State.cell (s : State) (ck : Nat) : Cell := s.cells.getD ck {}

/-- Replaces a cell. -/
def State.setCell (s : State) (ck : Nat) (c : Cell) : State := { s with cells := s.cells.set ck c }

/-- Changes a cell. -/
def State.modCell (s : State) (ck : Nat) (f : Cell → Cell) : State := s.setCell ck (f (s.cell ck))

/-- A context of a cell. -/
def Cell.ctx (c : Cell) (i : Nat) : Ctx := c.ctxs.getD i {}

/-- A context. -/
def State.ctx (s : State) (x : CtxId) : Ctx := (s.cell x.ck).ctx x.ctx

/-- Replaces a context. -/
def State.setCtx (s : State) (x : CtxId) (c : Ctx) : State :=
  s.modCell x.ck (fun k => { k with ctxs := k.ctxs.set x.ctx c })

/-- Changes a context. -/
def State.modCtx (s : State) (x : CtxId) (f : Ctx → Ctx) : State := s.setCtx x (f (s.ctx x))

/-- The context id of a cell key and number. -/
def ctxAt (ck i : Nat) : CtxId := { die := ck / 144, cell := ck % 144, ctx := i }

/-- Every context of a cell that has an entry. -/
def State.cellCtxs (s : State) (ck : Nat) : List (CtxId × Ctx) :=
  (s.cell ck).ctxs.map (fun e => (ctxAt ck e.1, e.2))

/-- Every context that has an entry. -/
def State.allCtxs (s : State) : List (CtxId × Ctx) := s.cells.flatMap (fun e => s.cellCtxs e.1)

/-- The context that a kind-0 inbox names. -/
def boxCtx (box : Nat) : CtxId := { die := fld box 11 10, cell := fld box 9 2, ctx := fld box 1 0 }

/-- The context that an inbox id reaches now (R342). -/
def State.receiver (s : State) (box : Nat) : CtxId :=
  boxCtx (((s.redirect.find? (fun r => r.1 == box)).map (fun r => r.2)).getD box)

/-- A configuration word of a cell (R208). -/
def Cell.word (c : Cell) (region woff : Nat) : Word := c.cfg.getD (region * 2 ^ 24 + woff) 0

/-- The action word at an index of the action store (R77, R208). -/
def Cell.action (k : Cell) (i : Nat) : BitVec 128 := k.word 0 (2 * i + 1) ++ k.word 0 (2 * i)

/-- Replaces a configuration word. -/
def Cell.setWord (c : Cell) (region woff : Nat) (v : Word) : Cell :=
  { c with cfg := c.cfg.set (region * 2 ^ 24 + woff) v }

/-- The scratch-tile count of a cell's role map (R258, R330). -/
def Cell.scratch (c : Cell) : Nat := fld (c.word 4 0).toNat 4 0

/-- Whether the cell is fused off (R209): as the fuses say, for at most 16 cells of a die, so that 128 are left (R2). (DEDUCED, log 81) -/
def fusedOff (ck : Nat) : Bool :=
  Config.fused (ck / 144) (ck % 144) && decide ((List.range (ck % 144)).countP (fun c => Config.fused (ck / 144) c) < 16)

/-- Fused off, held as a spare, or retired: software cannot address the cell, and no page is placed on it (R2, R331). (DEDUCED, log 81) -/
def State.unusable (s : State) (ck : Nat) : Bool := fusedOff ck || (s.cell ck).spare || (s.cell ck).retired

/-- Drops the sector of L1 that holds a physical address (R256). -/
def Cell.dropSector (k : Cell) (pa : Nat) : Cell := { k with l1 := k.l1.filter (fun e => e.pa != pa / 128) }

/-! ### Addresses -/

/-- The placed page of a cell. -/
def State.pageOf (s : State) (ck : Nat) : Option Page :=
  (s.cell ck).page.bind (fun p => s.pages.find? (fun g => g.key == p.1))

/-- Whether a freeze wave has reached a cell (R336). -/
def State.waved (s : State) (ck : Nat) : Bool := ((s.pageOf ck).map (fun p => p.freeze == .wave)).getD false

/-- The space of an SPC code (R30). -/
def Space.ofCode (c : Nat) : Space :=
  if c = 0 then .g else if c = 1 then .s else if c = 2 then .n else if c = 3 then .d else .l

/-- The page cell of an index, as a cell key: the cell itself when it stands on no page (R31). -/
def State.pageCell (s : State) (ck idx : Nat) : Nat :=
  match (s.cell ck).page with
  | none => ck
  | some (key, _) =>
    match s.pages.find? (fun p => p.key == key) with
    | none => ck
    | some p => cellKey p.die (p.cells.getD idx 0)

/-- The base of an address for read ranges and entries (R265): ASID, cell key or die. -/
def State.spaceBase (s : State) (x : CtxId) (sp : Space) (a : Nat) : Nat :=
  match sp with
  | .g => (s.ctx x).arch.asid.toNat
  | .n => s.pageCell x.ck (fld a 25 22)
  | .d => x.die
  | _ => x.ck

/-- Checks the form of an address (R30, R31): none, or the KIND of R128. (DEDUCED, log 14) -/
def State.formBad (s : State) (x : CtxId) (sp : Space) (a : Nat) : Option Nat :=
  match sp with
  | .g => if a < 2 ^ 49 then none else some 1
  | .s => if 2 ^ 22 ≤ a then some 1 else if fld a 21 17 < (s.cell x.ck).scratch then none else some 2
  | .n =>
    if 2 ^ 26 ≤ a then some 1
    else if fld a 21 17 < (s.cell (s.pageCell x.ck (fld a 25 22))).scratch then none else some 2
  | .d => if a < 2 ^ 24 then none else some 1
  | .l => if a < 2 ^ 10 then none else some 1

/-- The home of a byte of a space other than `.g` and `.l` (R146). -/
def homeOf (sp : Space) (base a : Nat) : Nat :=
  match sp with
  | .s => tileKey base (a % 2 ^ 22)
  | .n => tileKey base (a % 2 ^ 22)
  | .d => dieKey base (a % 2 ^ 24)
  | _ => a

/-- The parts of n bytes at an address: intersections with aligned 64-byte blocks, ascending (R129). `fuel` bounds their
number. -/
def partsAux : Nat → Nat → Nat → Nat → List (Nat × Nat × Nat)
  | 0, _, _, _ => []
  | f + 1, a, n, off =>
    if n = 0 then []
    else
      let k := min n (64 - a % 64)
      (a, k, off) :: partsAux f (a + k) (n - k) (off + k)

/-- The parts of an access: address, length, offset within the access (R129). -/
def parts (a n : Nat) : List (Nat × Nat × Nat) := partsAux (n / 64 + 2) a n 0

/-! ### Physical memory -/

/-- The HBM stack of a physical address, and the die it attaches to (R1). (DESIGN CHOICE, log 23) -/
def homeStack (pa : Nat) : Nat := Config.homeStack pa % 12
/-- (DESIGN CHOICE, log 23) -/
def homeDie (pa : Nat) : Nat := homeStack pa / 3

/-- Whether a physical address names a byte (R344, R384). (DESIGN CHOICE, log 23) -/
def State.paOk (s : State) (pa : Nat) : Bool :=
  bit pa 45 || (pa < 0x9000000000 && (s.sys.hbms.all id || s.sys.hbms.getD (homeStack pa) true))

/-- Translation cache lookup (R348). -/
def Tlb.find (t : Tlb) (asid va : Nat) : Option TlbEnt :=
  t.ents.find? (fun e => e.asid == asid && e.va == va / 2 ^ e.lg * 2 ^ e.lg)

/-- Whether a table entry is well formed at a level (R345): V is set and it breaks no rule. The leaf flag is bit 1. -/
def State.entryOk (s : State) (e lvl : Nat) : Bool :=
  let addr := fld e 45 8 * 2 ^ 8
  let leaf := bit e 1
  fld e 63 46 == 0 && !bit e 3 && fld e 7 5 == 0 &&
    (if leaf then lvl != 1 && addr % 2 ^ (if lvl = 2 then 30 else if lvl = 3 then 21 else 16) == 0
     else lvl != 4 && !bit e 2 && s.paOk addr
       && addr % 2 ^ (if lvl = 1 then 12 else if lvl = 2 then 12 else 8) == 0)

/-- The index of a virtual address at a level (R344). -/
def vaIndex (va lvl : Nat) : Nat :=
  if lvl = 1 then fld va 48 39 else if lvl = 2 then fld va 38 30 else if lvl = 3 then fld va 29 21 else fld va 20 16

/-- The rest of a walk from the table at `pa` (R348): the result, and the address of the leaf whose A bit it sets. `hostBar`
says that host memory cannot take the access (R366). (DEDUCED, log 69) -/
def State.walkFrom (s : State) (va : Nat) (wr hostBar : Bool) : Nat → Nat → Nat → WalkRes × Option Nat
  | 0, _, lvl => (.bad 3 lvl, none)
  | f + 1, pa, lvl =>
    let ea := paKey (pa + 8 * vaIndex va lvl)
    let e := memNum s.mem ea 8
    if !bit e 0 then (.bad 1 lvl, none)
    else if !s.entryOk e lvl then (.bad 3 lvl, none)
    else if bit e 1 then
      let lg := if lvl = 2 then 30 else if lvl = 3 then 21 else 16
      let base := fld e 45 8 * 2 ^ 8
      let at' := base + va % 2 ^ lg
      if wr && !bit e 2 then (.bad 2 lvl, none)
      else if !s.paOk at' || (hostBar && bit at' 45) then (.bad 5 lvl, none)
      else (.leaf base lg (bit e 2), some ea)
    else s.walkFrom va wr hostBar f (fld e 45 8 * 2 ^ 8) (lvl + 1)

/-- The offset of the translation control block (R346). -/
def tcb : Nat := 0xFFF800

/-- A walk on the tables of a die (R346, R348, R349). -/
def State.walk (s : State) (die asid va : Nat) (wr hostBar : Bool) : WalkRes × Option Nat :=
  let atab := memNum s.mem (dieKey die tcb) 8
  if atab % 2 ^ 19 ≠ 0 ∨ 2 ^ 46 ≤ atab ∨ !s.paOk atab then (.bad 4 0, none)
  else
    let e := memNum s.mem (paKey (atab + 8 * asid)) 8
    let root := fld e 45 13 * 2 ^ 13
    if !bit e 0 ∨ fld e 12 1 ≠ 0 ∨ 2 ^ 46 ≤ e ∨ !s.paOk root then (.bad 4 0, none)
    else s.walkFrom va wr hostBar 4 root 1

/-- Translates through a cache: the physical address and write permission of a cached page. -/
def TlbEnt.pa' (e : TlbEnt) (va : Nat) : Nat := e.pa + va % 2 ^ e.lg

/-! ### Writes at a home -/

/-- Marks the L2 sectors of a written HBM range dirty (R144, R257). -/
def State.dirtyL2 (s : State) (k n : Nat) : State :=
  if isHbm k && n != 0 then
    let secs := tab ((k + n - 1) / 128 - k / 128 + 1) (fun i => k / 128 + i)
    { s with l2dirty := secs.foldl (fun l x => if l.contains x then l else x :: l) s.l2dirty }
  else s

/-- Whether a word has reached its target in wrapping order (R149). -/
def reached (w target : BitVec 32) : Bool := (w - target).toNat < 2 ^ 31

/-- Tests a watched word again (R149). (DEDUCED, log 28) -/
def Watch.test (w : Watch) (mem : List Host.Cell) : Watch :=
  if w.got.isNone && reached (BitVec.ofNat 32 (memNum mem w.home 4)) w.target then
    { w with got := some (BitVec.ofNat 32 (memNum mem w.home 4)) }
  else w

/-- A fault slot (R346, R350). -/
def slotKey (die i : Nat) : Nat := dieKey die (tcb + 1024 + 16 * i)

/-- The device keeps the first nonzero RES that it sees in a party's slot (R351). -/
def FaultWait.see (f : FaultWait) (mem : List Host.Cell) : FaultWait :=
  match f.slot with
  | some i => if f.res = 0 then { f with res := memNum mem (slotKey f.die i) 1 % 4 } else f
  | none => f

/-- The homes look again at what they watch: the words of WAITWs (R149) and the fault slots (R351). (DEDUCED, log 28) -/
def State.watched (s : State) (m : List Host.Cell) : State :=
  { s with mem := m, watches := s.watches.map (fun (w : Watch) => w.test m), faults := s.faults.map (fun (f : FaultWait) => f.see m) }

/-- The bits of a byte of die scratch that only the device writes (R7): FCNT, BUSY and PARTY of the translation control block
(R346, R350), UNDER and REFUSED of the transport control block (R369), and all of the health block (R8, R381). SET fields of structures that a
program lays out elsewhere are not among them. (DEDUCED, log 85) -/
def deviceBits (die off : Nat) : Byte :=
  if 0xFFE800 ≤ off ∧ off < 0xFFF000 then 0xFF
  else if die = 0 ∧ 0xFFF034 ≤ off ∧ off < 0xFFF03C then 0xFF
  else if tcb + 24 ≤ off ∧ off < tcb + 28 then 0xFF
  else if tcb + 1024 ≤ off ∧ off < tcb + 2048 then (if off % 16 = 0 then 4 else if off % 16 = 8 ∨ off % 16 = 9 then 0xFF else 0)
  else 0

/-- The same for the byte at a home. (DEDUCED, log 85) -/
def ownBits (k : Nat) : Byte :=
  if homeTag 2 ≤ k ∧ k < homeTag 3 then deviceBits ((k - homeTag 2) / 2 ^ 24) ((k - homeTag 2) % 2 ^ 24) else 0

/-- What a write of a byte at a home stores there: the bits that only the device writes stay (R7). -/
def State.soft (s : State) (k : Nat) (b : Byte) : Byte := (memGet s.mem k &&& ownBits k) ||| (b &&& ~~~(ownBits k))

/-- The same for bytes upward from a home. (DEDUCED, log 85) -/
def State.softs (s : State) : Nat → List Byte → List Byte
  | _, [] => []
  | k, b :: r => s.soft k b :: s.softs (k + 1) r

/-- Writes bytes at a home; the home tests what is watched there (R149, R351). (DEDUCED, log 85) -/
def State.poke (s : State) (k : Nat) (bs : List Byte) : State := (s.watched (memSets s.mem k bs)).dirtyL2 k bs.length

/-- A write by a program, an engine or a host: bits that only the device writes keep their values (R7). (DEDUCED, log 85) -/
def State.write (s : State) (k : Nat) (bs : List Byte) : State := s.poke k (s.softs k bs)

/-- Sets the A bit of a leaf (R348 step 3). (DEDUCED, log 28) -/
def State.setAccessed (s : State) (leaf : Option Nat) : State :=
  match leaf with
  | none => s
  | some ea => s.poke ea [memGet s.mem ea ||| 0x10]

/-- Zeroes n bytes at a home; the home tests what is watched there (R149, R351). (DEDUCED, log 28) -/
def State.zero (s : State) (k n : Nat) : State := s.watched (memClear s.mem k (k + n))

/-- Writes bytes at homes all at once; the homes then test what is watched there (R149, R269, R351). -/
def State.pokeAll (s : State) (l : List (Nat × Byte)) : State :=
  l.foldl (fun s e => s.dirtyL2 e.1 1) (s.watched (l.foldl (fun m e => memSet m e.1 e.2) s.mem))

/-- The same by a program: bits that only the device writes keep their values (R7). (DEDUCED, log 85) -/
def State.writeAll (s : State) (l : List (Nat × Byte)) : State := s.pokeAll (l.map (fun e => (e.1, s.soft e.1 e.2)))

/-- Reads bytes at a home. -/
def State.peek (s : State) (k n : Nat) : List Byte := memGets s.mem k n

/-- Reads a number at a home. -/
def State.num (s : State) (k n : Nat) : Nat := memNum s.mem k n

/-- Writes a number at a home. -/
def State.putNum (s : State) (k n v : Nat) : State := s.poke k (toBytes n v)

/-- Writes a number as a program does. (DEDUCED, log 85) -/
def State.writeNum (s : State) (k n v : Nat) : State := s.write k (toBytes n v)

/-- What an engine, the sampler or the transport engine reads at a home: a request to host memory may complete in error, with all ones (R366).
(DESIGN CHOICE, log 83) -/
def State.fetched (s : State) (h n : Nat) : State × List Byte :=
  if isHostKey h then
    ({ s with fresh := s.fresh + 1 }, if Config.freeBit s.fresh then List.replicate n 0xFF else s.peek h n)
  else (s, s.peek h n)

/-- Their write at a home: one that completes in error in host memory is dropped (R366). (DESIGN CHOICE, log 83) -/
def State.stored (s : State) (h : Nat) (bs : List Byte) : State :=
  if isHostKey h then
    let t := { s with fresh := s.fresh + 1 }
    if Config.freeBit s.fresh then t else t.write h bs
  else s.write h bs

/-! ### Address words -/

/-- A place an engine reaches (R169). -/
inductive Place where
  | virt (va : Nat)
  | tile (ck off : Nat)
  | die (d off : Nat)
  | port (box q : Nat)
  | ring (d off : Nat)
  deriving DecidableEq, Repr, Inhabited

/-- Whether an inbox id of kind 0 is valid (R163). -/
def ctxBoxOk (box : Nat) : Bool := fld box 15 12 == 0 && fld box 9 2 < 144

/-- Reads an address word; none when it is invalid (R169). -/
def addrWord (w : Nat) : Option Place :=
  let addr := fld w 48 0
  let kind := fld w 51 49
  let d := fld w 53 52
  if fld w 63 54 ≠ 0 then none
  else if kind = 0 then (if d = 0 then some (.virt addr) else none)
  else if kind = 2 then
    (if addr < 2 ^ 30 ∧ fld addr 29 22 < 144 then some (.tile (cellKey d (fld addr 29 22)) (addr % 2 ^ 22)) else none)
  else if kind = 3 then (if addr < 2 ^ 24 then some (.die d addr) else none)
  else if kind = 4 then
    (if d = 0 ∧ addr < 2 ^ 20 ∧ ctxBoxOk (addr % 2 ^ 16) ∧ fld addr 19 16 ≠ 0 then
      some (.port (addr % 2 ^ 16) (fld addr 19 16)) else none)
  else if kind = 5 then (if addr < 2 ^ 24 then some (.ring d addr) else none)
  else none

/-- A place as an address word again. -/
def Place.word : Place → Nat
  | .virt va => va
  | .tile ck off => 2 * 2 ^ 49 + (ck / 144) * 2 ^ 52 + (ck % 144) * 2 ^ 22 + off
  | .die d off => 3 * 2 ^ 49 + d * 2 ^ 52 + off
  | .port box q => 4 * 2 ^ 49 + q * 2 ^ 16 + box
  | .ring d off => 5 * 2 ^ 49 + d * 2 ^ 52 + off

/-- The place some bytes further on. -/
def Place.plus (p : Place) (n : Int) : Place :=
  match p with
  | .virt va => .virt (wrap 64 ((va : Int) + n))
  | .tile ck off => .tile ck (wrap 64 ((off : Int) + n))
  | .die d off => .die d (wrap 64 ((off : Int) + n))
  | p => p

/-- The home of a KIND 3 record or block. -/
def dieWord (w : Nat) : Option Nat :=
  match addrWord w with
  | some (.die d off) => some (dieKey d off)
  | _ => none

end Sys2Proof.Machine
end

