-- ==== Sys2Proof/Machine/Records.lean ====
section
/-!
DEFINITION. Completion records (R216), their roll-up (R307), the nodes of a graph (R319) and the pool (R311): what the
scheduler does when an item ends.
-/

namespace Sys2Proof.Machine

/-- The scheduler of a die. -/
def State.sched (s : State) (die : Nat) : Sched := s.scheds.getD die {}

/-- Replaces a scheduler. -/
def State.setSched (s : State) (die : Nat) (d : Sched) : State := { s with scheds := s.scheds.set die d }

/-- Changes a scheduler. -/
def State.modSched (s : State) (die : Nat) (f : Sched → Sched) : State := s.setSched die (f (s.sched die))

/-- The entries an SLAUNCH asks for that no LAUNCH was granted (R309, R311). -/
def Cmd.poolNeed (c : Cmd) : Nat :=
  if c.m.extractLsb' 0 8 == 0x30 && c.lg.isNone then 1 + (c.m.extractLsb' 320 12).toNat else 0

/-- The pool entries that nobody holds and no SLAUNCH in the queue has been let in for (R309, R311). (DEDUCED, log 38) -/
def Sched.room (d : Sched) : Nat := d.pool - ((d.queue.filter (fun c => c.phase == 0)).map Cmd.poolNeed).foldl (· + ·) 0

/-- Whether an SGRAPH that arrived is still to get its entries: in the queue or at its turn (R311, R317). -/
def Sched.asking (d : Sched) : Bool :=
  d.queue.any (fun c => c.phase == 0 && c.m.extractLsb' 0 8 == 0x31 && c.m.extractLsb' 384 64 == 0)
    || d.graphs.any (fun g => g.pwait || (g.phase == 0 && !g.admitted && !g.ended))

/-- Notes a progress event on a die (R321). -/
def State.progress (s : State) (die : Nat) : State := s.modSched die (fun d => { d with progress := s.clk.toNat })

/-- Changes the launch with a key. -/
def State.modLaunch (s : State) (die key : Nat) (f : Launch → Launch) : State :=
  s.modSched die (fun d => { d with launches := d.launches.map (fun l => if l.key == key then f l else l) })

/-- The launch with a key. -/
def State.launch? (s : State) (die key : Nat) : Option Launch := (s.sched die).launches.find? (fun l => l.key == key)

/-- Changes the graph with a key. -/
def State.modGraph (s : State) (die key : Nat) (f : Graph → Graph) : State :=
  s.modSched die (fun d => { d with graphs := d.graphs.map (fun g => if g.key == key then f g else g) })

/-- How an item ended (R216): the values of STATUS. -/
inductive Ending where
  | done | failed | cancelled
  deriving DecidableEq, Repr, Inhabited

/-- STATUS of an ending. -/
def Ending.status : Ending → Nat
  | .done => 1
  | .failed => 2
  | .cancelled => 3

/-- The ending of a STATUS. -/
def Ending.ofStatus (n : Nat) : Ending := if n = 1 then .done else if n = 2 then .failed else .cancelled

/-- Whether the record at a home belongs to a job faulted under R321. -/
def State.faulted (s : State) (rec : Nat) : Bool :=
  s.scheds.any (fun e => e.2.opened.any (fun o => o.crec == rec && o.fault) || e.2.graphs.any (fun g => g.crec == rec && g.fault && !g.ended)
    || e.2.launches.any (fun l => l.crec == rec && l.fault && !l.ended))

/-- What a first failure records: FCAUSE, FUNIT and FINFO (R216). -/
structure First where
  cause : Nat := 0
  funit : Nat := 0
  finfo : Nat := 0
  deriving DecidableEq, Repr, Inhabited

/-- Writes a first failure into a record (R216). -/
def State.putFirst (s : State) (rec : Nat) (f : First) : State :=
  ((s.writeNum (rec + 16) 1 f.cause).writeNum (rec + 20) 4 f.funit).writeNum (rec + 24) 8 f.finfo

/-- Raises the count of an ending by n and copies the first failure, unless the record's job is faulted (R216, R307, R321). -/
def State.raise (s : State) (rec : Nat) (e : Ending) (n : Nat) (f : Option First) : State :=
  let at' := rec + 4 * e.status
  let first : Option First := if e == .failed && s.num (rec + 8) 4 == 0 && n != 0 && !s.faulted rec then f else none
  let s := s.writeNum at' 4 (s.num at' 4 + n)
  match first with
  | some f => s.putFirst rec f
  | none => s

/-- The STATUS that the counts give: some when they reach EXPECT (R216). -/
def State.settled (s : State) (rec : Nat) : Option Nat :=
  let d := s.num (rec + 4) 4
  let f := s.num (rec + 8) 4
  let c := s.num (rec + 12) 4
  if s.num (rec + 18) 1 = 0 ∧ d + f + c = s.num rec 4 then
    some (if s.faulted rec then 2 else if f ≠ 0 then 2 else if c ≠ 0 then 3 else 1)
  else none

/-- Returns pool entries: `res` of them to the reserve of a launch while it is live, the others to the pool of a die (R311). -/
def State.giveBack (s : State) (die : Nat) (issuer : Option (Nat × Nat)) (res n : Nat) : State :=
  match issuer.bind (fun (k : Nat × Nat) => (s.launch? k.1 k.2).filter (fun (p : Launch) => !p.ended)) with
  | some p =>
    (s.modLaunch ((issuer.map (fun (k : Nat × Nat) => k.1)).getD die) p.key (fun q => { q with reserve := q.reserve + res })).modSched die
      (fun d => { d with pool := d.pool + (n - res) })
  | none => s.modSched die (fun d => { d with pool := d.pool + n })

/-- Returns the entries that a launch still holds when it ends: its own and its reserve (R311). -/
def State.freeEntries (s : State) (die : Nat) (l : Launch) : State :=
  s.giveBack die l.issuer (min l.fromRes (1 + l.reserve)) (1 + l.reserve)

/-- Every predecessor of a node has completed as done (R319). -/
def Graph.predsDone (g : Graph) (n : Node) : Bool := n.preds.all (fun i => ((g.nodes[i]?).map (fun p => p.st == 3)).getD true)

/-- Some predecessor of a node failed or was cancelled (R319). -/
def Graph.predLost (g : Graph) (n : Node) : Bool := n.preds.any (fun i => ((g.nodes[i]?).map (fun p => decide (4 ≤ p.st))).getD false)

/-- Ready nodes and lost nodes after a change: a pass in index order is enough, since every edge goes up (R318). Returns the
graph, how many nodes it counted cancelled, and the pool entries they held. -/
def Graph.sweep (clk : Nat) : Nat → Nat → Graph → Nat × Nat → Graph × Nat × Nat
  | 0, _, g, k => (g, k)
  | f + 1, i, g, k =>
    match g.nodes[i]? with
    | none => (g, k)
    | some n =>
      if n.st = 0 ∧ g.predLost n then
        Graph.sweep clk f (i + 1) { g with nodes := modIdx (fun n => { n with st := 5 }) g.nodes i }
          (k.1 + 1, k.2 + 1 + n.reserve)
      else if n.st = 0 ∧ g.predsDone n then
        Graph.sweep clk f (i + 1) { g with nodes := modIdx (fun n => { n with st := 1, since := clk }) g.nodes i } k
      else Graph.sweep clk f (i + 1) g k

/-- The number of the admission or opening that made a record what it is now: children admitted before it belong to an earlier use of the
same bytes. -/
def State.madeAt (s : State) (rec : Nat) : Nat :=
  (s.scheds.flatMap (fun e => (e.2.opened.filter (fun o => o.crec == rec)).map (fun o => o.adm)
    ++ (e.2.graphs.filter (fun g => g.crec == rec)).map (fun g => g.adm)
    ++ (e.2.launches.filter (fun l => l.crec == rec)).map (fun l => l.adm))).foldl max 0

/-- Admission order of a child within its parent: how many items of that parent were admitted before (R307). -/
def State.childIndex (s : State) (parent adm : Nat) : Nat :=
  let base := s.madeAt parent
  let mine (w a : Nat) : Bool := dieWord w == some parent && decide (base ≤ a) && decide (a < adm)
  let n (d : Sched) :=
    (d.launches.filter (fun l => l.node.isNone && mine l.parent l.adm)).length
      + (d.graphs.filter (fun g => mine g.phase g.adm)).length
      + (d.opened.filter (fun o => mine o.parent o.adm)).length
  (s.scheds.map (fun e => n e.2)).foldl (· + ·) 0

/-- The first failure that a record holds, as its parent takes it (R307). -/
def State.firstOf (s : State) (rec child : Nat) : First :=
  { cause := s.num (rec + 16) 1, funit := child, finfo := s.num (rec + 24) 8 }

/-- Marks a graph node as ended and sweeps its successors: those lost are counted cancelled and their entries freed, then the node itself
is counted (R311, R319). The graph's record may then be complete. -/
def State.nodeCount (s : State) (die gk i : Nat) (e : Ending) (ents : Nat) (f : Option First) : State × Option Nat :=
  match (s.sched die).graphs.find? (fun g => g.key == gk) with
  | none => (s, none)
  | some g =>
    let g1 := { g with nodes := modIdx (fun n => { n with st := 2 + e.status, msgs := [], outs := [] }) g.nodes i }
    let (g2, lost, freed) := Graph.sweep s.clk.toNat g1.nodes.length 0 g1 (0, 0)
    let s := (s.modGraph die gk (fun _ => g2)).modSched die (fun d => { d with pool := d.pool + ents + freed })
    (((s.raise g.crec e 1 f).raise g.crec .cancelled lost none).progress die, some g.crec)

/-- Gives a record its STATUS when its counts have reached EXPECT, and rolls it up (R216, R307). `fuel` bounds the chain of parents. -/
def State.settleUp : Nat → State → Nat → State
  | 0, s, _ => s
  | f + 1, s, rec =>
    match s.settled rec with
    | none => s
    | some st =>
      let s := s.writeNum (rec + 18) 1 st
      let e := Ending.ofStatus st
      let up (s : State) (p : Nat) (adm : Nat) : State :=
        match dieWord p with
        | none => s
        | some r => State.settleUp f (s.raise r e 1 (some (s.firstOf rec (s.childIndex r adm)))) r
      match s.scheds.findSome? (fun d => (d.2.launches.find? (fun l => l.crec == rec && !l.ended)).map (fun l => (d.1, l))) with
      | some (die, l) =>
        let s := ((s.modLaunch die l.key (fun l => { l with ended := true })).freeEntries die l).progress die
        match l.node with
        | none => up s l.parent l.adm
        | some (gk, i) =>
          match s.nodeCount die gk i e 0 (some (s.firstOf rec i)) with
          | (s, some r) => State.settleUp f s r
          | (s, none) => s
      | none =>
        match s.scheds.findSome? (fun d => (d.2.graphs.find? (fun g => g.crec == rec && !g.ended)).map (fun g => (d.1, g))) with
        | some (die, g) =>
          up ((s.modGraph die g.key (fun g => { g with ended := true, how := st })).progress die) g.phase g.adm
        | none =>
          match (s.scheds.flatMap (fun d => d.2.opened.filter (fun o => o.crec == rec))).getLast? with
          | some o => up s o.parent o.adm
          | none => s

/-- How long a chain of parents the model follows: more than the levels of R306, and a bound for records that name each other. -/
def chain : Nat := 64

/-- Raises a record and rolls it up (R216, R307). -/
def State.rollUp (s : State) (rec : Nat) (e : Ending) (n : Nat) (f : Option First) : State :=
  State.settleUp chain (s.raise rec e n f) rec

/-- Ends a graph node that is no launch, or that never was dispatched (R311, R319). -/
def State.nodeEnd (s : State) (die gk i : Nat) (e : Ending) (f : Option First) : State :=
  let n := (((s.sched die).graphs.find? (fun g => g.key == gk)).bind (fun g => g.nodes[i]?)).getD {}
  match s.nodeCount die gk i e (1 + n.reserve) f with
  | (s, some r) => State.settleUp chain s r
  | (s, none) => s

/-- Counts n units of an instance that ended in the same way: each in its launch's record, or the tile record once its instance is complete.
The first failing unit of a launch is recorded when it fails (R205, R214, R216). -/
def State.countUnits (s : State) (die key inst n : Nat) (e : Ending) (cause funit finfo : Nat) : State :=
  match s.launch? die key with
  | none => s
  | some l =>
    match l.insts[inst]? with
    | none => s
    | some t =>
      let t' := { t with left := t.left - n, failed := t.failed || (e == .failed && n != 0),
                         cancelled := t.cancelled || (e == .cancelled && n != 0) }
      let first : Bool := e == .failed && n != 0 && !l.noted
      let s := if n = 0 then s else s.progress die
      let s := s.modLaunch die key (fun l => { l with insts := modIdx (fun _ => t') l.insts inst, noted := l.noted || first })
      let s := if first && !s.faulted l.crec then
          s.putFirst l.crec { cause := cause, funit := if t.tiled then t.rc else funit, finfo := finfo }
        else s
      if t.tiled then
        if t'.left = 0 ∧ t.left ≠ 0 then
          s.rollUp l.crec (if t'.failed then .failed else if t'.cancelled then .cancelled else .done) 1 none
        else s
      else s.rollUp l.crec e n none

/-- Counts a unit that ended (R216). -/
def State.countUnit (s : State) (u : UnitInfo) (e : Ending) (cause finfo : Nat) : State :=
  s.countUnits u.sdie u.lkey u.inst 1 e cause u.unit.toNat finfo

end Sys2Proof.Machine
end

