-- ==== Sys2Proof/Machine/Ops.lean ====
section
/-!
DEFINITION. The shared operations of a context: registers and full bits, the horizon and the head of a domain, the opening,
closing and voiding of rounds, the end and failure of a unit, TAKING A TRAP and the return from it, and how a word ends.
-/

namespace Sys2Proof.Machine

/-! ### Registers (R13, R15) -/

/-- Reads an s register; s0 reads as zero (R15). -/
def Arch.rs (a : Arch) (i : Nat) : Word := if i = 0 then 0 else a.s[i]?.getD 0

/-- Writes an s register and marks it full; a write to s0 is discarded (R15). -/
def Arch.ws (a : Arch) (i : Nat) (v : Word) : Arch :=
  if i = 0 then a else { a with s := a.s.setIfInBounds i v, sf := a.sf ||| BitVec.ofNat 64 (2 ^ i) }

/-- Reads a v register. -/
def Arch.rv (a : Arch) (i : Nat) : Vec := a.v[i]?.getD 0

/-- Writes a v register and marks it full. -/
def Arch.wv (a : Arch) (i : Nat) (v : Vec) : Arch :=
  { a with v := a.v.setIfInBounds i v, vf := a.vf ||| BitVec.ofNat 32 (2 ^ i) }

/-- Reads an m register. -/
def Arch.rm (a : Arch) (i : Nat) : Mask := a.m[i]?.getD 0

/-- Writes an m register and marks it full. -/
def Arch.wm (a : Arch) (i : Nat) (v : Mask) : Arch :=
  { a with m := a.m.setIfInBounds i v, mf := a.mf ||| BitVec.ofNat 16 (2 ^ i) }

/-- Reads a predicate; p0 reads as 1 (R15). -/
def Arch.rp (a : Arch) (i : Nat) : Bool := if i = 0 then true else a.p.getLsbD i

/-- Writes a predicate; a write to p0 is discarded (R15). -/
def Arch.wp (a : Arch) (i : Nat) (b : Bool) : Arch :=
  if i = 0 then a
  else { a with p := if b then a.p ||| BitVec.ofNat 8 (2 ^ i) else a.p &&& ~~~(BitVec.ofNat 8 (2 ^ i)) }

/-- Whether a register is full; s0 always is (R21). (DEDUCED, log 26) -/
def Arch.full (a : Arch) : Reg → Bool
  | .s i => i == 0 || a.sf.getLsbD i
  | .v i => a.vf.getLsbD i
  | .m i => a.mf.getLsbD i

/-- Marks a register empty; s0 stays full (R21). (DEDUCED, log 26) -/
def Arch.clear (a : Arch) : Reg → Arch
  | .s i => if i = 0 then a else { a with sf := a.sf &&& ~~~(BitVec.ofNat 64 (2 ^ i)) }
  | .v i => { a with vf := a.vf &&& ~~~(BitVec.ofNat 32 (2 ^ i)) }
  | .m i => { a with mf := a.mf &&& ~~~(BitVec.ofNat 16 (2 ^ i)) }

/-- Fills a register from its old value (R21). -/
def Arch.fill (a : Arch) (r : Reg) (f : Nat → Nat) : Arch :=
  match r with
  | .s i => a.ws i (BitVec.ofNat 64 (f (a.rs i).toNat))
  | .v i => a.wv i (BitVec.ofNat 2048 (f (a.rv i).toNat))
  | .m i => a.wm i (BitVec.ofNat 256 (f (a.rm i).toNat))

/-- A context's constant register (R15). -/
def Ctx.rc (c : Ctx) (i : Nat) : Word := c.c.getD i 0

/-- Whether a context is privileged (R200): its unit is of a SYS launch. -/
def Ctx.priv (c : Ctx) : Bool := c.info.sys

/-- The physical accumulator of a context accumulator (R16, R330). -/
def Ctx.acc (c : Ctx) (i : Nat) : Nat := c.info.amap.getD i 0

/-- A port of a context. -/
def Ctx.port (c : Ctx) (q : Nat) : Port := c.ports.getD q {}

/-- Replaces a port. -/
def Ctx.setPort (c : Ctx) (q : Nat) (p : Port) : Ctx := { c with ports := c.ports.set q p }

/-- A ring of a context. -/
def Ctx.ring (c : Ctx) (b : Nat) : Ring := c.rings.getD b {}

/-- Replaces a ring. -/
def Ctx.setRing (c : Ctx) (b : Nat) (r : Ring) : Ctx := { c with rings := c.rings.set b r }

/-! ### Ports and rings (R24, R137, R153) -/

/-- DIR: an outbound port (R153). -/
def Port.out (p : Port) : Bool := p.bind.getLsbD 0

/-- KIND of the binding (R153). -/
def Port.kind (p : Port) : Nat := (p.bind.extractLsb' 1 3).toNat

/-- The beats an inbound port still offers, from its speculative head. -/
def Port.avail (p : Port) : List Beat := p.fifo.drop (p.shead - p.base)

/-- The EOF beat (R27). -/
def eofBeat : Beat := { sb := 0x1000, data := 0 }

/-- The head beat of an inbound port: EOF, which is not consumed, once the port is closed (R158). -/
def Port.head? (p : Port) : Option Beat := if p.closed then some eofBeat else p.avail.head?

/-- Consumes the head beat (R109); a closed port's EOF is not consumed (R158). -/
def Port.take (p : Port) : Port :=
  if p.closed then p
  else
    match p.avail with
    | [] => p
    | b :: _ => { p with shead := p.shead + 1, eof := p.eof || b.sb == 0x1000 }

/-- Whether a FIFO has room for n more beats (R24, R153); a consumed beat holds its slot until its round commits (R240). -/
def Port.room (p : Port) (n : Nat) : Bool := p.old.length + p.fifo.length + n ≤ p.depth

/-- The position of the oldest beat that a FIFO still holds, consumed or not. -/
def Port.first (p : Port) : Nat := p.base - p.old.length

/-- The slots a ring holds for consumers (R137). -/
def Ring.held (r : Ring) : Nat := (r.tail - r.shead).toNat

/-- The slots free for producers (R137). -/
def Ring.free (r : Ring) : Nat := r.n - (r.tail - r.chead).toNat

/-- The bytes of a slot (R137). -/
def Ring.size (r : Ring) : Nat := 2 ^ (r.sz + 7)

/-- The scratch offset of the slot of a counter. (DESIGN CHOICE, log 88) -/
def Ring.slot (r : Ring) (k : BitVec 16) : Nat := r.base + (k.toNat % r.n) * r.size

/-! ### Messages -/

/-- Puts a message on its way (R166). -/
def State.send (s : State) (src : Nat) (priv : Bool) (box : Nat) (m : Msg) : State :=
  { s with transit := s.transit ++ [{ src := src, priv := priv, box := box, m := m }] }

/-- A reply (R176). -/
def replyMsg (status src : Nat) (echo : Word) (bytes faddr : Nat) : Msg :=
  BitVec.ofNat 512 (0x7F + status * 2 ^ 8 + src * 2 ^ 16 + echo.toNat * 2 ^ 64 + bytes % 2 ^ 64 * 2 ^ 128
    + faddr % 2 ^ 64 * 2 ^ 192)

/-- Sends a reply to the inbox the command named; 0xFFFF names none (R163, R176). -/
def State.reply (s : State) (src : Nat) (m : Msg) (status bytes faddr : Nat) (node : Option (Nat × Nat × Nat) := none) : State :=
  let box := (m.extractLsb' 24 16).toNat
  if box = 0xFFFF then s
  else { s with transit := s.transit ++
    [{ src := src, priv := false, box := box, m := replyMsg status src (m.extractLsb' 0 64) bytes faddr, node := node }] }

/-! ### The horizon (R260, R261) -/

/-- The earliest uncommitted timestamp of a context's unit (R261). -/
def Ctx.ets (c : Ctx) : BitVec 32 :=
  match c.closed with
  | some r => r.ts
  | none => c.opn.ts

/-- Whether a context's unit is registered in a domain (R261). -/
def Ctx.inDomain (c : Ctx) (d : BitVec 16) : Bool := c.life != .empty && c.info.domain == d

/-- Whether a launch has pages that are not placed yet (R313). -/
def Launch.pending (l : Launch) : Bool := !l.ended && !l.cancel && !l.fault && decide (l.inst < l.insts.length)

/-- The TS0 of a page's launch, when it is of a domain. -/
def State.pageTs (s : State) (p : Page) (d : BitVec 16) : List (BitVec 32) :=
  match s.launch? p.sdie p.lkey with
  | none => []
  | some l => if l.domain == d && !l.ended && !l.cancel && !l.fault then [l.ts0] else []

/-- The earliest uncommitted timestamps of every registered unit of a domain: running or frozen, and not started yet (R261). -/
def State.etss (s : State) (d : BitVec 16) : List (BitVec 32) :=
  ((s.allCtxs.filter (fun e => e.2.inDomain d)).map (fun e => e.2.ets))
    ++ (s.scheds.flatMap (fun e => (e.2.launches.filter (fun l => l.domain == d && l.pending)).map (fun l => l.ts0)))
    ++ (s.frozen.flatMap (fun f => f.cells.flatMap (fun k => (k.ctxs.filter (fun e => e.2.inDomain d)).map (fun e => e.2.ets))))
    ++ ((s.frozen.filter (fun f => f.st != 0)).flatMap (fun f => s.pageTs f.page d))
    ++ ((s.pages.filter (fun p => p.loading && !p.thaw)).flatMap (fun p => s.pageTs p d))

/-- The floor F(d) (R260). -/
def State.floor (s : State) (d : BitVec 16) : BitVec 32 := s.floors.getD d.toNat 0

/-- The horizon H(d) (R261). -/
def State.horizon (s : State) (d : BitVec 16) : BitVec 32 :=
  match s.etss d with
  | [] => s.floor d
  | x :: r => r.foldl (fun a b => if b.toNat < a.toNat then b else a) x

/-- Whether a context's open round is the head of its domain (R146). -/
def State.isHead (s : State) (x : CtxId) : Bool :=
  let c := s.ctx x
  c.closed.isNone && (c.info.domain == 0 || c.opn.ts == s.horizon c.info.domain)

/-! ### Opening and closing rounds (R84, R243) -/

/-- The snapshot of a context (R243, R246). -/
def snapOf (c : Ctx) (t : TileMap) : Snap :=
  { arch := c.arch
    ports := c.ports.map (fun e => (e.1, { bind := e.2.bind, filt := e.2.filt, drop := e.2.drop, eof := e.2.eof, gen := e.2.gen,
                                           closed := e.2.closed, shead := e.2.shead, stail := e.2.base + e.2.fifo.length }))
    rings := c.rings
    tiles := t }

/-- Opens a round with its snapshot at this point (R243). -/
def State.openRound (s : State) (x : CtxId) (ts : BitVec 32) (prev : Option (BitVec 32)) : State :=
  let t := (s.cell x.ck).island.tiles
  { (s.modCtx x (fun c => { c with opn := { serial := s.serial, ts := ts, prev := prev, snap := snapOf c t } }))
    with serial := s.serial + 1 }

/-- How far a round consumed its inbound ports and filled its outbound ones. -/
def Ctx.ends (c : Ctx) : SMap Nat :=
  c.ports.map (fun e => (e.1, if e.2.out then e.2.base + e.2.fifo.length else e.2.shead))

/-- Closes the open round and, unless it is the last, opens the next one (R84, R93, R95). The caller has checked that no
closed round waits and that the timestamp does not wrap. -/
def State.closeRound (s : State) (x : CtxId) (final : Bool) : State :=
  let c := s.ctx x
  let r := { c.opn with
    endPorts := c.ends
    endRings := c.rings.map (fun e => (e.1, (e.2.gen, e.2.shead)))
    final := final }
  let s := s.modCtx x (fun c => { c with closed := some r, arch := { c.arch with closePend := false } })
  if final then s.modCtx x (fun c => { c with opn := { c.opn with ents := [], msgs := [], ranges := [], readAll := false,
                                                                   journal := [], decls := [] } })
  else s.openRound x (c.opn.ts + 1) (some c.opn.ts)

/-! ### Voiding (R245 to R247) -/

/-- A port after a void (R246): its bindings and closing from the snapshot; an inbound port's speculative head goes back,
an outbound port loses the beats of the voided rounds. A port that QBIND had turned has its consumed beats back. DROP and an outbound EOFSEEN go on
while the binding is the same (R160). -/
def restorePort (p : Port) (n : PortSnap) : Port :=
  let same := p.gen == n.gen
  let q := { p with bind := n.bind, filt := n.filt, closed := n.closed, shut := n.closed && p.shut, gen := n.gen,
                    drop := if same then p.drop else n.drop, eof := if same && p.out then p.eof else n.eof }
  let first := p.first
  if n.bind.getLsbD 0 then { q with fifo := p.fifo.take (n.stail - p.base), shead := if p.out then p.shead else p.base,
                                    old := p.old.take (n.stail - first) }
  else { q with fifo := p.old ++ (if p.out then [] else p.fifo), old := [], base := first, shead := max n.shead first }

/-- A ring after a void (R142, R246): its geometry and counters from the snapshot when a BINIT is undone, otherwise its
speculative head and, when context-fed, its tail. -/
def restoreRing (r n : Ring) : Ring :=
  if r.gen = n.gen then { r with shead := n.shead, tail := if r.fed then r.tail else n.tail } else n

/-- Undoes accumulator rows and list declarations from a journal, which holds the oldest value of each (R189). -/
def Cell.undo' (k : Cell) (r : Round) : Cell :=
  { k with
    accs := r.journal.foldl (fun m e => m.set e.1 e.2) k.accs
    lists := r.decls.foldl (fun m e => m.set e.1 e.2) k.lists }

/-- Drops from the island what the voided rounds of a context put there (R189): `from'` is the earliest voided round's
number. -/
def Island.voided (i : Island) (ctx from' : Nat) (holds : Bool) (t : TileMap) : Island :=
  let later (c n : Nat) : Bool := c == ctx && from' ≤ n
  { i with
    rq := i.rq.filter (fun e => !later e.ctx e.serial)
    cq := i.cq.filter (fun e => !later e.ctx e.serial)
    pq := if holds then
        (i.pq.filter (fun p => p.serial < from')).map (fun p => { p with used := p.used.filter (fun u => u < from') })
      else i.pq
    tiles := if holds then t else i.tiles
    filling := if holds then i.filling.filter (fun f => f.2 < from') else i.filling }

/-- Gives back the pool entries of a buffered LAUNCH that a void discards (R215). -/
def State.dropBuffered (s : State) (x : CtxId) (b : Buffered) : State :=
  match b with
  | .launch g _ _ =>
    s.giveBack x.die (some (g.ldie, g.lkey)) g.res (g.res + g.pool)
  | _ => s

/-- A store to `.s` or `.l`: a void does not take it back (R32). -/
def Prod.stores (p : Prod) : Bool :=
  match p.kind with
  | .store _ => true
  | _ => false

/-- The new value of an atomic (R145), by its position in class 0x8: none when nothing is written. -/
def atomicNew (op ty old c e : Nat) : Option Nat :=
  let n := tyBits ty
  if op = 0 then some (wrap n (tyVal ty old + tyVal ty c))
  else if op = 1 then some (wrap n (min (tyVal ty old) (tyVal ty c)))
  else if op = 2 then some (wrap n (max (tyVal ty old) (tyVal ty c)))
  else if op = 3 then some (old &&& c)
  else if op = 4 then some (old ||| c)
  else if op = 5 then some (old ^^^ c)
  else if op = 6 then some c
  else if op = 7 then (if old = c then some e else none)
  else if op = 8 then some (f32add old c)
  else some (if c ≤ old then 0 else wrap n ((old : Int) + 1))

/-- Performs an atomic of a context at its home (R146, R147): the sector that its cell's L1 may hold goes. (DEDUCED, log 15) -/
def State.performAtomic (s : State) (x : CtxId) (op ty home : Nat) (a b : Word) : State :=
  let n := tyBits ty / 8
  let s := match atomicNew op ty (s.num home n) a.toNat b.toNat with
    | some v => s.writeNum home n v
    | none => s
  if isHbm home then s.modCell x.ck (fun k => k.dropSector home) else s

/-- Performs the pending direct stores and atomics of a context that stops: no void takes them back (R32, R205, R247). (DEDUCED, log 15) -/
def State.flush (s : State) (x : CtxId) : State :=
  (s.ctx x).prods.foldl (fun s p => match p.kind with
    | .store todo => todo.foldl (fun s l => s.writeAll l) s
    | .atomic op ty home a b _ _ => s.performAtomic x op ty home a b
    | _ => s) s

/-- An atomic: once it has issued a void leaves it to be performed, and only its old value is dropped (R94, R247, R268). (DEDUCED, log 15) -/
def Prod.performed (p : Prod) : Bool :=
  match p.kind with
  | .atomic .. => true
  | _ => false

/-- An atomic of host memory, which the host performs. (DEDUCED, log 15) -/
def Prod.hosted (p : Prod) : Bool :=
  match p.kind with
  | .hostAtomic .. => true
  | _ => false

/-- Voids the open round of a context and, with `all`, the closed round before it; the context resumes from the snapshot of
the earliest round voided (R245, R246). Its timestamp stays where that round had brought it. (DEDUCED, log 15) -/
def State.voidRounds (s : State) (x : CtxId) (all : Bool) : State :=
  let c := s.ctx x
  let e := if all then c.closed.getD c.opn else c.opn
  let lost := c.opn.msgs ++ (if all then (c.closed.map (fun r => r.msgs)).getD [] else [])
  let s := lost.foldl (fun s b => s.dropBuffered x b) s
  let holds := (s.cell x.ck).island.holder == some x.ctx
  let s := s.modCell x.ck (fun k =>
    let k := k.undo' c.opn
    let k := if all then (match c.closed with | some r => k.undo' r | none => k) else k
    { k with island := k.island.voided x.ctx e.serial holds e.snap.tiles })
  let s := s.modCtx x (fun c =>
    { c with
      arch := e.snap.arch
      ports := c.ports.map (fun p => (p.1, restorePort p.2 ((e.snap.ports.get? p.1).getD {})))
      rings := c.rings.map (fun r => (r.1, restoreRing r.2 ((e.snap.rings.get? r.1).getD {})))
      prods := c.prods.filterMap (fun p =>
        if p.serial < e.serial || p.stores then some p else if p.performed then some { p with dst := .s 0, acq := none } else none)
      closed := if all then none else c.closed
      opn := { serial := s.serial, ts := e.ts, prev := e.prev, snap := e.snap }
      wait := .none })
  { s with
    serial := s.serial + 1
    scheds := s.scheds.map (fun d => (d.1, { d.2 with waits := d.2.waits.filter (fun w => w.x != x) }))
    barWaits := s.barWaits.filter (fun w => w.x != x)
    walks := s.walks.filter (fun w => w.x != x)
    watches := s.watches.filter (fun w => w.x != x || (s.ctx x).prods.any (fun p => p.id == w.id))
    shoots := s.shoots.filter (fun h => h.x != x) }

/-! ### The end of a unit (R205, R244, R322) -/

/-- Appends EOF to an outbound port that is not closed, and lets every beat in it leave; an inbound port loses its beats and
takes no more (R205, R244). -/
def Port.finish (p : Port) : Port :=
  if p.out then
    let f := if p.closed then p.fifo else p.fifo ++ [eofBeat]
    { p with fifo := f, closed := true, ctail := p.base + f.length, old := [] }
  else { p with fifo := [], base := p.base + p.fifo.length, shead := p.base + p.fifo.length, shut := true, old := [] }

/-- The dirty-range record of a context (R353): 24 bytes of payload, as a queued deposit. -/
def dirtyRec (x : CtxId) (d : Nat × Nat × Nat) : Queued :=
  { ctx := x.ctx, log := true, m := BitVec.ofNat 512 (d.1 + x.box * 2 ^ 16 + d.2.1 * 2 ^ 64 + d.2.2 * 2 ^ 128) }

/-- Deposits the dirty range of a context in its cell's queue and empties it (R354). Nothing when DLOG is 0. (DEDUCED, log 19) -/
def State.deposit (s : State) (x : CtxId) : State :=
  match (s.ctx x).dirty with
  | none => s
  | some d =>
    let s := s.modCtx x (fun c => { c with dirty := none })
    if s.num (dieKey x.die (tcb + 16)) 8 = 0 then s
    else s.modCell x.ck (fun k => { k with queue := k.queue ++ [dirtyRec x d] })

/-- The island of a cell without what a unit that ends left there. -/
def Island.leave (i : Island) (ctx : Nat) : Island :=
  let i := { i with rq := i.rq.filter (fun e => e.ctx != ctx), cq := i.cq.filter (fun e => e.ctx != ctx) }
  if i.holder = some ctx then { i with holder := none, pq := [], filling := none } else i

/-- Frees the context of a unit that has ended and counts it (R205, R216, R244). Its outbound ports keep what still has to
leave. -/
def State.endUnit (s : State) (x : CtxId) (e : Ending) (cause finfo : Nat) : State :=
  let u := (s.ctx x).info
  let s := s.deposit x
  let s := s.modCtx x (fun c =>
    { c with life := .empty, ports := c.ports.map (fun p => (p.1, p.2.finish)), prods := [], wait := .none,
             cancel := false, closed := none, opn := {} })
  let s := s.modCell x.ck (fun k => { k with island := k.island.leave x.ctx })
  let s := { s with
    walks := s.walks.filter (fun w => w.x != x)
    watches := s.watches.filter (fun w => w.x != x)
    faults := s.faults.map (fun (f : FaultWait) => if f.party == Party.ctx x && f.away.isNone then { f with gone := true } else f)
    redirect := s.redirect.filter (fun r => r.2 != x.box) }
  s.countUnit u e cause finfo

/-- Ends a unit that failed or was cancelled once no closed round waits (R205, R322). (DEDUCED, log 13) -/
def State.endIfSettled (s : State) (x : CtxId) : State :=
  let c := s.ctx x
  if c.closed.isSome then s
  else
    match c.life with
    | .failed cause finfo => s.endUnit x .failed cause finfo.toNat
    | .cancelled => s.endUnit x .cancelled 0 0
    | _ => s

/-- A unit stops for good: the open round is voided, producers are dropped, but for stores and atomics, which are performed; a closed round may
still commit, after the host has performed its atomics (R205, R268, R322). -/
def State.stopUnit (s : State) (x : CtxId) (how : Life) : State :=
  let s := (s.voidRounds x false).flush x
  let s := s.modCtx x (fun c => { c with life := how, prods := c.prods.filter Prod.hosted, wait := .none })
  s.endIfSettled x

/-- The failure of a unit (R205). (DEDUCED, log 13) -/
def State.failUnit (s : State) (x : CtxId) (cause : Nat) (finfo : Word) : State := s.stopUnit x (.failed cause finfo)

/-! ### Taking a trap, and the return from it (R203, R204) -/

/-- The recorded block whose first word has an index: its last word (R86, R208). -/
def Cell.block (k : Cell) (first : Nat) : Option Nat :=
  k.cfg.findSome? (fun e =>
    if e.1 / 2 ^ 24 = 2 ∧ bit e.2.toNat 32 ∧ fld e.2.toNat 13 0 = first then some (fld e.2.toNat 29 16) else none)

/-- Takes a trap of a context (R203): %cause, %finfo and %tepc are written, and the trap action named in the image runs in
the open round. Without a trap action, or inside one, the unit fails. -/
def State.takeTrap (s : State) (x : CtxId) (cause : Nat) (finfo : Word) : State :=
  let c := s.ctx x
  let tepc : BitVec 16 := match c.arch.pos with
    | .step => 0xFFFF
    | .word pc _ _ => BitVec.ofNat 16 pc
  let s := s.modCtx x (fun c => { c with cause := BitVec.ofNat 8 cause, finfo := finfo, tepc := tepc, wait := .none })
  match c.arch.trapped, c.info.trapw with
  | none, some w =>
    match (s.cell x.ck).block w with
    | some last =>
      s.modCtx x (fun c => { c with arch := { c.arch with trapped := some c.arch.pos, pos := .word w w last } })
    | none => s.failUnit x 1 9
  | _, _ => s.failUnit x cause finfo

/-- The return from a trap action (R204): to the trapping word or step, or with `skip` to the word after it. -/
def State.trapReturn (s : State) (x : CtxId) (skip : Bool) : State :=
  s.modCtx x (fun c =>
    match c.arch.trapped with
    | none => c
    | some p =>
      let next := match p with
        | .step => Pos.step
        | .word pc first last => if skip then .word (pc + 1) first last else p
      { c with arch := { c.arch with pos := next, trapped := none } })

/-! ### How a word ends (R22, R23, R77) -/

/-- What the body of a word answers: done, a transfer to an index, a state whose position the body has set, a wait, a wait that has
started something (a table walk), a trap. -/
inductive Res where
  | ok (s : State)
  | jump (s : State) (pc : Nat)
  | stay (s : State)
  | wait (w : Wait)
  | block (s : State) (w : Wait)
  | trap (cause : Nat) (finfo : Word)
  deriving DecidableEq, Repr

/-- Continues with the state of a body that is done. -/
def Res.bind (r : Res) (f : State → Res) : Res :=
  match r with
  | .ok s => f s
  | r => r

/-- Moves past the current word. -/
def Arch.advance (a : Arch) : Arch :=
  match a.pos with
  | .word pc first last => { a with pos := .word (pc + 1) first last }
  | .step => a

/-- Moves to an index of the current block. -/
def Arch.goto (a : Arch) (pc : Nat) : Arch :=
  match a.pos with
  | .word _ first last => { a with pos := .word pc first last }
  | .step => a

/-- The Y bit: the context yields for the next clock (R70). -/
def State.yieldBit (s : State) (x : CtxId) (y : Bool) : State :=
  if y then s.modCtx x (fun c => { c with yieldTo := max c.yieldTo (s.clk.toNat + 2) }) else s

/-- Undoes the grant of a context that turns out not to issue; weights set meanwhile stay (R253). (DEDUCED, log 10) -/
def Cell.ungrant (k : Cell) (i : Nat) : Cell :=
  if k.grant = some i then { k with arb := { k.undo with w := k.arb.w }, grant := none } else k

/-- A context that waits: it is found not ready, so the arbiter's grant is undone and its reason kept (R252, R253). (DEDUCED, log 10) -/
def State.hold (s : State) (x : CtxId) (w : Wait) : State :=
  (s.modCtx x (fun c => { c with wait := w })).modCell x.ck (fun k => k.ungrant x.ctx)

/-- A word or step that issues uses the grant up. -/
def State.issued (s : State) (x : CtxId) : State :=
  (s.modCtx x (fun c => { c with wait := .none })).modCell x.ck (fun k => { k with grant := none })

/-- Moves a context past the word it has been waiting at, which ends now; its Y bit still counts (R70). -/
def State.pastWord (s : State) (x : CtxId) : State :=
  let y : Bool := match (s.ctx x).arch.pos with
    | .word pc _ _ => ((s.cell x.ck).action pc).getLsbD 84
    | .step => false
  (s.yieldBit x y).modCtx x (fun c => { c with wait := .none, arch := c.arch.advance })

/-- Ends a word (R77): with its effect and the next word, with a wait, or with a trap that leaves everything as before. -/
def State.finish (s : State) (x : CtxId) (y : Bool) (r : Res) : Host.Outcome State Fault Refusal :=
  match r with
  | .ok t => .next ((t.issued x).yieldBit x y |>.modCtx x (fun c => { c with arch := c.arch.advance }))
  | .jump t pc => .next ((t.issued x).yieldBit x y |>.modCtx x (fun c => { c with arch := c.arch.goto pc }))
  | .stay t => .next ((t.issued x).yieldBit x y)
  | .wait w => .next (s.hold x w)
  | .block t w => .next (t.hold x w)
  | .trap cause finfo => .next ((s.issued x).takeTrap x cause finfo)

/-- The id that a scheduler gives its n-th launch (R215). (DESIGN CHOICE, log 6) -/
def launchId (die n : Nat) : Nat := Config.launchId die n % 2 ^ 32

/-- The value of a guard (R64). -/
def Arch.guard (a : Arch) (g : Guard) : Bool := (a.rp g.pred.toNat) != g.neg

/-- Whether both guards of a word are true (R64). -/
def Arch.guards (a : Arch) (w : Fields) : Bool := a.guard w.g1 && a.guard w.g2

/-- Runs a word of the current context after decoding (R77 steps 3 to 6): false guards pass on to the next word, otherwise the
checks and the effect of `body` follow. (DEDUCED, log 64) -/
def State.word (s : State) (w : Fields) (body : State → Res) : Host.Outcome State Fault Refusal :=
  s.finish s.cur w.y (if (s.ctx s.cur).arch.guards w then body s else .ok s)

end Sys2Proof.Machine
end

