-- ==== Sys2Proof/Machine/Operands.lean ====
section
/-!
DEFINITION. Every operand form: modifiers (R66), immediates (R68), scalar and vector sources (R102, R106 to R109), the checks
of R22 to R25 before a word executes, the mask (R107, R108) and the writing of a vector destination.
-/

namespace Sys2Proof.Machine

/-! ### Values -/

/-- A modifier applied at the width of a type (R66): two's complement for integers, the sign bit for floats. (DEDUCED, log 24) -/
def modBits (ty mod x : Nat) : Nat :=
  let w := tyBits ty
  let y := x % 2 ^ w
  if mod = 0 ∨ w = 0 then y
  else if isInt ty then
    (if mod = 1 then wrap w (-(y : Int)) else if isSigned ty then wrap w ((sgn w y).natAbs : Int) else y)
  else if mod = 1 then y ^^^ 2 ^ (w - 1)
  else y % 2 ^ (w - 1)

/-- The value of an s, c or immediate operand before modifiers, at 64 bits. -/
def Ctx.raw (c : Ctx) (w : Fields) (o : Operand) : Word :=
  if o.cls = 0 then c.arch.rs o.idx.toNat
  else if o.cls = 6 then c.rc o.idx.toNat
  else immOf w o

/-- An immediate at a floating-point type (R68): IMM32 is an f32 pattern, a short immediate its integer value. (DEDUCED, log 77) -/
def immFloat (w : Fields) (ty : Nat) (o : Operand) : Nat :=
  if o.isImm32 then convert 8 ty .rne false w.imm.toNat else convert 3 ty .rne false (immOf w o).toNat

/-- A scalar source at a type, modifier applied (R66, R68, R99, R102, R107). -/
def Ctx.scalar (c : Ctx) (w : Fields) (ty : Nat) (o : Operand) : Nat :=
  if o.cls = 7 ∧ !isInt ty ∧ ty < 14 then modBits ty o.mod.toNat (immFloat w ty o)
  else modBits ty o.mod.toNat (c.raw w o).toNat

/-- A scalar source as the exact integer of an integer type (R99). -/
def Ctx.int (c : Ctx) (w : Fields) (ty : Nat) (o : Operand) : Int := tyVal ty (c.scalar w ty o)

/-- A predicate source after complement (R66, R104). -/
def Ctx.pred (c : Ctx) (o : Operand) : Bool := c.arch.rp o.idx.toNat != (o.mod == 1)

/-- A mask source after complement (R66). -/
def Ctx.mask (c : Ctx) (o : Operand) : Mask :=
  let m := c.arch.rm (o.idx.toNat - 16)
  if o.mod = 1 then ~~~m else m

/-- The payload of a vector source (R107, R109): a v register, the head beat of an inbound port, the current token. -/
def Ctx.vec (c : Ctx) (o : Operand) : Vec :=
  if o.cls = 1 then c.arch.rv o.idx.toNat
  else if o.idx = 0 then c.arch.tok.data
  else (((c.port o.idx.toNat).head?).map (fun b => b.data)).getD 0

/-- A vector source is a v register or a port (R107). -/
def Operand.isVec (o : Operand) : Bool := o.cls == 1 || o.cls == 4

/-- The elements of a source at a type (R106, R107): a scalar source gives the same value to every element. -/
def Ctx.elts (c : Ctx) (w : Fields) (ty : Nat) (o : Operand) : List Nat :=
  let n := nElems ty
  if Operand.isVec o then (elems (tyBits ty) n (c.vec o).toNat).map (modBits ty o.mod.toNat)
  else List.replicate n (c.scalar w ty o)

/-! ### Full and empty (R22 to R25) -/

/-- A register whose result is still in the closing unit: later words wait for it, and nothing traps (R198, R87). -/
def Ctx.settling (c : Ctx) (r : Reg) : Bool := c.prods.any (fun p => p.kind == .settle && p.dst == r)

/-- The register a source or destination field names, for the classes that can be empty. -/
def Operand.reg (o : Operand) : Option Reg :=
  if o.cls = 0 then some (.s o.idx.toNat) else if o.cls = 1 then some (.v o.idx.toNat)
  else if o.cls = 2 then some (.m (o.idx.toNat - 16)) else none

/-- What a source waits for, if it is empty (R22, R24). -/
def Ctx.emptySrc (c : Ctx) (o : Operand) : Option Wait :=
  match Operand.reg o with
  | some r => if c.arch.full r then none else some (.regs [r])
  | none =>
    if o.cls = 4 ∧ 2 ≤ o.idx.toNat then
      let p := c.port o.idx.toNat
      if p.out || p.head?.isSome then none else some (.portIn o.idx.toNat 1)
    else none

/-- %finfo of a trap with cause PORT (R162). -/
def portInfo (kind port : Nat) (rng : Bool) : Word := BitVec.ofNat 64 (kind + port * 2 ^ 4 + b2n rng * 2 ^ 8)

/-- Whether a read of an inbound port can never complete: fewer beats than it needs, no EOF, and every slot of the FIFO holds a
beat consumed by the context's own open round (R240). (DEDUCED, log 65) -/
def Ctx.stuckIn (c : Ctx) (q need : Nat) : Bool :=
  let p := c.port q
  let done := match c.closed with
    | some r => max p.first (r.endPorts.getD q p.first)
    | none => p.first
  p.avail.length < need && !(p.avail.any (fun b => b.sb == 0x1000)) && p.depth ≤ p.shead - done

/-- What a port named as a source traps with when the word executes: q1, an outbound port (R109, R155). -/
def Ctx.srcMisuse (c : Ctx) (o : Operand) : Option Res :=
  if o.cls = 4 then
    if o.idx = 1 then some (.trap 9 (portInfo 4 1 false))
    else if o.idx ≠ 0 ∧ (c.port o.idx.toNat).out then some (.trap 9 (portInfo 5 o.idx.toNat false))
    else none
  else none

/-- The first result of a list of checks. -/
def firstRes : List (Option Res) → Option Res
  | [] => none
  | some r :: _ => some r
  | none :: l => firstRes l

/-- The checks of R22 and R23 for a word: an empty source with B/T traps, an empty source or a pending destination makes it
wait, a port that can never deliver traps, then the port misuses. (DEDUCED, log 65) -/
def Ctx.check (c : Ctx) (srcs dsts : List Operand) : Option Res :=
  let trap := srcs.map (fun o => if o.bt && (c.emptySrc o).isSome then some (Res.trap 2 0) else none)
  let wait := srcs.map (fun o => (c.emptySrc o).map (fun wt =>
    match wt with
    | .portIn q n => if c.stuckIn q n then Res.trap 9 (portInfo 8 q false) else .wait wt
    | wt => .wait wt))
  let regs := (srcs ++ dsts).filterMap Operand.reg
  let dst := (dsts.filterMap Operand.reg).map (fun r => if c.arch.full r then none else some (Res.wait (.regs [r])))
  let settle := regs.map (fun r => if c.settling r then some (Res.wait (.regs [r])) else none)
  firstRes (trap ++ wait ++ dst ++ settle ++ srcs.map c.srcMisuse)

/-- The ports that the sources of a word consume a beat of: each once (R109). -/
def consumed (srcs : List Operand) : List Nat :=
  ((srcs.filter (fun o => o.cls == 4 && 2 ≤ o.idx.toNat)).map (fun o => o.idx.toNat)).dedup

/-- Consumes the head beats of ports (R109). -/
def Ctx.consume (c : Ctx) (srcs : List Operand) : Ctx :=
  (consumed srcs).foldl (fun c q => c.setPort q (c.port q).take) c

/-- Whether a RLMERGE that is queued still has to take beats of a port (R194). -/
def State.merging (s : State) (x : CtxId) (q : Nat) : Bool :=
  (s.cell x.ck).island.cq.any (fun e => e.ctx == x.ctx && (match e.op with
    | .rlmergeQ _ p => p == q
    | _ => false))

/-- Whether the merge at the front of a context's closing operations can never get the beats it needs: every slot of the FIFO holds a beat
that only a commit behind it frees (R240). (DEDUCED, log 25) -/
def State.mergeStuck (s : State) (x : CtxId) (q : Nat) : Bool :=
  let c := s.ctx x
  let p := c.port q
  match (s.cell x.ck).island.cq.find? (fun e => e.ctx == x.ctx) with
  | some e =>
    (match e.op with
      | .rlmergeQ _ r => r == q
      | _ => false)
    && !p.closed && p.avail.isEmpty
    && (if e.serial = c.opn.serial then c.stuckIn q 1 else decide (p.depth ≤ p.shead - p.first))
  | none => false

/-- A word that names a port waits while a merge of an earlier word still takes its beats, or traps when that can never end (R188, R194, R240).
(DEDUCED, log 25) -/
def State.mergeWait (s : State) (q : Nat) : Option Res :=
  if s.mergeStuck s.cur q then some (.trap 9 (portInfo 8 q false))
  else if s.merging s.cur q then some (.wait (.island (s.cell s.cur.ck).island.progress)) else none

/-- Continues with a word that names a port in a field other than a source. -/
def State.afterMerges (s : State) (q : Nat) (k : Res) : Res := (s.mergeWait q).getD k

/-- The same for the sources of a word: an empty one with B/T traps before anything waits (R22). -/
def State.mergeWaits (s : State) (srcs : List Operand) : Option Res :=
  let late (o : Operand) : Bool := o.cls == 4 && s.merging s.cur o.idx.toNat
  if !srcs.any late then none
  else if srcs.any (fun o => !late o && o.bt && ((s.ctx s.cur).emptySrc o).isSome) then some (.trap 2 0)
  else firstRes ((srcs.filter late).map (fun o => s.mergeWait o.idx.toNat))

/-- Runs a body on the current context once the checks of its operands pass. -/
def State.srcs (s : State) (srcs dsts : List Operand) (k : Ctx → Res) : Res :=
  let c := s.ctx s.cur
  match firstRes [s.mergeWaits srcs, c.check srcs dsts] with
  | some r => r
  | none => k c

/-- Row-queue entries of a context that still have to take slots of a ring (R142, R184). -/
def State.queuedOn (s : State) (x : CtxId) (b : Nat) : Nat :=
  ((s.cell x.ck).island.rq.filter (fun e => e.ctx == x.ctx && (match e.op with
    | .row _ _ _ r => r == b
    | .mldb r _ => r == b
    | .mswap => false))).length

/-- Whether the closing unit still has beats of a context to append to a port, or a slot to append to a ring (R188). -/
def State.appending (s : State) (x : CtxId) (port : Bool) (q : Nat) : Bool :=
  (s.cell x.ck).island.cq.any (fun e => e.ctx == x.ctx && (match e.op with
    | .drainQ _ _ _ _ _ d _ _ => port && d == q
    | .rlsend _ d _ _ => port && d == q
    | .drainB _ _ _ _ _ d => !port && d == q
    | _ => false))

/-- A word that names an outbound port waits while appends of earlier words are still in the closing unit (R188). -/
def State.afterAppends (s : State) (q : Nat) (k : Res) : Res :=
  if s.appending s.cur true q then .wait (.island (s.cell s.cur.ck).island.progress) else k

/-- Runs a body on the current context once a ring offers n slots beyond those that queued rows are still to take and the checks of the
other operands pass: a ring that is empty with B/T traps before anything waits, and slots are taken in program order (R22, R24, R141,
R142). -/
def State.srcsRing (s : State) (o : Operand) (n : Ctx → Nat) (srcs dsts : List Operand) (k : Ctx → Res) : Res :=
  let c := s.ctx s.cur
  let b := o.idx.toNat
  let short : Bool := decide ((c.ring b).held < n c + s.queuedOn s.cur b) && n c != 0
  if o.bt && short then .trap 2 0
  else
    match c.check srcs dsts with
    | some r => r
    | none =>
      if short then .wait (.ringIn b (n c))
      else if s.queuedOn s.cur b ≠ 0 then .wait (.island (s.cell s.cur.ck).island.progress)
      else k c

/-- Replaces the current context. -/
def State.put (s : State) (c : Ctx) : State := s.setCtx s.cur c

/-- A word whose only effect is on its context: its ports are consumed and its registers written. -/
def State.alu (s : State) (srcs dsts : List Operand) (f : Ctx → Arch) : Res :=
  s.srcs srcs dsts (fun c => .ok (s.put { c.consume srcs with arch := f c }))

/-! ### Masks and vector destinations (R107, R108) -/

/-- Whether a word has a mask: its bits [127:96] are not IMM32 and E is not zero (R107). -/
def Fields.masked (w : Fields) : Bool := !(w.a.isImm32 || w.b.isImm32 || w.c.isImm32) && !w.e.isZero

/-- The mask operand as a source list. -/
def Fields.maskSrc (w : Fields) : List Operand := if Fields.masked w then [w.e] else []

/-- The governing lane of an element (R106). -/
def govern (ty j : Nat) : Nat := if ty = 13 then j / 2 else j * (tyBits ty / 8)

/-- The active elements of a word at a type (R108). -/
def Ctx.active (c : Ctx) (w : Fields) (ty : Nat) : List Bool :=
  let n := nElems ty
  if Fields.masked w then
    let m := (c.mask w.e).toNat
    tab n (fun j => bit m (govern ty j))
  else List.replicate n true

/-- The elements of a destination after a masked write: inactive elements keep their value (R108). -/
def blend : List Bool → List Nat → List Nat → List Nat
  | a :: as, x :: xs, o :: os => (if a then x else o) :: blend as xs os
  | _, _, os => os

/-- The new value of a v register (R108). -/
def vwrite (ty : Nat) (act : List Bool) (vals : List Nat) (old : Vec) : Vec :=
  BitVec.ofNat 2048 (pack (tyBits ty) (blend act vals (elems (tyBits ty) (nElems ty) old.toNat)))

/-- Writes active elements to the v register D. -/
def Ctx.putV (c : Ctx) (w : Fields) (ty : Nat) (vals : List Nat) : Arch :=
  c.arch.wv w.d.idx.toNat (vwrite ty (c.active w ty) vals (c.arch.rv w.d.idx.toNat))

/-- Writes the governing bits of active elements to the m register D (R108). -/
def Ctx.putM (c : Ctx) (w : Fields) (ty : Nat) (vals : List Bool) : Arch :=
  let step (acc : Nat × Nat) (e : Bool × Bool) : Nat × Nat :=
    let g := govern ty acc.2
    (if e.1 then (if e.2 then acc.1 ||| 2 ^ g else clearBits 256 acc.1 (2 ^ g)) else acc.1, acc.2 + 1)
  let old := (c.arch.rm (w.d.idx.toNat - 16)).toNat
  c.arch.wm (w.d.idx.toNat - 16) (BitVec.ofNat 256 (((c.active w ty).zip vals).foldl step (old, 0)).1)

/-- The saturate modifier of D (R67). -/
def Fields.sat (w : Fields) : Bool := w.d.mod == 1

/-- The rounding mode of FN (R43, R72). -/
def Fields.rnd (w : Fields) : Rnd := Rnd.ofCode (w.fn.toNat % 8)

/-- TY as a number. -/
def Fields.tyn (w : Fields) : Nat := w.ty.toNat

end Sys2Proof.Machine
end

