-- ==== Sys2Proof/Machine/Home.lean ====
section
/-!
DEFINITION. Accesses of a context (R127 to R136, R256, R265, R347): translation caches and walks, L1, read ranges, forwarding,
the store buffer, the performing of load parts and the filling of their destinations, acquires.
-/

namespace Sys2Proof.Machine

/-! ### Translation (R347, R348, R357) -/

/-- The translation cache of a party. -/
def State.tlbOf (s : State) (p : Party) : Tlb :=
  match p with
  | .ctx x => (s.cell x.ck).tlb
  | .engine box _ => (s.boxes.getD box {}).tlb
  | _ => {}

/-- Replaces the translation cache of a party. -/
def State.setTlb (s : State) (p : Party) (t : Tlb) : State :=
  match p with
  | .ctx x => s.modCell x.ck (fun k => { k with tlb := t })
  | .engine box _ => { s with boxes := s.boxes.set box { s.boxes.getD box {} with tlb := t } }
  | _ => s

/-- How many entries a party's cache holds (R348). -/
def Party.ways : Party → Nat
  | .ctx _ => 256
  | _ => 4096

/-- The die whose translation control block a party uses (R346, R173): security block and transport engine use die 0's, or that
of the lowest-numbered die in service. -/
def State.partyDie (s : State) (p : Party) : Nat :=
  match p with
  | .ctx x => x.die
  | .engine box _ =>
    if fld box 15 12 = 2 ∨ fld box 15 12 = 1 then fld box 11 10
    else if s.sys.dies.getD 0 true then 0 else if s.sys.dies.getD 1 true then 1 else if s.sys.dies.getD 2 true then 2 else 3
  | .sampler die _ => die
  | .sched die _ => die

/-- A cached translation that grants an access (R348, R349, R366): none asks for a walk. -/
def State.cached (s : State) (p : Party) (asid va : Nat) (wr hostBar : Bool) : Option Nat :=
  match (s.tlbOf p).find asid va with
  | none => none
  | some e =>
    let pa := e.pa' va
    if (wr && !e.wr) || (hostBar && bit pa 45) || !s.paOk pa then none else some pa

/-- Starts a walk for a context unless one for the same access is under way (R357). -/
def State.startWalk (s : State) (x : CtxId) (asid va : Nat) (wr hostBar : Bool) : State :=
  if s.walks.any (fun w => w.x == x && w.asid == asid && w.va == va && w.wr == wr && w.hostBar == hostBar) then s
  else { s with walks := s.walks ++ [{ x := x, asid := asid, va := va, wr := wr, hostBar := hostBar,
                                       gen := (s.cell x.ck).tlb.gen }] }

/-- Fills a cache with a translation; when it is full, a free choice says which entry goes (R348). -/
def Tlb.fill (t : Tlb) (ways pick : Nat) (e : TlbEnt) : Tlb :=
  let rest := t.ents.filter (fun f => !(f.asid == e.asid && f.va == e.va && f.lg == e.lg))
  { t with ents := e :: (if rest.length < ways then rest else dropIdx rest (pick % ways)) }

/-- The size of the page that a context's access is translated under, as a power of two (R356). -/
def State.pageLg (s : State) (x : CtxId) (asid va : Nat) : Nat := (((s.cell x.ck).tlb.find asid va).map (fun e => e.lg)).getD 0

/-- Whether a party keeps a translation cache (R348): the cells and the stream engines. (DEDUCED, log 11) -/
def Party.caches : Party → Bool
  | .ctx _ => true
  | .engine box _ => fld box 15 12 == 2
  | _ => false

/-- The inbox of a party (R350). -/
def Party.box : Party → Nat
  | .ctx x => x.box
  | .engine box _ => box
  | .sampler die _ => 4 * 2 ^ 12 + die * 2 ^ 10
  | .sched die _ => 3 * 2 ^ 12 + die * 2 ^ 10

/-- Translates for an access at once (R347, R348): through the cache where the party has one, else by a walk, which fills it. The
answer is the physical address, or KIND and LEVEL. (DEDUCED, log 11 and 69) -/
def State.translate (s : State) (p : Party) (asid va : Nat) (wr hostBar : Bool) : State × Except (Nat × Nat) Nat :=
  match s.cached p asid va wr hostBar with
  | some pa => (s, .ok pa)
  | none =>
    match s.walk (s.partyDie p) asid va wr hostBar with
    | (.bad kind level, _) => (s, .error (kind, level))
    | (.leaf pa lg w, leaf) =>
      let s := s.setAccessed leaf
      let e : TlbEnt := { asid := asid, va := va / 2 ^ lg * 2 ^ lg, lg := lg, pa := pa, wr := w }
      let s := if p.caches then
          ({ s with fresh := s.fresh + 1 }).setTlb p ((s.tlbOf p).fill p.ways (Config.freeNat s.fresh) e)
        else s
      (s, .ok (pa + va % 2 ^ lg))

/-- A walk at once, without the cache: the physical address, with the leaf's A bit set (PREF, CFLUSH, CINV: R133, R144). (DEDUCED, log 11) -/
def State.walkNow (s : State) (die asid va : Nat) (wr : Bool) : State × Option Nat :=
  match s.walk die asid va wr false with
  | (.leaf pa lg _, leaf) => (s.setAccessed leaf, some (pa + va % 2 ^ lg))
  | (.bad _ _, _) => (s, none)

/-! ### L1 (R256) -/

/-- The sector of L1 that holds a physical address. -/
def Cell.sector (k : Cell) (pa : Nat) : Option Sector := k.l1.find? (fun e => e.pa == pa / 128)

/-- Drops the line of 1,024 bytes that holds a physical address. -/
def Cell.dropLine (k : Cell) (pa : Nat) : Cell := { k with l1 := k.l1.filter (fun e => e.pa / 8 != pa / 1024) }

/-- How many lines the cache tiles hold (R256): 4 to 16 tiles of 128 KiB, as the role map counts them (R330). -/
def Cell.l1Lines (k : Cell) : Nat := 128 * min 16 (max 4 (fld (k.word 4 0).toNat 14 10))

/-- The lines that go first when one must (R69): those marked by NT, else those that CH = 1 does not keep, else any. (DESIGN CHOICE, log 86) -/
def victims (l : List Sector) : List Nat :=
  let lines (p : Sector → Bool) : List Nat := ((l.filter p).map (fun e => e.pa / 8)).dedup
  if l.any (fun e => bit e.hint 2) then lines (fun e => bit e.hint 2)
  else if l.any (fun e => e.hint != 1) then lines (fun e => e.hint != 1) else lines (fun _ => true)

/-- Makes room for a line in a full L1: a free choice among those that may go (R69, R256). (DESIGN CHOICE, log 86) -/
def State.makeRoom (s : State) (ck pa : Nat) : State :=
  let k := s.cell ck
  if k.l1.any (fun e => e.pa / 8 == pa / 1024) ∨ ((k.l1.map (fun e => e.pa / 8)).dedup).length < k.l1Lines then s
  else
    let v := victims k.l1
    ({ s with fresh := s.fresh + 1 }).modCell ck (fun k => k.dropLine (1024 * v.getD (Config.freeNat s.fresh % max 1 v.length) 0))

/-- Fills a sector from its home under a hint (R69, R256). (DESIGN CHOICE, log 86) -/
def State.fillSector (s : State) (ck pa hint : Nat) : State :=
  let a := pa / 128 * 128
  let d := BitVec.ofNat 1024 (memNum s.mem (hbmKey a) 128)
  (s.makeRoom ck pa).modCell ck (fun k =>
    { k.dropSector pa with l1 := { pa := pa / 128, data := d, hint := hint } :: (k.dropSector pa).l1 })

/-- Reads bytes of one sector through L1: a sector held may answer, or may have been evicted before, a free choice (R256, R69);
a miss fills it. (DESIGN CHOICE, log 86) -/
def State.l1Read (s : State) (ck pa n hint : Nat) : State × List Byte :=
  match (s.cell ck).sector pa with
  | some e =>
    if Config.freeBit s.fresh then
      ({ s with fresh := s.fresh + 1 }, toBytes n (e.data.toNat >>> (8 * (pa % 128))))
    else (({ s with fresh := s.fresh + 1 }).fillSector ck pa hint, s.peek (hbmKey pa) n)
  | none => (s.fillSector ck pa hint, s.peek (hbmKey pa) n)

/-- Invalidates every L1 sector of a cell that a context did not write since its fill (R136). -/
def State.l1Acquire (s : State) (x : CtxId) : State :=
  s.modCell x.ck (fun k => { k with l1 := k.l1.filter (fun e => e.own.contains x.ctx) })

/-- Applies a cell's own committed bytes to a sector it holds (R256): it never allocates one. -/
def State.l1Update (s : State) (x : CtxId) (pa : Nat) (bs : List Byte) : State :=
  s.modCell x.ck (fun k => { k with l1 := k.l1.map (fun e =>
    if e.pa = pa / 128 then
      { e with data := BitVec.ofNat 1024 (putFld e.data.toNat (8 * (pa % 128)) (8 * bs.length) (ofBytes bs))
               own := if e.own.contains x.ctx then e.own else x.ctx :: e.own }
    else e) })

/-- An acquire at a scope (R136): at `.pg` or wider it invalidates L1. -/
def State.acquire (s : State) (x : CtxId) (scope : Nat) : State := if 2 ≤ scope then s.l1Acquire x else s

/-! ### Read ranges (R265) -/

/-- Extends the range of an index. -/
def growRange (l : List Range) (i lo hi : Nat) : List Range :=
  modIdx (fun r => { r with lo := min r.lo lo, hi := max r.hi hi }) l i

/-- How much a range grows to cover a span. -/
def Range.growth (r : Range) (lo hi : Nat) : Nat := (max r.hi hi - min r.lo lo) - (r.hi - r.lo)

/-- The index of the range of a space and base that grows least, the lowest on a tie. -/
def leastGrowth (l : List Range) (sp : Space) (base lo hi : Nat) : Option Nat :=
  ((l.zip (List.range l.length)).foldl (fun acc (e : Range × Nat) =>
    if e.1.sp = sp ∧ e.1.base = base then
      match acc with
      | none => some (e.2, e.1.growth lo hi)
      | some (j, g) => if e.1.growth lo hi < g then some (e.2, e.1.growth lo hi) else some (j, g)
    else acc) none).map (fun e => e.1)

/-- Joins the span of one access to the read ranges of a round (R265): bytes a to a + n − 1, rounded out to sectors. -/
def Round.read (r : Round) (sp : Space) (base a n : Nat) : Round :=
  let lo := a / 128 * 128
  let hi := (a + n - 1) / 128 * 128 + 127
  match firstIdx (fun (e : Range) => e.sp == sp && e.base == base && decide (e.lo ≤ hi + 1) && decide (lo ≤ e.hi + 1)) r.ranges 0 with
  | some i => { r with ranges := growRange r.ranges i lo hi }
  | none =>
    if r.ranges.length < 8 then { r with ranges := r.ranges ++ [{ sp := sp, base := base, lo := lo, hi := hi }] }
    else
      match leastGrowth r.ranges sp base lo hi with
      | some i => { r with ranges := growRange r.ranges i lo hi }
      | none => { r with readAll := true }

/-- Whether a space's loads are recorded and its stores buffered (R30, R265). -/
def Space.buffered : Space → Bool
  | .g => true
  | .n => true
  | .d => true
  | _ => false

/-! ### The store buffer (R134, R135) -/

/-- The buffered byte of a space at an address in a round. -/
def Round.byte (r : Round) (sp : Space) (base a : Nat) : Option Byte :=
  match r.ents.find? (fun e => e.sp == sp && e.base == base && e.blk == a / 64) with
  | none => none
  | some e => if e.en.getLsbD (a % 64) then some (byteOf e.data.toNat (a % 64)) else none

/-- The latest buffered byte of a context: in the open round, else in the closed round awaiting commit (R135). -/
def Ctx.forward (c : Ctx) (sp : Space) (base a : Nat) : Option Byte :=
  match c.opn.byte sp base a with
  | some b => some b
  | none => c.closed.bind (fun r => r.byte sp base a)

/-- Puts one byte into the entries of a round: the entry of its block is shared, and later bytes win (R134). -/
def putEntry : List Entry → Space → Nat → Nat → Byte → List Entry
  | [], sp, base, a, b =>
    [{ sp := sp, base := base, blk := a / 64, data := BitVec.ofNat 512 (b.toNat * 2 ^ (8 * (a % 64))),
       en := BitVec.ofNat 64 (2 ^ (a % 64)) }]
  | e :: r, sp, base, a, b =>
    if e.sp = sp ∧ e.base = base ∧ e.blk = a / 64 then
      { e with data := BitVec.ofNat 512 (putFld e.data.toNat (8 * (a % 64)) 8 b.toNat),
               en := e.en ||| BitVec.ofNat 64 (2 ^ (a % 64)) } :: r
    else e :: putEntry r sp base a b

/-- A store buffered as bytes at addresses (R134). -/
def Round.store (r : Round) (l : List (Space × Nat × Nat × Byte)) : Round :=
  { r with ents := l.foldl (fun es b => putEntry es b.1 b.2.1 b.2.2.1 b.2.2.2) r.ents }

/-- The entries a round holds: stores and messages (R134). -/
def Round.used (r : Round) : Nat := r.ents.length + r.msgs.length

/-- %finfo of a full store buffer (R134, R143). -/
def bufferFull : Res := .trap 8 5

/-- Buffers a message in the open round, one entry (R134); a full buffer traps with cause RING, KIND 5. -/
def State.buffer (s : State) (b : Buffered) : Res :=
  if 1024 ≤ (s.ctx s.cur).opn.used then bufferFull
  else .ok (s.modCtx s.cur (fun c => { c with opn := { c.opn with msgs := c.opn.msgs ++ [b] } }))

/-- Whether a round has buffered a store to some byte of an access (R135). -/
def Round.overlaps (r : Round) (sp : Space) (base a n : Nat) : Bool :=
  (List.range n).any (fun i => (r.byte sp base (a + i)).isSome)

/-! ### Performing load parts (R129, R132) -/

/-- Combines the bytes read with those forwarded. -/
def mergeFwd : List (Option Byte) → List Byte → List Byte
  | some f :: fs, _ :: bs => f :: mergeFwd fs bs
  | none :: fs, b :: bs => b :: mergeFwd fs bs
  | _, bs => bs

/-- The bytes of one part, read at its home or through L1, with the forwarded bytes in place (R135, R256); the bytes of a part whose round has
committed are those it had then (R269). -/
def State.readPiece (s : State) (x : CtxId) (p : Piece) : State × List Byte :=
  if p.early.isSome then (s, p.early.getD [])
  else if p.fwd.all (fun f => f.isSome) then (s, mergeFwd p.fwd (List.replicate p.len 0))
  else if p.l1 then
    let r := s.l1Read x.ck p.home p.len p.hint
    (r.1, mergeFwd p.fwd r.2)
  else (s, mergeFwd p.fwd (s.peek p.home p.len))

/-- Bytes with their offsets in the destination. -/
def offBytes : Nat → List Byte → List (Nat × Byte)
  | _, [] => []
  | o, b :: r => (o, b) :: offBytes (o + 1) r

/-- Changes the producer with a number. -/
def Ctx.modProd (c : Ctx) (id : Nat) (f : Prod → Prod) : Ctx :=
  { c with prods := c.prods.map (fun p => if p.id == id then f p else p) }

/-- Fills the destination of a producer (R21, R247): in the registers, and in every snapshot taken after it was issued, where the
register is still bound to it. -/
def Ctx.deliver (c : Ctx) (p : Prod) (f : Nat → Nat) : Ctx :=
  let c := { c with prods := c.prods.filter (fun q => q.id != p.id), arch := c.arch.fill p.dst f }
  let later (r : Round) : Round :=
    if p.serial < r.serial then { r with snap := { r.snap with arch := r.snap.arch.fill p.dst f } } else r
  { c with opn := later c.opn, closed := c.closed.map later }

/-- The value that loaded bytes give a destination (R131): a scalar is extended by its type, a vector takes them in place. -/
def loadValue (ty : Nat) (vec : Bool) (got : List (Nat × Byte)) (old : Nat) : Nat :=
  if vec then got.foldl (fun v e => putFld v (8 * e.1) 8 e.2.toNat) old
  else (extTy ty (got.foldl (fun v e => putFld v (8 * e.1) 8 e.2.toNat) 0)).toNat

/-- A sector that was filled under CH = 3 has had its one use; once every such sector of its line has, the line goes (R69). (DESIGN CHOICE, log 86) -/
def Cell.streamRead (k : Cell) (pa : Nat) : Cell :=
  let strm (e : Sector) : Bool := e.pa / 8 == pa / 1024 && e.hint % 4 == 3
  let l := k.l1.map (fun e => if e.pa == pa / 128 && strm e then { e with hint := e.hint % 8 + 8 } else e)
  if l.any strm && l.all (fun e => !strm e || decide (8 ≤ e.hint)) then { k with l1 := l }.dropLine pa else { k with l1 := l }

/-- A part of a load has been read through L1: its sector's use is over once no later part of the load lies in it (R69). (DESIGN CHOICE, log 86) -/
def State.streamed (s : State) (x : CtxId) (p : Piece) (todo : List Piece) : State :=
  if p.l1 ∧ todo.all (fun q => !q.l1 || q.home / 128 != p.home / 128) then s.modCell x.ck (fun k => k.streamRead p.home) else s

/-- Performs the first part still to be performed of a load (R129: ascending order). -/
def State.performNext (s : State) (x : CtxId) (p : Prod) : State :=
  match p.kind with
  | .load ty vec (q :: todo) got =>
    let r := s.readPiece x q
    (r.1.streamed x q todo).modCtx x (fun c => c.modProd p.id (fun p => { p with kind := .load ty vec todo (got ++ offBytes q.off r.2) }))
  | _ => s

/-- Performs parts of a load up to and including the first n. -/
def State.performN : Nat → State → CtxId → Nat → State
  | 0, s, _, _ => s
  | n + 1, s, x, id =>
    match (s.ctx x).prods.find? (fun p => p.id == id) with
    | none => s
    | some p => State.performN n (s.performNext x p) x id

/-- Whether a part reads a byte of some of these spans of homes. -/
def Piece.touches (p : Piece) (l : List (Nat × Nat)) : Bool := l.any (fun r => p.home < r.1 + r.2 && r.1 < p.home + p.len)

/-- How many of a load's parts must be performed so that none of those touching some spans is left. -/
def piecesTo (l : List (Nat × Nat)) : List Piece → Nat → Nat → Nat
  | [], _, need => need
  | p :: r, i, need => piecesTo l r (i + 1) (if p.touches l then i + 1 else need)

/-- The parts that come before an access to a span of homes, with those that come before them: for each pending load in program order
how many, and the spans they read (R135, R269). -/
def partsBefore (home n : Nat) : List Prod → List (Nat × Nat) × List (Nat × Nat)
  | [] => ([], [(home, n)])
  | p :: r =>
    let l := partsBefore home n r
    match p.kind with
    | .load _ _ todo _ =>
      let k := piecesTo l.2 todo 0 0
      ((p.id, k) :: l.1, (todo.take k).map (fun q => (q.home, q.len)) ++ l.2)
    | _ => l

/-- Performs every pending load part of a context that touches bytes about to be written, so that its own accesses to the same
bytes keep program order (R135, R269). -/
def State.settleLoads (s : State) (x : CtxId) (home n : Nat) : State :=
  (partsBefore home n (s.ctx x).prods).1.foldl (fun s e => s.performN e.2 x e.1) s

/-- A direct write of a context at a home (R32): earlier overlapping loads are performed first, and bits that only the device writes stay (R7). (DEDUCED, log 85) -/
def State.ctxPoke (s : State) (x : CtxId) (home : Nat) (bs : List Byte) : State :=
  (s.settleLoads x home bs.length).write home bs

/-- Issues a store to `.s` or `.l` of a context with its parts (R32). -/
def Ctx.issueStore (c : Ctx) (id : Nat) (todo : List (List (Nat × Byte))) : Ctx :=
  if todo.isEmpty then c else { c with prods := c.prods ++ [{ id := id, serial := c.opn.serial, kind := .store todo }] }

/-- Performs the next part of such a store: earlier loads of its bytes come first (R129, R135). -/
def State.performStore (s : State) (x : CtxId) (p : Prod) : State :=
  match p.kind with
  | .store (l :: todo) =>
    let lo := (l.head?.map (fun b => b.1)).getD 0
    let hi := (l.getLast?.map (fun b => b.1)).getD 0
    ((s.settleLoads x lo (hi + 1 - lo)).writeAll l).modCtx x (fun c =>
      if todo.isEmpty then { c with prods := c.prods.filter (fun q => q.id != p.id) }
      else c.modProd p.id (fun p => { p with kind := .store todo }))
  | _ => s

/-- Whether a producer is a memory access that a fence or an acquire waits for (R148). -/
def Prod.access (p : Prod) : Bool :=
  match p.kind with
  | .load .. => true
  | .lanes _ => true
  | .store _ => true
  | .atomic .. => true
  | .hostAtomic .. => true
  | .waitw .. => true
  | .cstat .. => true
  | _ => false

/-- What a memory access of a context waits for before it may issue (R136, R147, R148): pending acquires always, and every
earlier access when it is a release. -/
def Ctx.orderWait (c : Ctx) (release : Bool) : Option Res :=
  let l := c.prods.filter (fun p => p.access && (release || p.acq.isSome))
  if l.isEmpty then none else some (.wait (.pending (l.map (fun p => p.id))))

/-- What a direct store with a release, or a FENCE that orders earlier stores, waits for besides: the commit of a closed round that holds
stores (R136, R148). -/
def Ctx.releaseWait (c : Ctx) (release : Bool) : Option Res :=
  if release && (c.closed.map (fun r => !r.ents.isEmpty)).getD false then some (.wait .buffer) else none

/-- Whether a WAITW or an atomic of a round is still to be performed: the round's stores become visible after it (R136, R166, R268, R392).
(DEDUCED, log 68) -/
def Ctx.unperformed (c : Ctx) (serial : Nat) : Bool :=
  c.prods.any (fun p => p.serial == serial && (match p.kind with
    | .waitw .. => true
    | .atomic .. => true
    | .hostAtomic .. => true
    | _ => false))

/-- Whether a pending atomic, WAITW, CSTAT or direct store has a byte of a span. -/
def Prod.holds (p : Prod) (home n : Nat) : Bool :=
  match p.kind with
  | .atomic _ ty h _ _ _ _ => decide (h < home + n ∧ home < h + tyBits ty / 8)
  | .hostAtomic h k _ _ => decide (h < home + n ∧ home < h + k)
  | .waitw h _ _ => decide (h < home + n ∧ home < h + 4)
  | .cstat h _ _ => decide (h < home + n ∧ home < h + 32)
  | .store todo => todo.any (fun l => l.any (fun b => decide (home ≤ b.1 ∧ b.1 < home + n)))
  | _ => false

/-- A pending atomic, WAITW, CSTAT or direct store whose bytes an access touches: the access waits for it (R135, R147). (DEDUCED, log 71) -/
def Ctx.atomicWait (c : Ctx) (home n : Nat) : Option Res :=
  (c.prods.find? (fun p => p.holds home n)).map (fun p => .wait (.pending [p.id]))

/-- A pending load that is still to read bytes of a span: an access that is performed as it issues waits for it (R135, R392). (DEDUCED, log 71) -/
def Ctx.loadWait (c : Ctx) (home n : Nat) : Option Res :=
  (c.prods.find? (fun p => match p.kind with
    | .load _ _ todo _ => todo.any (fun q => q.touches [(home, n)])
    | _ => false)).map (fun p => .wait (.pending [p.id]))

/-- Whether an earlier pending lane access still has to read a byte of a later one: the earlier one comes first (R135). (DEDUCED, log 71) -/
def Prod.lanesAlso (p : Prod) (l : List (Nat × Nat)) : Bool :=
  match p.kind with
  | .lanes k => k.any (fun e => l.any (fun f => f.2 == e.2))
  | _ => false

/-- What a lane access of some homes waits for: a store there that is still to be performed, and, when it stores itself, a load there (R135). -/
def Ctx.laneWait (c : Ctx) (hs : List Nat) (store : Bool) : Option Res :=
  (c.prods.find? (fun p => match p.kind with
    | .store todo => todo.any (fun l => l.any (fun b => hs.contains b.1))
    | .lanes l => store && l.any (fun e => hs.contains e.2)
    | _ => false)).map (fun p => .wait (.pending [p.id]))

/-- Direct stores of the context that are still to be performed: a word waits for them whose operation reads or fills scratch later, in the
matrix island (R135, R142). (DEDUCED, log 71) -/
def Ctx.storeWait (c : Ctx) : Option Res :=
  let l := c.prods.filter Prod.stores
  if l.isEmpty then none else some (.wait (.pending (l.map (fun p => p.id))))

/-- %finfo of a trap with cause PERM (R128). -/
def permInfo (a kind part : Nat) : Word := BitVec.ofNat 64 (a % 2 ^ 49 + kind * 2 ^ 56 + min part 15 * 2 ^ 60)

/-- The scope and flags of FN's order form (R72). -/
def Fields.scope (w : Fields) : Nat := w.fn.toNat % 8
def Fields.acq (w : Fields) : Bool := w.fn.getLsbD 3
def Fields.rel (w : Fields) : Bool := w.fn.getLsbD 4

/-- The space of SPC (R30). -/
def Fields.space (w : Fields) : Space := Space.ofCode w.spc.toNat

/-- The address a + b (R128). -/
def Ctx.addr (c : Ctx) (w : Fields) : Nat := (c.raw w w.a + c.raw w w.b).toNat

/-- The home of one part of an access of the current context: for `.g` through the cell's translation cache, none when a walk is
needed (R146, R347). -/
def State.partHome (s : State) (sp : Space) (a : Nat) (wr hostBar : Bool) : Option Nat :=
  match sp with
  | .g => (s.cached (.ctx s.cur) (s.ctx s.cur).arch.asid.toNat a wr hostBar).map paKey
  | sp => some (homeOf sp (s.spaceBase s.cur sp a) a)

/-- The scratch spans that queued island operations of a context are still to read: the scales of an MSCA, the slots present for
queued rows (R142, R185). -/
def State.islandReads (s : State) (x : CtxId) : List (Nat × Nat) :=
  let i := (s.cell x.ck).island
  let c := s.ctx x
  (i.cq.flatMap (fun e => if e.ctx = x.ctx then (match e.op with
      | .msca _ sa sb _ => [(sa, 128), (sb, 1024)]
      | _ => []) else []))
    ++ (i.rq.filterMap (fun e => if e.ctx = x.ctx then (match e.op with
      | .row _ _ _ b => some b
      | .mldb b _ => some b
      | .mswap => none) else none)).dedup.flatMap (fun b =>
        tab (c.ring b).held (fun k => ((c.ring b).slot ((c.ring b).shead + BitVec.ofNat 16 k), (c.ring b).size)))

/-- A `.s` store that overlaps bytes an earlier island operation of its context is still to read waits for it (R142, R185). -/
def State.scaleWait (s : State) (a n : Nat) : Option Res :=
  if (s.islandReads s.cur).any (fun r => r.1 < a + n && a < r.1 + r.2) then
    some (.wait (.island (s.cell s.cur.ck).island.progress)) else none

/-- The same of an access by its home. (DEDUCED, log 71) -/
def State.scaleWaitAt (s : State) (h n : Nat) : Option Res :=
  let lo := tileKey s.cur.ck 0
  if lo ≤ h ∧ h < lo + 2 ^ 22 then s.scaleWait (h - lo) n else none

/-- The physical blocks of control registers that only a privileged context may store to (R346, R369, R381). (DEDUCED, log 66) -/
def guarded (die off : Nat) : Bool :=
  (0xFFF800 ≤ off && off < 0x1000000) || (die == 0 && 0xFFF000 ≤ off && off < 0xFFF800)
    || (0xFFE800 ≤ off && off < 0xFFF000)

end Sys2Proof.Machine
end

