-- ==== Sys2Proof/Machine/Control.lean ====
section
/-!
DEFINITION. The steering port as the sequencer, PEEK and SRD see it (R82, R91, R240, R250), the grammar header (R80), and class 0x0:
the action-control instructions (R88 to R98).
-/

namespace Sys2Proof.Machine

/-! ### The steering port -/

/-- The class of a sideband (R28). -/
def beatClass (sb : BitVec 16) : Nat := fld sb.toNat 11 9 + 8 * fld sb.toNat 12 12

/-- MK of a sideband (R26). -/
def beatMark (sb : BitVec 16) : Nat := fld sb.toNat 11 9

/-- VC of a sideband (R26). -/
def beatCount (sb : BitVec 16) : Nat := fld sb.toNat 8 0

/-- A buffered transfer of the steering stream. -/
def Buffered.isHandoff : Buffered → Bool
  | .handoff _ _ => true
  | _ => false

/-- Whether a HANDOFF stands in a round (R250). -/
def Round.hands (r : Round) : Bool := r.msgs.any Buffered.isHandoff

/-- Whether a HANDOFF of the context waits for its commit (R250). -/
def Ctx.handing (c : Ctx) : Bool := c.opn.hands || (c.closed.map Round.hands).getD false

/-- The beats q0 offers beyond the current token: EOF alone once the stream was handed on (R96). -/
def Ctx.steer (c : Ctx) : List Beat := if c.handed.isSome then [eofBeat] else (c.port 0).avail

/-- The n-th beat beyond the current token (n from 1), EOF when the stream ends before it or has ended (R35, R91). -/
def Ctx.look (c : Ctx) (n : Nat) : Option Beat :=
  if (c.steer.take n).any (fun b => b.sb == 0x1000) || c.arch.tok.sb == 0x1000 then some eofBeat else c.steer[n - 1]?

/-- What a step, PEEK or SRD that needs the n-th beat does while it is not there (R240, R250). -/
def Ctx.lookWait (c : Ctx) (n : Nat) : Option Res :=
  if c.handing then some (.wait .hand)
  else if (c.look n).isSome then none
  else if c.stuckIn 0 n then some (.trap 9 (portInfo 8 0 false))
  else some (.wait (.portIn 0 n))

/-! ### The grammar store (R80) -/

/-- A byte of the grammar store. (DESIGN CHOICE, log 87) -/
def Cell.gbyte (k : Cell) (o : Nat) : Nat := fld (k.word 1 (o % 65536 / 8)).toNat (8 * (o % 8) + 7) (8 * (o % 8))

/-- A 16-bit entry of the grammar store. -/
def Cell.gword (k : Cell) (o : Nat) : Nat := k.gbyte o + 2 ^ 8 * k.gbyte (o + 1)

/-- The grammar header of a base. -/
structure Gram where
  base : Nat := 0
  start : Nat := 0
  nnt : Nat := 0
  nprod : Nat := 0
  npk : Nat := 0
  opt : Nat := 0
  opk : Nat := 0
  odir : Nat := 0
  orec : Nat := 0
  deriving DecidableEq, Repr, Inhabited

/-- Reads the header at a base (R80). -/
def Cell.gram (k : Cell) (base : Nat) : Gram :=
  let h (i : Nat) : Nat := k.gword (base + 2 * i)
  { base := base, start := h 0, nnt := h 1, nprod := h 2, npk := h 3, opt := h 4, opk := h 5, odir := h 6, orec := h 7 }

/-- The grammar of a context. -/
def State.gramOf (s : State) (x : CtxId) : Gram := (s.cell x.ck).gram (s.ctx x).info.gbase

/-! ### Class 0x0 -/

def execIll (w : Fields) (s : State) : Host.Outcome State Fault Refusal := s.finish s.cur w.y (.trap 1 1)

def execNop (w : Fields) (s : State) : Host.Outcome State Fault Refusal := s.word w (fun s => .ok s)

/-- The end of an action block (R89, R92, R204): the sequencer resumes, with a pending nonterminal as current symbol; the end of
a trap action fails the unit. -/
def State.enda (s : State) : State :=
  let c := s.ctx s.cur
  match c.arch.trapped with
  | some _ => s.failUnit s.cur c.cause.toNat c.finfo
  | none => s.modCtx s.cur (fun c => { c with arch := { c.arch with pos := .step, sym := c.arch.pushn, pushn := none } })

def execEnda (w : Fields) (s : State) : Host.Outcome State Fault Refusal := s.finish s.cur w.y (.stay s.enda)

/-- Whether a forward target leaves the block (R86). (DEDUCED, log 64) -/
def Arch.leaves (a : Arch) (d : Nat) : Bool :=
  match a.pos with
  | .word pc _ last => last < pc + d
  | .step => false

/-- The word at a distance from the current one. -/
def State.forward (s : State) (d : Nat) : Res :=
  match (s.ctx s.cur).arch.pos with
  | .word pc _ _ => .jump s (pc + d)
  | .step => .ok s

/-- (DEDUCED, log 64) -/
def execBrf (w : Fields) (s : State) : Host.Outcome State Fault Refusal :=
  let d := (immOf w w.a).toNat
  if (s.ctx s.cur).arch.leaves d then s.finish s.cur w.y (.trap 1 8) else s.word w (fun s => s.forward d)

/-- (DEDUCED, log 64) -/
def execSkipt (w : Fields) (s : State) : Host.Outcome State Fault Refusal :=
  let n := (immOf w w.a).toNat
  if (s.ctx s.cur).arch.leaves (n + 1) then s.finish s.cur w.y (.trap 1 8)
  else s.word w (fun s => s.srcs [w.b] [] (fun c =>
    if bit (c.raw w w.b).toNat (beatClass c.arch.tok.sb) then s.forward (n + 1) else .ok s))

def execPeek (w : Fields) (s : State) : Host.Outcome State Fault Refusal :=
  s.word w (fun s => s.srcs [] [w.d] (fun c =>
    let n := (immOf w w.a).toNat
    match c.lookWait n with
    | some r => r
    | none =>
      let b := (c.look n).getD eofBeat
      .ok (s.put { c with arch := c.arch.ws w.d.idx.toNat (BitVec.ofNat 64 (b.sb.toNat + beatClass b.sb * 2 ^ 16)) })))

/-- (DESIGN CHOICE, log 78) -/
def execPushn (w : Fields) (s : State) : Host.Outcome State Fault Refusal :=
  s.word w (fun s => s.srcs [w.a] [] (fun c =>
    let n := (c.raw w w.a).toNat
    if (s.gramOf s.cur).nnt ≤ n then .trap 1 (3 + 39 * 2 ^ 8)
    else if c.arch.pushn.isSome then .trap 4 (BitVec.ofNat 64 n)
    else .ok (s.put { c with arch := { c.arch with pushn := some n } })))

/-- %finfo of a trap with cause TSORDER (R95). -/
def tsInfo (ts : BitVec 32) (late wrap low : Bool) : Word :=
  BitVec.ofNat 64 (ts.toNat + b2n late * 2 ^ 32 + b2n wrap * 2 ^ 33 + b2n low * 2 ^ 34)

/-- The close of a round that a further round follows: it waits for the other buffer, and a timestamp
that would wrap traps (R84, R93, R95). A unit with a cancel stops here instead (R322). `f` changes the context before the new round's snapshot is taken. -/
def State.closing (s : State) (f : Ctx → Ctx) : Res :=
  let c := s.ctx s.cur
  if c.cancel then .stay (s.stopUnit s.cur .cancelled)
  else if c.closed.isSome then .wait .buffer
  else if c.opn.ts = 0xFFFFFFFF then .trap 5 (tsInfo c.opn.ts false true false)
  else .stay ((s.modCtx s.cur f).closeRound s.cur false)

def execCommit (w : Fields) (s : State) : Host.Outcome State Fault Refusal :=
  s.word w (fun s => s.closing (fun c => { c with arch := c.arch.advance }))

def execAbort (w : Fields) (s : State) : Host.Outcome State Fault Refusal :=
  s.word w (fun s => .stay (s.voidRounds s.cur false))

def execTsset (w : Fields) (s : State) : Host.Outcome State Fault Refusal :=
  s.word w (fun s => s.srcs [w.a] [] (fun c =>
    let t := (c.raw w w.a).setWidth 32
    let late := c.opn.used != 0
    let low := t.toNat < c.opn.ts.toNat || (match c.opn.prev with
      | some p => t.toNat ≤ p.toNat
      | none => t.toNat < c.info.ts0.toNat)
    if late || low then .trap 5 (tsInfo t late false low)
    else .ok (s.put { c with opn := { c.opn with ts := t } })))

/-- Whether a context is a unit of the same launch on the same page that takes its stream by HANDOFF (R96, R251). -/
def State.receives (s : State) (u : UnitInfo) (y : CtxId) : Bool :=
  let d := s.ctx y
  d.life == .live && d.info.hrecv && d.info.sdie == u.sdie && d.info.lkey == u.lkey && d.info.page == u.page

/-- (DESIGN CHOICE, log 79) -/
def execHandoff (w : Fields) (s : State) : Host.Outcome State Fault Refusal :=
  s.word w (fun s => s.srcs [w.a] [] (fun c =>
    let t := (c.raw w w.a).toNat
    let cell := fld t 5 2
    if beatMark c.arch.tok.sb ≠ 7 then .trap 9 1
    else if 64 ≤ t ∨ s.receives c.info (ctxAt (s.pageCell s.cur.ck cell) (t % 4)) = false then .trap 9 2
    else if c.opn.hands then .trap 9 3
    else s.buffer (.handoff cell (t % 4))))

def execTrap (w : Fields) (s : State) : Host.Outcome State Fault Refusal :=
  s.word w (fun s => s.srcs [w.a] [] (fun c => .trap 0x0F (c.raw w w.a)))

def execYield (w : Fields) (s : State) : Host.Outcome State Fault Refusal :=
  s.word w (fun s => s.srcs [w.a] [] (fun c =>
    .ok (s.put { c with yieldTo := s.clk.toNat + 1 + max 1 (min (c.raw w w.a).toNat 4095) })))

end Sys2Proof.Machine
end

