-- ==== Sys2Proof/Machine/Memory.lean ====
section
/-!
DEFINITION. Class 0x6: loads, stores, strided, gather, scatter and PREF (R127 to R133). A load issues its parts as a producer; a
store is buffered or performed.
-/

namespace Sys2Proof.Machine

/-- One part of an access: address, length, place in the register, PART (R128, R129). -/
structure Acc where
  va : Nat := 0
  len : Nat := 0
  off : Nat := 0
  part : Nat := 0
  deriving DecidableEq, Repr, Inhabited

/-- Parts numbered from a count. -/
def numberParts (off : Nat) (e : Option Nat) : List (Nat × Nat × Nat) → Nat → List Acc
  | [], _ => []
  | p :: r, i => { va := p.1 % 2 ^ 64, len := p.2.1, off := off + p.2.2, part := e.getD i } :: numberParts off e r (i + 1)

/-- The parts of n bytes at an address, which go to bytes `off` on of a register; an element names itself as PART. -/
def accParts (a n off : Nat) (e : Option Nat) : List Acc := numberParts off e (parts (a % 2 ^ 64) n) 0

/-- The type whose bytes a memory word moves (R131). -/
def memTy (ty : Nat) : Nat := if 13 ≤ ty then 4 else ty

/-- The bytes of one element (R131). -/
def memBytes (ty : Nat) : Nat := tyBits (memTy ty) / 8

/-- The active bytes of a vector access (R132). -/
def Ctx.activeBytes (c : Ctx) (w : Fields) : List Bool :=
  (c.active w (memTy w.ty.toNat)).flatMap (fun a => List.replicate (memBytes w.ty.toNat) a)

/-- Whether a part holds an active byte (R132). -/
def Acc.live (act : List Bool) (a : Acc) : Bool := ((act.drop a.off).take a.len).any id

/-- The first part whose address breaks its form (R128). (DEDUCED, log 14) -/
def State.formTrap (s : State) (sp : Space) (l : List Acc) : Option Res :=
  l.findSome? (fun a => (s.formBad s.cur sp a.va).map (fun k => .trap 7 (permInfo a.va k a.part)))

/-- Continues with the homes of the parts of an access: a bad form traps, a missing translation starts a walk, and nothing is
performed (R128, R347). (DEDUCED, log 14) -/
def State.reach (s : State) (sp : Space) (l : List Acc) (wr : Bool) (k : List (Acc × Nat) → Res) : Res :=
  match s.formTrap sp l with
  | some r => r
  | none =>
    match l.find? (fun a => (s.partHome sp a.va wr false).isNone) with
    | some a => .block (s.startWalk s.cur (s.ctx s.cur).arch.asid.toNat a.va wr false) .walk
    | none => k (l.map (fun a => (a, (s.partHome sp a.va wr false).getD 0)))

/-- The address that ranges and entries hold: `.n` addresses count within their cell (R265). -/
def spaceAddr (sp : Space) (a : Nat) : Nat := if sp = .n then a % 2 ^ 22 else a

/-- Byte i of a register as a byte. -/
def regByte (v i : Nat) : Byte := byteOf v i

/-- The piece of a part: the bytes its context has buffered are forwarded, inactive bytes keep the register's (R132, R135). -/
def Ctx.piece (c : Ctx) (s : State) (x : CtxId) (sp : Space) (l1 : Bool) (hint : Nat) (act : List Bool) (old : Nat) (a : Acc)
    (home : Nat) : Piece :=
  let base := s.spaceBase x sp a.va
  { sp := sp, base := base, va := a.va, home := home, len := a.len, off := a.off, l1 := l1 && isHbm home, hint := hint,
    lg := s.pageLg x c.arch.asid.toNat a.va,
    fwd := tab a.len (fun i =>
      if act.getD (a.off + i) true then
        (if sp.buffered then c.forward sp base (spaceAddr sp a.va + i) else none)
      else some (regByte old (a.off + i))) }

/-- Adds a producer to a context and marks its destination empty (R21). -/
def Ctx.produce (c : Ctx) (p : Prod) : Ctx := { c with prods := c.prods ++ [p], arch := c.arch.clear p.dst }

/-- CH and NT of an access as one number (R69). -/
def Fields.hint (w : Fields) : Nat := w.ch.toNat + 4 * b2n w.nt

/-- Issues a load: it joins the read ranges, and its parts wait to be performed (R132, R265). `got` are bytes already read. -/
def State.issueLoad (s : State) (w : Fields) (srcs : List Operand) (vec : Bool) (act : List Bool)
    (l : List (Acc × Nat)) (got : List (Nat × Byte)) : State :=
  let x := s.cur
  let c := s.ctx x
  let sp := Fields.space w
  let dst : Reg := if vec then .v w.d.idx.toNat else .s w.d.idx.toNat
  let old := if vec then (c.arch.rv w.d.idx.toNat).toNat else 0
  let pieces := l.map (fun e => c.piece s x sp (sp == .g && w.ch != 2) (Fields.hint w) act old e.1 e.2)
  let opn := if sp.buffered then
      l.foldl (fun r e => r.read sp (s.spaceBase x sp e.1.va) (spaceAddr sp e.1.va) e.1.len) c.opn
    else c.opn
  let p : Prod := { id := s.serial, serial := c.opn.serial, dst := dst, acq := if Fields.acq w then some (Fields.scope w) else none,
                    kind := .load w.ty.toNat vec pieces got }
  let s := { s.put (({ c.consume srcs with opn := opn }).produce p) with serial := s.serial + 1 }
  let reqs := (pieces.filter (fun q => isHostKey q.home)).map (fun _ => HostReq.load x p.id)
  { s with host := { s.host with reqs := s.host.reqs ++ reqs } }

/-- A load word over its parts (R128, R132, R136, R147). -/
def State.loadWord (s : State) (w : Fields) (srcs : List Operand) (vec : Bool) (accs : Ctx → List Acc) : Res :=
  s.srcs (srcs ++ (if vec then Fields.maskSrc w else [])) [w.d] (fun c =>
    match c.orderWait false with
    | some r => r
    | none =>
      let act := if vec then c.activeBytes w else []
      let l := if vec then (accs c).filter (Acc.live act) else accs c
      s.reach (Fields.space w) l false (fun hs =>
        match hs.findSome? (fun e => c.atomicWait e.2 e.1.len) with
        | some r => r
        | none => .ok (s.issueLoad w srcs vec act hs [])))

/-- Element addresses of the strided and indexed forms (R131). -/
def Ctx.elemAddrs (c : Ctx) (w : Fields) (strided : Bool) : List Nat :=
  let n := memBytes w.ty.toNat
  let a := (c.raw w w.a).toNat
  let scale := if Fields.space w = .l then 1 else n
  tab (256 / n) (fun j =>
    if strided then (a + j * (c.raw w w.b).toNat) % 2 ^ 64 else (a + elem (8 * n) (c.vec w.b).toNat j * scale) % 2 ^ 64)

/-- The accesses of the strided and indexed forms, element by element. -/
def Ctx.elemAccs (c : Ctx) (w : Fields) (strided : Bool) : List Acc :=
  let n := memBytes w.ty.toNat
  ((c.elemAddrs w strided).zip (List.range (256 / n))).flatMap (fun e => accParts e.1 n (e.2 * n) (some e.2))

/-! ### Lane slices -/

/-- The lanes of a `.l` access of vector form: lane, row, PART for every active byte (R131). -/
def Ctx.lanes (c : Ctx) (w : Fields) (indexed : Bool) : List (Nat × Nat × Nat) :=
  let n := memBytes w.ty.toNat
  let act := c.activeBytes w
  let rows := if indexed then c.elemAddrs w false else List.replicate (256 / n) (c.addr w)
  ((tab 256 (fun i => (i, rows.getD (i / n) 0, if indexed then i / n else 0))).filter (fun e => act.getD e.1 false))

/-- The first lane whose row is outside the slice (R30, R131). -/
def laneTrap (l : List (Nat × Nat × Nat)) : Option Res :=
  (l.find? (fun e => 2 ^ 10 ≤ e.2.1)).map (fun e => .trap 7 (permInfo e.2.1 1 e.2.2))

/-- A `.l` load: one access (R131). -/
def State.laneLoad (s : State) (w : Fields) (srcs : List Operand) (indexed : Bool) : Res :=
  s.srcs (srcs ++ Fields.maskSrc w) [w.d] (fun c =>
    match c.orderWait false with
    | some r => r
    | none =>
      let l := c.lanes w indexed
      match laneTrap l with
      | some r => r
      | none =>
        let hs := l.map (fun e => (e.1, laneKey s.cur.ck e.1 e.2.1))
        match c.laneWait (hs.map (fun e => e.2)) false with
        | some r => r
        | none =>
          let p : Prod := { id := s.serial, serial := c.opn.serial, dst := .v w.d.idx.toNat,
                            acq := if Fields.acq w then some (Fields.scope w) else none, kind := .lanes hs }
          .ok { s.put ((c.consume srcs).produce p) with serial := s.serial + 1 })

/-- A `.l` store: one access (R32, R131). (DEDUCED, log 15) -/
def State.laneStore (s : State) (w : Fields) (srcs : List Operand) (indexed : Bool) : Res :=
  s.srcs (srcs ++ Fields.maskSrc w) [] (fun c =>
    match firstRes [c.orderWait (Fields.rel w), c.releaseWait (Fields.rel w)] with
    | some r => r
    | none =>
      let l := c.lanes w indexed
      match laneTrap l with
      | some r => r
      | none =>
        let v := (c.vec w.c).toNat
        let bs := l.map (fun e => (laneKey s.cur.ck e.1 e.2.1, regByte v e.1))
        match c.laneWait (bs.map (fun b => b.1)) true with
        | some r => r
        | none =>
          .ok { s.put ((c.consume srcs).issueStore s.serial ([bs].filter (fun l => !l.isEmpty))) with serial := s.serial + 1 })

/-! ### Stores -/

/-- %finfo of a trap with cause PRIV (R200): the opcode. (DEDUCED, log 66) -/
def privTrap (opc : Nat) : Res := .trap 0x0C (BitVec.ofNat 64 opc)

/-- Whether a span of `.d` touches a block that only privileged contexts may store to (R346, R369, R381). (DEDUCED, log 66) -/
def touchesGuarded (die a n : Nat) : Bool := (List.range n).any (fun i => guarded die (a + i))

/-- The bytes that a part stores, with their distance from its address. -/
def partBytes (act : List Bool) (v : Nat) (a : Acc) : List (Nat × Byte) :=
  ((tab a.len (fun i => i)).filter (fun i => act.getD (a.off + i) true)).map (fun i => (i, regByte v (a.off + i)))

/-- The bytes of a buffered store by space, base and address. -/
def State.storeBytes (s : State) (sp : Space) (act : List Bool) (v : Nat) (l : List Acc) : List (Space × Nat × Nat × Byte) :=
  l.flatMap (fun a => (partBytes act v a).map (fun b => (sp, s.spaceBase s.cur sp a.va, spaceAddr sp a.va + b.1, b.2)))

/-- A store word over its parts (R128, R132, R134): in `.s` it waits to be performed, else it is buffered; a full buffer traps. `data` gives what
it stores. (DEDUCED, log 15) -/
def State.storeWord (s : State) (w : Fields) (opc : Nat) (srcs : List Operand) (vec : Bool) (accs : Ctx → List Acc)
    (data : Ctx → Nat) : Res :=
  s.srcs (srcs ++ (if vec then Fields.maskSrc w else [])) [] (fun c =>
    match c.orderWait (Fields.rel w) with
    | some r => r
    | none =>
      let sp := Fields.space w
      let act := if vec then c.activeBytes w else []
      let l := if vec then (accs c).filter (Acc.live act) else accs c
      s.reach sp l true (fun hs =>
        if sp = .d ∧ c.priv = false ∧ l.any (fun a => touchesGuarded s.cur.die a.va a.len) then privTrap opc
        else if sp = .s then
          match firstRes [c.releaseWait (Fields.rel w), hs.findSome? (fun e => c.atomicWait e.2 e.1.len),
              l.findSome? (fun a => s.scaleWait a.va a.len)] with
          | some r => r
          | none =>
            let todo := (hs.map (fun e => (partBytes act (data c) e.1).map (fun b => (e.2 + b.1, b.2)))).filter (fun l => !l.isEmpty)
            .ok { s.put ((c.consume srcs).issueStore s.serial todo) with serial := s.serial + 1 }
        else
          let opn := c.opn.store (s.storeBytes sp act (data c) l)
          if 1024 < opn.used then bufferFull else .ok (s.put { c.consume srcs with opn := opn })))

/-! ### The instructions -/

def execLd (w : Fields) (s : State) : Host.Outcome State Fault Refusal :=
  s.word w (fun s => s.loadWord w [w.a, w.b] false (fun c => accParts (c.addr w) (memBytes w.ty.toNat) 0 none))
def execSt (w : Fields) (s : State) : Host.Outcome State Fault Refusal :=
  s.word w (fun s => s.storeWord w 0x181 [w.a, w.b, w.c] false (fun c => accParts (c.addr w) (memBytes w.ty.toNat) 0 none)
    (fun c => c.scalar w w.ty.toNat w.c))
def execVld (w : Fields) (s : State) : Host.Outcome State Fault Refusal :=
  s.word w (fun s =>
    if Fields.space w = .l then s.laneLoad w [w.a, w.b] false
    else s.loadWord w [w.a, w.b] true (fun c => accParts (c.addr w) 256 0 none))
def execVst (w : Fields) (s : State) : Host.Outcome State Fault Refusal :=
  s.word w (fun s =>
    if Fields.space w = .l then s.laneStore w [w.a, w.b, w.c] false
    else s.storeWord w 0x183 [w.a, w.b, w.c] true (fun c => accParts (c.addr w) 256 0 none) (fun c => (c.vec w.c).toNat))
def execVlds (w : Fields) (s : State) : Host.Outcome State Fault Refusal :=
  s.word w (fun s => s.loadWord w [w.a, w.b] true (fun c => c.elemAccs w true))
def execVsts (w : Fields) (s : State) : Host.Outcome State Fault Refusal :=
  s.word w (fun s => s.storeWord w 0x185 [w.a, w.b, w.c] true (fun c => c.elemAccs w true) (fun c => (c.vec w.c).toNat))
def execVgath (w : Fields) (s : State) : Host.Outcome State Fault Refusal :=
  s.word w (fun s =>
    if Fields.space w = .l then s.laneLoad w [w.a, w.b] true
    else s.loadWord w [w.a, w.b] true (fun c => c.elemAccs w false))
def execVscat (w : Fields) (s : State) : Host.Outcome State Fault Refusal :=
  s.word w (fun s =>
    if Fields.space w = .l then s.laneStore w [w.a, w.b, w.c] true
    else s.storeWord w 0x187 [w.a, w.b, w.c] true (fun c => c.elemAccs w false) (fun c => (c.vec w.c).toNat))

/-- Translates at once, from the cell's cache or by a walk (R133, R144): none when the address does not translate. -/
def State.transNow (s : State) (va : Nat) : State × Option Nat :=
  if 2 ^ 49 ≤ va then (s, none)
  else
    let asid := (s.ctx s.cur).arch.asid.toNat
    match s.cached (.ctx s.cur) asid va false false with
    | some pa => (s, some pa)
    | none => s.walkNow s.cur.die asid va false

/-- Fetches the L1 line of a physical address: the sectors it does not hold (R133, R256). -/
def State.fetchLine (s : State) (ck pa hint : Nat) : State :=
  (List.range 8).foldl (fun s i =>
    let a := pa / 1024 * 1024 + 128 * i
    if ((s.cell ck).sector a).isSome then s else s.fillSector ck a hint) s

/-- PREF's effect: a free choice says whether a busy cache drops it. -/
def State.prefetch (s : State) (w : Fields) (va : Nat) : State :=
  let drop := Config.freeBit s.fresh
  let s := { s with fresh := s.fresh + 1 }
  if drop then s
  else
    match s.transNow va with
    | (s, some pa) => if bit pa 45 || w.ch == 2 then s else s.fetchLine s.cur.ck pa (Fields.hint w)
    | (s, none) => s

def execPref (w : Fields) (s : State) : Host.Outcome State Fault Refusal :=
  s.word w (fun s => s.srcs [w.a, w.b] [] (fun c => .ok (s.prefetch w (c.addr w))))

end Sys2Proof.Machine
end

