-- ==== Sys2Proof/Machine/Rings.lean ====
section
/-!
DEFINITION. Class 0x7: operand rings and cache maintenance (R137 to R144). An engine delivers into an engine-fed ring through the cell
scratch that holds its slots (assumption log 80).
-/

namespace Sys2Proof.Machine

/-- A trap with cause RING (R143). -/
def ringTrap (kind b : Nat) : Res := .trap 8 (BitVec.ofNat 64 (kind + b % 8 * 2 ^ 4))

/-- The slots of a ring that the context's open round itself has consumed: those of a closed round free at its commit (R140). -/
def Ctx.ownSlots (c : Ctx) (b : Nat) : Nat :=
  let r := c.ring b
  let lo := match c.closed with
    | some q => match q.endRings.get? b with
      | some (g, h) => if g = r.gen then h else r.chead
      | none => r.chead
    | none => r.chead
  (r.shead - lo).toNat

/-- The geometry of BINIT (R139): SZ and N, or the KIND of the trap. (DESIGN CHOICE, log 88) -/
def ringGeometry (geo base scratch : Nat) : Except Nat (Nat × Nat) :=
  let sz := fld geo 3 0
  let n := fld geo 28 16
  if 8 < sz ∨ fld geo 15 4 ≠ 0 ∨ n < 2 ∨ 4096 < n ∨ 2 ^ 29 ≤ geo then .error 1
  else if base % 128 ≠ 0 ∨ scratch * 2 ^ 17 < base + n * 2 ^ (sz + 7) then .error 2
  else .ok (sz, n)

/-- The number that n bytes from the i-th of an address word's place hold, as they stand: nothing is fetched or faults. (DEDUCED, log 80) -/
def State.standing (s : State) (die asid w i n : Nat) : Nat :=
  let byte (i : Nat) : Byte :=
    match addrWord w with
    | some (.die d off) => BitVec.ofNat 8 (s.num (dieKey d (off + i)) 1)
    | some (.tile ck off) => BitVec.ofNat 8 (s.num (tileKey ck (off + i)) 1)
    | some (.virt va) => match (s.walk die asid (va + i) false false).1 with
      | .leaf pa lg _ => BitVec.ofNat 8 (s.num (paKey (pa + (va + i) % 2 ^ lg)) 1)
      | .bad _ _ => 0
    | _ => 0
  ofBytes (tab n (fun k => byte (i + k)))

/-- The parameter block of a command: as it was read, and before that as it stands. -/
def State.blockOf (s : State) (die : Nat) (c : Cmd) : Nat :=
  let field (hi lo : Nat) : Nat := fld c.m.toNat hi lo
  if c.checked then c.pb else s.standing die (field 63 48) (field 319 256) 0 (if field 7 0 = 7 then 128 else 64)

/-- The rows of a ragged command, up to the first group whose end lies before its start (R171). -/
def raggedRows (off : Nat → Nat) : Nat → Nat → Nat
  | 0, _ => 0
  | n + 1, g => if off (g + 1) < off g then 0 else off (g + 1) - off g + raggedRows off n (g + 1)

/-- The spans that a command delivers to, from the places of its destination words: word, distance, length (R170, R171, R175). (DEDUCED, log 80) -/
def State.spansOf (s : State) (die : Nat) (c : Cmd) : List (Nat × Int × Nat) :=
  let opc := fld c.m.toNat 7 0
  let pb := s.blockOf die c
  let dst := fld pb 127 64
  let len := fld pb 159 128
  let n1 := fld pb 287 256
  let word (i : Nat) : Nat := s.standing die (fld c.m.toNat 63 48) (fld pb 255 192) (4 * i) 4
  if opc = 1 ∨ opc = 6 then [(dst, 0, len)]
  else if opc = 2 then [(dst, 0, len * n1 * fld pb 351 320 * fld pb 415 384)]
  else if opc = 3 then [(dst, 0, len * raggedRows word n1 0)]
  else if opc = 4 then [(dst, 0, len * n1)]
  else if opc = 5 then tab n1 (fun i => (dst, (word i : Int) * sgn 32 (fld pb 319 288), len))
  else if opc = 7 then tab (fld pb 182 180 + 1) (fun i => (fld pb (575 + 64 * i) (512 + 64 * i), 0, len))
  else []

/-- Whether an engine command delivers into a span of a cell's scratch: from its start until its completion word (R139, R176). Its addresses run
on from one cell of a die to the next (R173). (DEDUCED, log 80) -/
def State.feeds (s : State) (die : Nat) (c : Cmd) (ck base n : Nat) : Bool :=
  let at' : Int := (ck % 144 * 2 ^ 22 + base : Nat)
  c.started && decide (c.phase < 5) && (s.spansOf die c).any (fun e => match addrWord e.1 with
    | some (.tile k off) =>
      let lo : Int := (k % 144 * 2 ^ 22 + off : Nat) + e.2.1
      k / 144 == ck / 144 && decide (lo < at' + n ∧ at' < lo + e.2.2)
    | _ => false)

/-- Whether a ring is engine-fed and its slots meet a span of scratch. -/
def Ring.takesFrom (r : Ring) (off n : Nat) : Bool :=
  r.declared && r.fed && decide (off < r.base + r.n * r.size ∧ r.base < off + n)

/-- The contexts of a cell with the rings that a delivery to a span of its scratch reaches. -/
def State.fedRings (s : State) (ck off n : Nat) : List (CtxId × Nat) :=
  (tab 4 (fun i => ctxAt ck i)).flatMap (fun x =>
    ((tab 8 id).filter (fun b => (s.ctx x).life != .empty && ((s.ctx x).ring b).takesFrom off n)).map (fun b => (x, b)))

/-- A delivery into an engine-fed ring waits while the ring has no free slot (R142). (DEDUCED, log 80) -/
def State.ringFull (s : State) (ck off n : Nat) : Bool :=
  (s.fedRings ck off n).any (fun e => ((s.ctx e.1).ring e.2).free == 0)

/-- A delivery that reaches the last byte of the tail's slot of an engine-fed ring makes the slot visible (R140, R142). (DEDUCED, log 80) -/
def State.ringFed (s : State) (ck off n : Nat) : State :=
  (s.fedRings ck off n).foldl (fun s e =>
    let r := (s.ctx e.1).ring e.2
    let last := r.slot r.tail + r.size - 1
    if off ≤ last ∧ last < off + n then s.modCtx e.1 (fun c => c.setRing e.2 { r with tail := r.tail + 1 }) else s) s

/-- Whether an engine stream is bound to a ring (R139). (DEDUCED, log 80) -/
def State.ringBound (s : State) (ck : Nat) (r : Ring) : Bool :=
  r.fed && s.boxes.any (fun b => fld b.1 15 12 == 2 && b.2.qs.any (fun q => q.2.any (fun c => s.feeds (fld b.1 11 10) c ck r.base (r.n * r.size))))

/-- (DEDUCED, log 80; DESIGN CHOICE, log 88) -/
def execBinit (w : Fields) (s : State) : Host.Outcome State Fault Refusal :=
  s.word w (fun s => s.srcs [w.a, w.b] [] (fun c =>
    let b := w.d.idx.toNat
    let base := (c.raw w w.a).toNat
    match ringGeometry (c.raw w w.b).toNat base (s.cell s.cur.ck).scratch with
    | .error k => ringTrap k b
    | .ok (sz, n) =>
      let r := c.ring b
      if r.tail ≠ r.chead ∨ s.ringBound s.cur.ck r then ringTrap 3 b
      else .ok (s.put (c.setRing b { r with declared := true, sz := sz, n := n, base := base, tail := 0, shead := 0, chead := 0,
                                            gen := r.gen + 1 }))))

/-- What a push onto a full ring does (R140, R187): it waits for a slot to retire, or traps when only its own round holds them. -/
def Ctx.pushWait (c : Ctx) (b : Nat) : Option Res :=
  let r := c.ring b
  if 1 ≤ r.free then none else if r.n ≤ c.ownSlots b then some (ringTrap 4 b) else some (.wait (.ringOut b))

/-- How many 256-byte parts, or 128-byte halves, a slot takes (R140). -/
def Ring.parts (r : Ring) : Nat := if r.sz = 0 then 2 else r.size / 256

/-- The trap for a push onto an engine-fed ring (R140, R162). -/
def fedTrap (b : Nat) : Res := .trap 9 (portInfo 5 b true)

def execBpush (w : Fields) (s : State) : Host.Outcome State Fault Refusal :=
  s.word w (fun s => s.srcs [w.a] [] (fun c =>
    let b := w.d.idx.toNat
    let k := (immOf w w.b).toNat
    let r := c.ring b
    if r.fed then fedTrap b
    else if r.parts ≤ k then ringTrap 6 b
    else
      match firstRes [if s.appending s.cur false b then some (Res.wait (.island (s.cell s.cur.ck).island.progress)) else c.pushWait b,
          c.orderWait false] with
      | some x => x
      | none =>
        let v := toBytes 256 (c.vec w.a).toNat
        let bytes := if r.sz = 0 then (v.drop (128 * k)).take 128 else v
        let at' := r.slot r.tail + (if r.sz = 0 then 0 else 256 * k)
        let last := r.sz = 0 ∨ k + 1 = r.parts
        match c.atomicWait (tileKey s.cur.ck at') bytes.length with
        | some x => x
        | none =>
          let s := s.put ((c.consume [w.a]).setRing b { r with tail := if last then r.tail + 1 else r.tail })
          .ok (s.ctxPoke s.cur (tileKey s.cur.ck at') bytes)))

def execBpop (w : Fields) (s : State) : Host.Outcome State Fault Refusal :=
  s.word w (fun s => s.srcsRing w.a (fun _ => 1) [] [w.d] (fun c =>
    let b := w.a.idx.toNat
    let k := (immOf w w.b).toNat
    let r := c.ring b
    if (if r.sz = 0 then 1 else r.parts) ≤ k then ringTrap 6 b
    else
      let n := if r.sz = 0 then 128 else 256
      let h := tileKey s.cur.ck (r.slot r.shead + 256 * k)
      match firstRes [c.orderWait false, c.atomicWait h n] with
      | some x => x
      | none =>
        let last := r.sz = 0 ∨ k + 1 = r.parts
        let s := s.settleLoads s.cur h n
        let c := s.ctx s.cur
        .ok (s.put { c.setRing b { r with shead := if last then r.shead + 1 else r.shead } with
          arch := c.arch.wv w.d.idx.toNat (BitVec.ofNat 2048 (s.num h n)) })))

/-- The state word of a ring (R137). -/
def Ring.word (r : Ring) : Word :=
  BitVec.ofNat 64 (r.tail.toNat + r.shead.toNat * 2 ^ 16 + r.chead.toNat * 2 ^ 32 + r.sz * 2 ^ 48 + (r.n - 1) * 2 ^ 52)

def execBht (w : Fields) (s : State) : Host.Outcome State Fault Refusal :=
  s.word w (fun s => s.srcs [] [w.d] (fun c =>
    .ok (s.put { c with arch := c.arch.ws w.d.idx.toNat (c.ring w.a.idx.toNat).word })))

/-- How many slots BRET asks of its ring (R141): one at least while its count is not there, and none when the count is to trap. -/
def Ctx.bretNeed (c : Ctx) (w : Fields) : Nat :=
  let n := (c.raw w w.b).toNat
  if (c.emptySrc w.b).isSome then 1 else if (c.ring w.a.idx.toNat).n < n then 0 else n

def execBret (w : Fields) (s : State) : Host.Outcome State Fault Refusal :=
  s.word w (fun s => s.srcsRing w.a (fun c => c.bretNeed w) [w.b] [] (fun c =>
    let b := w.a.idx.toNat
    let r := c.ring b
    let n := (c.raw w w.b).toNat
    if n = 0 ∨ r.n < n then ringTrap 6 b
    else .ok (s.put (c.setRing b { r with shead := r.shead + BitVec.ofNat 16 n }))))

/-! ### Cache maintenance (R144) -/

/-- The pieces of a range of sectors by 64 KiB page: first byte and length. -/
def pageSpans (lo hi : Nat) : List (Nat × Nat) :=
  let hi := min hi (2 ^ 49 - 1)
  if hi < lo then []
  else tab (hi / 2 ^ 16 - lo / 2 ^ 16 + 1) (fun i =>
    let p := (lo / 2 ^ 16 + i) * 2 ^ 16
    (max lo p, min hi (p + 2 ^ 16 - 1) + 1 - max lo p))

/-- Does something to the physical range of every page of a range that translates (R144). -/
def State.eachPage (s : State) (w : Fields) (f : State → Nat → Nat → State) : Res :=
  s.srcs [w.a, w.b, w.c] [] (fun c =>
    let x := c.addr w
    let n := min (c.raw w w.c).toNat (2 ^ 32)
    if n = 0 then .ok s
    else
      .ok ((pageSpans (x / 128 * 128) ((x + n - 1) / 128 * 128 + 127)).foldl (fun s p =>
        match s.transNow p.1 with
        | (s, some pa) => f s pa p.2
        | (s, none) => s) s))

/-- Whether a sector number lies in a physical range. -/
def inSectors (pa n sec : Nat) : Bool := pa / 128 ≤ sec && sec * 128 < pa + n

def execCflush (w : Fields) (s : State) : Host.Outcome State Fault Refusal :=
  s.word w (fun s => s.eachPage w (fun s pa n => { s with l2dirty := s.l2dirty.filter (fun e => !inSectors pa n e) }))

def execCinv (w : Fields) (s : State) : Host.Outcome State Fault Refusal :=
  s.word w (fun s => s.eachPage w (fun s pa n =>
    s.modCell s.cur.ck (fun k => { k with l1 := k.l1.filter (fun e => !inSectors pa n e.pa) })))

end Sys2Proof.Machine
end

