-- ==== Sys2Proof/Machine/Atomics.lean ====
section
/-!
DEFINITION. Class 0x8: atomics (R145 to R147). The word issues; the read-modify-write is performed at the home, and the old value returns, in
an event of its own (R21). Host memory performs its own (R366).
-/

namespace Sys2Proof.Machine

/-- Widens the dirty range of a context (R353); a range of another ASID is deposited first. -/
def State.noteDirty (s : State) (x : CtxId) (asid lo hi : Nat) : State :=
  let c := s.ctx x
  match c.dirty with
  | none => s.setCtx x { c with dirty := some (asid, lo, hi) }
  | some (a, l, h) =>
    if a = asid then s.setCtx x { c with dirty := some (a, min l lo, max h hi) }
    else (s.deposit x).modCtx x (fun c => { c with dirty := some (asid, lo, hi) })

/-- Whether host memory takes the atomic (R366): AADD, AXCHG, ACAS. -/
def hostAtomicOp (op : Nat) : Bool := op == 0 || op == 6 || op == 7

/-- The address checks of atomics, WAITW and barriers (R128, R135, R145, R151): form, alignment, overlap with the round's own
buffered stores, and the blocks that only privileged contexts write. (DEDUCED, log 14) -/
def Ctx.syncTrap (c : Ctx) (s : State) (sp : Space) (opc a n : Nat) (writes : Bool) : Option Res :=
  match s.formBad s.cur sp a with
  | some k => some (.trap 7 (permInfo a k 0))
  | none =>
    if a % n ≠ 0 then some (.trap 7 (permInfo a 3 0))
    else if c.opn.overlaps sp (s.spaceBase s.cur sp a) (spaceAddr sp a) n then some (.trap 7 (permInfo a 4 0))
    else if writes ∧ sp = .d ∧ c.priv = false ∧ touchesGuarded s.cur.die a n then some (privTrap opc)
    else none

/-- What atomics, WAITW and barrier words share (R136, R146, R151): pending acquires, the release, the head of the domain, the
address checks, and the home of their bytes. -/
def State.atHome (s : State) (w : Fields) (opc n : Nat) (release writes hostBar : Bool) (c : Ctx) (k : Nat → Res) : Res :=
  let sp := Fields.space w
  let a := c.addr w
  match c.orderWait release with
  | some r => r
  | none =>
    if s.isHead s.cur = false then .wait .head
    else
      match c.syncTrap s sp opc a n writes with
      | some r => r
      | none =>
        match s.partHome sp a (writes && sp == .g) hostBar with
        | none => .block (s.startWalk s.cur c.arch.asid.toNat a writes hostBar) .walk
        | some h =>
          match firstRes [c.atomicWait h n, c.loadWait h n, s.scaleWaitAt h n] with
          | some r => r
          | none => k h

/-- The dirty range of a `.g` atomic (R353). -/
def State.atomicDirty (s : State) (w : Fields) (c : Ctx) (n : Nat) : State :=
  if Fields.space w = .g then s.noteDirty s.cur c.arch.asid.toNat (c.addr w) (c.addr w + n - 1) else s

/-- An atomic word (R145 to R147). (DEDUCED, log 15) -/
def State.atomic (s : State) (w : Fields) (op : Nat) : Res :=
  let extra := if op = 7 then [w.e] else []
  s.srcs ([w.a, w.b, w.c] ++ extra) [w.d] (fun c =>
    let ty := w.ty.toNat
    let n := tyBits ty / 8
    s.atHome w (0x200 + op) n (Fields.rel w) true (!hostAtomicOp op) c (fun h =>
      let cv := c.scalar w ty w.c
      let ev := if op = 7 then c.scalar w ty w.e else 0
      let acq := if Fields.acq w then some (Fields.scope w) else none
      let p : Prod := { id := s.serial, serial := c.opn.serial, dst := .s w.d.idx.toNat, acq := acq,
                        lg := s.pageLg s.cur c.arch.asid.toNat (c.addr w) }
      let s := { s with serial := s.serial + 1 }
      if isHostKey h then
        let s := s.modCtx s.cur (fun c => c.produce { p with kind := .hostAtomic h n c.arch.asid.toNat (c.addr w) })
        let s := { s with host := { s.host with reqs := s.host.reqs ++
          [HostReq.atomic s.cur p.id op ty h (BitVec.ofNat 64 cv) (BitVec.ofNat 64 ev)] } }
        .ok (s.atomicDirty w c n)
      else
        let s := if isHbm h then s.modCell s.cur.ck (fun k => k.dropSector h) else s
        let s := s.modCtx s.cur (fun c => c.produce { p with
          kind := .atomic op ty h (BitVec.ofNat 64 cv) (BitVec.ofNat 64 ev) c.arch.asid.toNat (c.addr w) })
        .ok (s.atomicDirty w c n)))

def execAadd (w : Fields) (s : State) : Host.Outcome State Fault Refusal := s.word w (fun s => s.atomic w 0)
def execAmin (w : Fields) (s : State) : Host.Outcome State Fault Refusal := s.word w (fun s => s.atomic w 1)
def execAmax (w : Fields) (s : State) : Host.Outcome State Fault Refusal := s.word w (fun s => s.atomic w 2)
def execAand (w : Fields) (s : State) : Host.Outcome State Fault Refusal := s.word w (fun s => s.atomic w 3)
def execAor (w : Fields) (s : State) : Host.Outcome State Fault Refusal := s.word w (fun s => s.atomic w 4)
def execAxor (w : Fields) (s : State) : Host.Outcome State Fault Refusal := s.word w (fun s => s.atomic w 5)
def execAxchg (w : Fields) (s : State) : Host.Outcome State Fault Refusal := s.word w (fun s => s.atomic w 6)
def execAcas (w : Fields) (s : State) : Host.Outcome State Fault Refusal := s.word w (fun s => s.atomic w 7)
def execAfadd (w : Fields) (s : State) : Host.Outcome State Fault Refusal := s.word w (fun s => s.atomic w 8)
def execAinc (w : Fields) (s : State) : Host.Outcome State Fault Refusal := s.word w (fun s => s.atomic w 9)

end Sys2Proof.Machine
end

