-- ==== Sys2Proof/Machine/Sync.lean ====
section
/-!
DEFINITION. Class 0x9: FENCE, WAITW and the barrier instructions (R148 to R152), and what the home of a barrier object does with
arrivals, subtractions, child arrivals and releases (R273 to R277).
-/

namespace Sys2Proof.Machine

/-! ### Barrier objects (R150) -/

def State.barExpect (s : State) (o : Nat) : Nat := s.num o 4
def State.barArrived (s : State) (o : Nat) : Nat := s.num (o + 4) 4
def State.barPend (s : State) (o : Nat) : Nat := s.num (o + 8) 4
def State.barPhase (s : State) (o : Nat) : Bool := bit (s.num (o + 12) 1) 0
def State.barKind (s : State) (o : Nat) : Nat := fld (s.num (o + 16) 4) 27 26
def State.barParent (s : State) (o : Nat) : Nat := dieKey (fld (s.num (o + 16) 4) 25 24) (fld (s.num (o + 16) 4) 23 0)

/-- release_here of R276: PHASE flips, queued BARWAITs are answered, recorded children get a release. -/
def State.releaseHere (s : State) (o : Nat) : State :=
  let s := s.writeNum (o + 12) 1 (s.num (o + 12) 1 ^^^ 1)
  { s with
    barWaits := s.barWaits.map (fun w => if w.obj = o then { w with answered := true } else w)
    barMsgs := s.barMsgs ++ (s.releases.filter (fun r => r.1 == o)).map (fun r => BarMsg.release r.2)
    releases := s.releases.filter (fun r => r.1 != o) }

/-- The completion test of R274. -/
def State.barTest (s : State) (o : Nat) : State :=
  if s.barArrived o = s.barExpect o ∧ s.barPend o = 0 then
    let s := s.writeNum (o + 4) 4 0
    if s.barKind o = 0 then s.releaseHere o
    else { s with barMsgs := s.barMsgs ++ [BarMsg.arrival o (s.barParent o) false] }
  else s

/-- A subtraction of delivered bytes (R273): true when it would take PEND below zero. -/
def State.barSubtract (s : State) (o n : Nat) : State × Bool :=
  let p := s.barPend o
  ((s.writeNum (o + 8) 4 (p - n)).barTest o, p < n)

/-- The home that keeps a release list (R277): the window of an object's key. -/
def barHome (o : Nat) : Nat := o / 2 ^ 24

/-- Whether an arrival waits at a home. -/
def BarMsg.waitsAt (home : Nat) : BarMsg → Bool
  | .arrival _ parent waits => waits && barHome parent == home
  | .release _ => false

/-- An object in the scratch of a frozen page has no home until its page is restored (R342). (DEDUCED, log 49) -/
def iceHome (o : Nat) : Bool := decide (2 ^ 80 ≤ o)

/-- CHILD_ARRIVAL: an arrival message reaches the parent's home. While the release list is full it waits, behind those that wait there
already (R273, R277). -/
def execChildArrival (k : Nat) (s : State) : Host.Outcome State Fault Refusal :=
  match s.barMsgs[k]? with
  | some (.arrival child parent waits) =>
    let ahead := (if waits then s.barMsgs.take k else s.barMsgs).any (BarMsg.waitsAt (barHome parent))
    if iceHome parent then .next s
    else if ahead ∨ 1024 ≤ (s.releases.filter (fun r => barHome r.1 == barHome parent)).length then
      .next (if waits then s else { s with barMsgs := dropIdx s.barMsgs k ++ [.arrival child parent true] })
    else
      let s := { s with barMsgs := dropIdx s.barMsgs k }
      if s.barArrived parent < s.barExpect parent then
        let s := { s with releases := s.releases ++ [(parent, child)] }
        .next ((s.writeNum (parent + 4) 4 (s.barArrived parent + 1)).barTest parent)
      else .next { s with barErrs := s.barErrs.set (barHome parent) (s.barErrs.getD (barHome parent) 0 + 1) }
  | _ => .next s

/-- RELEASE: a release message reaches a child (R276). -/
def execRelease (k : Nat) (s : State) : Host.Outcome State Fault Refusal :=
  match s.barMsgs[k]? with
  | some (.release o) => if iceHome o then .next s else .next (({ s with barMsgs := dropIdx s.barMsgs k }).releaseHere o)
  | _ => .next s

/-! ### FENCE and WAITW -/

def execFence (w : Fields) (s : State) : Host.Outcome State Fault Refusal :=
  s.word w (fun s =>
    match firstRes [(s.ctx s.cur).orderWait true, (s.ctx s.cur).releaseWait (Fields.rel w || !Fields.acq w)] with
    | some r => r
    | none => .ok (if Fields.acq w then s.acquire s.cur (Fields.scope w) else s))

def execWaitw (w : Fields) (s : State) : Host.Outcome State Fault Refusal :=
  s.word w (fun s => s.srcs [w.a, w.b, w.c] [w.d] (fun c =>
    s.atHome w 0x241 4 false false true c (fun h =>
      let p : Prod := { id := s.serial, serial := c.opn.serial, dst := .s w.d.idx.toNat,
                        acq := if Fields.acq w then some (Fields.scope w) else none,
                        kind := .waitw h c.arch.asid.toNat (c.addr w), lg := s.pageLg s.cur c.arch.asid.toNat (c.addr w) }
      let v : Watch := { x := s.cur, id := s.serial, home := h, target := (c.raw w w.c).setWidth 32 }
      .ok { s.modCtx s.cur (fun c => c.produce p) with serial := s.serial + 1, watches := s.watches ++ [v.test s.mem] })))

/-! ### Barrier instructions -/

/-- A trap with cause BARRIER (R152). -/
def barTrap (code a : Nat) : Res := .trap 0x0E (BitVec.ofNat 64 (code + a % 2 ^ 49 * 2 ^ 4))

/-- (DEDUCED, log 85; DESIGN CHOICE, log 89) -/
def execBarinit (w : Fields) (s : State) : Host.Outcome State Fault Refusal :=
  s.word w (fun s => s.srcs [w.a, w.b, w.c] [] (fun c =>
    s.atHome w 0x242 32 false true false c (fun o =>
      let v := (c.raw w w.c).toNat
      if s.barArrived o ≠ 0 ∨ s.barPend o ≠ 0 then barTrap 3 (c.addr w)
      else if fld v 59 58 = 3 ∨ fld v 63 60 ≠ 0 ∨ fld v 36 32 ≠ 0 then barTrap 4 (c.addr w)
      else .ok (s.ctxPoke s.cur o (toBytes 32 (v % 2 ^ 32 + fld v 59 32 * 2 ^ 128))))))

def execBararr (w : Fields) (s : State) : Host.Outcome State Fault Refusal :=
  s.word w (fun s => s.srcs [w.a, w.b] [w.d] (fun c =>
    s.atHome w 0x243 32 true true false c (fun o =>
      if s.barExpect o < s.barArrived o + 1 then barTrap 2 (c.addr w)
      else
        let ph := s.barPhase o
        let s := s.put { c with arch := c.arch.ws w.d.idx.toNat (if ph then 1 else 0) }
        .ok ((s.ctxPoke s.cur (o + 4) (toBytes 4 (s.barArrived o + 1))).barTest o))))

def execBartx (w : Fields) (s : State) : Host.Outcome State Fault Refusal :=
  s.word w (fun s => s.srcs [w.a, w.b, w.c] [] (fun c =>
    s.atHome w 0x244 32 false true false c (fun o =>
      let p := s.barPend o + (c.raw w w.c).toNat % 2 ^ 32
      if 2 ^ 32 ≤ p then barTrap 1 (c.addr w) else .ok (s.ctxPoke s.cur (o + 8) (toBytes 4 p)))))

def execBarwait (w : Fields) (s : State) : Host.Outcome State Fault Refusal :=
  s.word w (fun s => s.srcs [w.a, w.b, w.c] [] (fun c =>
    s.atHome w 0x245 32 false false false c (fun o =>
      let c0 := bit (c.raw w w.c).toNat 0
      let mine (b : BarWait) : Bool := b.x == s.cur && b.obj == o
      if s.barPhase o ≠ c0 ∨ s.barWaits.any (fun b => mine b && b.answered) then
        .ok ({ s with barWaits := s.barWaits.filter (fun b => !mine b) }.acquire s.cur (Fields.scope w))
      else if s.barWaits.any mine then .wait .barrier
      else .block { s with barWaits := s.barWaits ++ [{ obj := o, x := s.cur, c0 := c0 }] } .barrier)))

end Sys2Proof.Machine
end

