-- ==== Sys2Proof/Machine/Streams.lean ====
section
/-!
DEFINITION. Class 0xA but for QFILT: port bindings, beats pushed and marked, closing, port state, messages (R153 to R165).
-/

namespace Sys2Proof.Machine

/-! ### Inbox ids (R163) -/

/-- Whether an inbox id is valid (R163). -/
def boxOk (box : Nat) : Bool :=
  let kind := box / 2 ^ 12 % 16
  let low := fld box 9 0
  box < 2 ^ 16 &&
  (if kind = 0 then fld box 9 2 < 144
   else if kind = 1 then low < 4
   else if kind = 2 then low < 2 ^ 5 && fld low 4 3 < 3
   else if kind = 3 ∨ kind = 4 then low == 0
   else if kind = 5 ∨ kind = 6 then fld box 11 0 == 0
   else if kind = 7 then true
   else kind == 9 && fld box 11 6 == 0)

/-- An inbox id with a page-relative context resolved (R163). -/
def State.absBox (s : State) (x : CtxId) (box : Nat) : Nat :=
  if box / 2 ^ 12 = 9 then (ctxAt (s.pageCell x.ck (fld box 5 2)) (box % 4)).box else box

/-! ### Bindings (R153, R154) -/

/-- Whether a binding word is valid (R153, R154). -/
def bindOk (a : Nat) : Bool :=
  let out := bit a 0
  let kind := fld a 3 1
  let peer := fld a 19 4
  let pport := fld a 23 20
  a < 2 ^ 24 &&
  (if out then
     (if kind = 1 then (peer / 2 ^ 12 == 0 || peer / 2 ^ 12 == 9) && boxOk peer && pport != 0
      else kind < 4 && peer == 0 && pport == 0)
   else kind < 3 && peer == 0 && pport == 0)

/-- A trap with cause PORT about a port (R162). -/
def portTrap (kind q : Nat) : Res := .trap 9 (portInfo kind q false)

/-- Whether an engine command is delivering into a port (R154): started, not ended, with the port as its destination. -/
def State.delivering (s : State) (x : CtxId) (q : Nat) : Bool :=
  s.boxes.any (fun b => b.2.qs.any (fun l => l.2.any (fun k =>
    k.started && decide (k.phase < 3) && (match addrWord (fld k.pb 127 64) with
      | some (.port box r) => s.receiver box == x && r == q
      | _ => false))))

/-- Naming q0 or q1 in D (R155). -/
def dstMisuse (q : Nat) : Option Res := if q < 2 then some (portTrap 4 q) else none

/-- A port rebound (R154): one that changes direction starts afresh where its beats end; those that rounds still uncommitted have consumed are kept
for a void (R246). (DESIGN CHOICE, log 90) -/
def Port.rebind (p : Port) (b : BitVec 24) : Port :=
  if p.out = b.getLsbD 0 then { p with bind := b, gen := p.gen + 1 }
  else { p with bind := b, gen := p.gen + 1, closed := false, shut := false, eof := false, filt := none, drop := 0,
                fifo := [], old := p.old ++ p.fifo, base := p.base + p.fifo.length,
                shead := p.base + p.fifo.length, ctail := p.base + p.fifo.length }

/-- Notes in the snapshots what DROP and EOFSEEN a binding has come to, when a QBIND or QFILT is about to replace it (R160, R246). -/
def Ctx.keepPort (c : Ctx) (q : Nat) : Ctx :=
  let p := c.port q
  let note (r : Round) : Round := { r with snap := { r.snap with ports := r.snap.ports.map (fun e =>
    if e.1 = q ∧ e.2.gen = p.gen then (e.1, { e.2 with drop := p.drop, eof := if p.out then p.eof else e.2.eof }) else e) } }
  { c with opn := note c.opn, closed := c.closed.map note }

def execQbind (w : Fields) (s : State) : Host.Outcome State Fault Refusal :=
  s.word w (fun s => s.srcs [w.a] [] (fun c =>
    let q := w.d.idx.toNat
    let a := (c.raw w w.a).toNat
    let p := c.port q
    match dstMisuse q with
    | some r => r
    | none =>
      if bindOk a = false then portTrap 11 q
      else if (if p.out then p.fifo.length != 0 else p.avail.length != 0 || (p.kind != 0 && s.delivering s.cur q)) then portTrap 10 q
      else
        let peer := if bit a 0 ∧ fld a 3 1 = 1 then s.absBox s.cur (fld a 19 4) else fld a 19 4
        s.afterAppends q (s.afterMerges q (.ok (s.put ((c.keepPort q).setPort q (p.rebind (BitVec.ofNat 24 (putFld a 4 16 peer)))))))))

/-! ### Pushing beats (R156 to R158) -/

/-- How many slots of an outbound FIFO only the end of the open round can free: beats that it pushed, and beats that it consumed before a QBIND
turned the port (R156, R240). -/
def Ctx.ownBeats (c : Ctx) (q : Nat) : Nat :=
  let p := c.port q
  let closed := (c.closed.map (fun r => r.endPorts.getD q 0)).getD 0
  (p.base + p.fifo.length - max p.base (max p.ctail closed)) + (p.base - max p.first closed)

/-- What a push onto a full FIFO does (R24, R156): it waits, or traps when only its own round fills it. -/
def Ctx.outWait (c : Ctx) (q : Nat) : Option Res :=
  let p := c.port q
  if p.room 1 then none
  else if p.depth ≤ c.ownBeats q then some (portTrap 8 q)
  else some (.wait (.portOut q 1))

/-- The misuses of an outbound port named as destination (R155 to R158). -/
def Ctx.outMisuse (c : Ctx) (q : Nat) : Option Res :=
  match dstMisuse q with
  | some r => some r
  | none => if !(c.port q).out then some (portTrap 5 q) else if (c.port q).closed then some (portTrap 7 q) else none

/-- Appends a beat at the speculative tail. -/
def Port.push (p : Port) (b : Beat) : Port := { p with fifo := p.fifo ++ [b] }

/-- A data beat: VC, level, payload with zeros past VC (R27, R156). -/
def dataBeat (vc lvl : Nat) (v : Vec) : Beat :=
  { sb := BitVec.ofNat 16 (vc + lvl * 2 ^ 9), data := BitVec.ofNat 2048 (v.toNat % 2 ^ (8 * vc)) }

/-- A bare mark (R27, R157). -/
def bareBeat (lvl : Nat) : Beat := { sb := BitVec.ofNat 16 (0x1000 + lvl * 2 ^ 9) }

def execQpush (w : Fields) (s : State) : Host.Outcome State Fault Refusal :=
  s.word w (fun s => s.srcs [w.a, w.b] [] (fun c =>
    let q := w.d.idx.toNat
    let vc := (c.raw w w.b).toNat
    match c.outMisuse q with
    | some r => r
    | none =>
      if vc = 0 ∨ 256 < vc then portTrap 6 q
      else
        s.afterAppends q (match c.outWait q with
        | some r => r
        | none =>
          let b := dataBeat vc (w.fn.toNat % 8) (c.vec w.a)
          let c := c.consume [w.a]
          .ok (s.put (c.setPort q ((c.port q).push b))))))

/-- Raises MK of the last beat (R157). -/
def raiseLast (lvl : Nat) : List Beat → List Beat
  | [] => []
  | [b] => [{ b with sb := BitVec.ofNat 16 (putFld b.sb.toNat 9 3 (max (beatMark b.sb) lvl)) }]
  | b :: r => b :: raiseLast lvl r

/-- Whether the beat at the speculative tail is a data beat of the open round (R157). -/
def Ctx.marks (c : Ctx) (q : Nat) : Bool :=
  let p := c.port q
  let start := max p.shead (match c.opn.snap.ports.get? q with
    | some n => n.stail
    | none => 0)
  match p.fifo.getLast? with
  | some b => start < p.base + p.fifo.length && !b.sb.getLsbD 12
  | none => false

def execQmark (w : Fields) (s : State) : Host.Outcome State Fault Refusal :=
  s.word w (fun s => s.srcs [] [] (fun c =>
    let q := w.d.idx.toNat
    let lvl := w.fn.toNat % 8
    match c.outMisuse q with
    | some r => r
    | none =>
      let p := c.port q
      s.afterAppends q (
        if w.fn.getLsbD 3 then
          match c.outWait q with
          | some r => r
          | none => .ok (s.put (c.setPort q (p.push (bareBeat lvl))))
        else if c.marks q then .ok (s.put (c.setPort q { p with fifo := raiseLast lvl p.fifo }))
        else portTrap 9 q)))

def execQclose (w : Fields) (s : State) : Host.Outcome State Fault Refusal :=
  s.word w (fun s => s.srcs [] [] (fun c =>
    let q := w.d.idx.toNat
    let p := c.port q
    match dstMisuse q with
    | some r => r
    | none =>
      if p.out then
        if p.closed then portTrap 7 q
        else
          s.afterAppends q (match c.outWait q with
          | some r => r
          | none => .ok (s.put (c.setPort q { p.push eofBeat with closed := true })))
      else s.afterMerges q (.ok (s.put (c.setPort q { p with closed := true })))))

/-- The port state word (R160). -/
def Port.stat (p : Port) : Word :=
  let beats := if p.out then p.fifo else p.avail
  let seen := p.eof || (!p.out && ((p.avail.head?).map (fun b => b.sb == 0x1000)).getD false)
  BitVec.ofNat 64 (beats.length % 2 ^ 10 + p.depth % 2 ^ 10 * 2 ^ 10
    + ((beats.head?).map (fun b => beatClass b.sb)).getD 0 * 2 ^ 20 + b2n p.out * 2 ^ 24 + p.kind * 2 ^ 25
    + b2n p.closed * 2 ^ 28 + b2n seen * 2 ^ 29 + b2n p.filt.isSome * 2 ^ 30 + p.drop.toNat * 2 ^ 32)

def execQstat (w : Fields) (s : State) : Host.Outcome State Fault Refusal :=
  s.word w (fun s => s.srcs [] [w.d] (fun c =>
    let q := if w.a.idx = 1 then 0 else w.a.idx.toNat
    .ok (s.put { c with arch := c.arch.ws w.d.idx.toNat (c.port q).stat })))

/-! ### Messages (R164, R165) -/

/-- A message stamped with the sender's ASID (R164). -/
def stamp (asid : BitVec 16) (m : Msg) : Msg := BitVec.ofNat 512 (putFld m.toNat 48 16 asid.toNat)

/-- SEND and SENDI: an invalid inbox traps; the message is buffered (R165). -/
def State.post (s : State) (c : Ctx) (srcs : List Operand) (box : Nat) (m : Msg) : Res :=
  if boxOk box = false then .trap 9 (portInfo 12 0 false)
  else (s.put (c.consume srcs)).buffer (.message (s.absBox s.cur box) (stamp c.arch.asid m))

def execSend (w : Fields) (s : State) : Host.Outcome State Fault Refusal :=
  s.word w (fun s => s.srcs [w.a, w.b] [] (fun c =>
    s.post c [w.b] (c.raw w w.a).toNat (BitVec.ofNat 512 (c.vec w.b).toNat)))

def execSendi (w : Fields) (s : State) : Host.Outcome State Fault Refusal :=
  s.word w (fun s => s.srcs [w.a, w.b, w.c] [] (fun c =>
    s.post c [] (c.raw w w.a).toNat (BitVec.ofNat 512 ((c.raw w w.b).toNat + (c.raw w w.c).toNat * 2 ^ 256))))

end Sys2Proof.Machine
end

