-- ==== Sys2Proof/Machine/Digest.lean ====
section
/-!
DEFINITION. The digests: CRC-32C (R211), SM3 (R212) and the verification of SM2 signatures (R170). The text of SM3 and SM2 is that
of their standards, which the manual names and does not print (assumption log).
-/

namespace Sys2Proof.Machine

/-! ### CRC-32C (R211) -/

/-- One bit of the raw reflected register. -/
def crcBit (c : Nat) : Nat := if c % 2 = 1 then (c / 2) ^^^ 0x82F63B78 else c / 2

/-- One byte. -/
def crcByte (c : Nat) (b : Byte) : Nat := (List.range 8).foldl (fun c _ => crcBit c) (c ^^^ b.toNat)

/-- The raw update over bytes, without inversion. -/
def crcRaw (c : Nat) (bs : List Byte) : Nat := bs.foldl crcByte (c % 2 ^ 32)

/-- A standard CRC-32C continued over more bytes: the complement of the raw update (R211). -/
def crcMore (c : Nat) (bs : List Byte) : Nat := 0xFFFFFFFF ^^^ crcRaw (0xFFFFFFFF ^^^ c) bs

/-! ### SM3 -/

abbrev W32 := BitVec 32

/-- The permutations of SM3. -/
def sm3P0 (x : W32) : W32 := x ^^^ x.rotateLeft 9 ^^^ x.rotateLeft 17
def sm3P1 (x : W32) : W32 := x ^^^ x.rotateLeft 15 ^^^ x.rotateLeft 23

/-- Extends the message words: the list holds them newest first. -/
def sm3Expand : Nat → List W32 → List W32
  | 0, l => l
  | n + 1, l =>
    let w (i : Nat) : W32 := l.getD (i - 1) 0
    sm3Expand n ((sm3P1 (w 16 ^^^ w 9 ^^^ (w 3).rotateLeft 15) ^^^ (w 13).rotateLeft 7 ^^^ w 6) :: l)

/-- One round on the eight registers. -/
def sm3Round (ws : List W32) (v : List W32) (j : Nat) : List W32 :=
  let g (i : Nat) : W32 := v.getD i 0
  let t : W32 := if j < 16 then 0x79CC4519#32 else 0x7A879D8A#32
  let a12 := (g 0).rotateLeft 12
  let ss1 := (a12 + g 4 + t.rotateLeft (j % 32)).rotateLeft 7
  let ss2 := ss1 ^^^ a12
  let ff := if j < 16 then g 0 ^^^ g 1 ^^^ g 2 else (g 0 &&& g 1) ||| (g 0 &&& g 2) ||| (g 1 &&& g 2)
  let gg := if j < 16 then g 4 ^^^ g 5 ^^^ g 6 else (g 4 &&& g 5) ||| (~~~(g 4) &&& g 6)
  let tt1 := ff + g 3 + ss2 + (ws.getD j 0 ^^^ ws.getD (j + 4) 0)
  let tt2 := gg + g 7 + ss1 + ws.getD j 0
  [tt1, g 0, (g 1).rotateLeft 9, g 2, sm3P0 tt2, g 4, (g 5).rotateLeft 19, g 6]

/-- A big-endian number of bytes. -/
def ofBytesBE (bs : List Byte) : Nat := ofBytes bs.reverse

/-- The n bytes of a number, highest first. -/
def toBytesBE (n x : Nat) : List Byte := (toBytes n x).reverse

/-- The compression function CF on a state of eight words and a block of 64 bytes. (PRESUMED, log 21) -/
def sm3CF (v : List W32) (block : List Byte) : List W32 :=
  let ws0 := tab 16 (fun i => BitVec.ofNat 32 (ofBytesBE ((block.drop (4 * i)).take 4)))
  let ws := (sm3Expand 52 ws0.reverse).reverse
  List.zipWith (fun a b => a ^^^ b) v ((List.range 64).foldl (sm3Round ws) v)

/-- The initial value. -/
def sm3IV : List W32 :=
  [0x7380166F, 0x4914B2B9, 0x172442D7, 0xDA8A0600, 0xA96F30BC, 0x163138AA, 0xE38DEE4D, 0xB0FB0E4E]

/-- The padded message. -/
def sm3Pad (m : List Byte) : List Byte :=
  let z := (119 - m.length % 64) % 64
  m ++ [0x80#8] ++ List.replicate z 0 ++ toBytesBE 8 (8 * m.length)

/-- The digest of a message. (PRESUMED, log 21) -/
def sm3 (m : List Byte) : List Byte :=
  let p := sm3Pad m
  ((List.range (p.length / 64)).foldl (fun v i => sm3CF v ((p.drop (64 * i)).take 64)) sm3IV).flatMap (fun w => toBytesBE 4 w.toNat)

/-! ### SM2 -/

/-- The recommended curve. -/
def sm2P : Nat := 0xFFFFFFFEFFFFFFFFFFFFFFFFFFFFFFFFFFFFFFFF00000000FFFFFFFFFFFFFFFF
def sm2A : Nat := sm2P - 3
def sm2B : Nat := 0x28E9FA9E9D9F5E344D5A9E4BCF6509A7F39789F515AB8F92DDBCBD414D940E93
def sm2N : Nat := 0xFFFFFFFEFFFFFFFFFFFFFFFFFFFFFFFF7203DF6B21C6052B53BBF40939D54123
def sm2G : Nat × Nat :=
  (0x32C4AE2C1F1981195F9904466A39C9948FE30BBFF2660BE1715A4589334C74C7,
   0xBC3736A2F4F6779C59BDCEE36B692153D0A9877CC62A474002DF32E52139F0A0)

/-- Powers modulo the field prime. -/
def powP : Nat → Nat → Nat → Nat
  | 0, _, _ => 1
  | f + 1, b, e =>
    let h := powP f (b * b % sm2P) (e / 2)
    if e % 2 = 1 then b * h % sm2P else h

/-- The inverse in the field. -/
def invP (x : Nat) : Nat := powP 256 (x % sm2P) (sm2P - 2)

/-- A difference in the field. -/
def subP (x y : Nat) : Nat := (x + sm2P - y % sm2P) % sm2P

/-- Points in affine form, none at infinity. -/
abbrev Point := Option (Nat × Nat)

/-- The group law. -/
def addPt : Point → Point → Point
  | none, q => q
  | p, none => p
  | some (x1, y1), some (x2, y2) =>
    if x1 = x2 ∧ (y1 + y2) % sm2P = 0 then none
    else
      let l := if x1 = x2 then (3 * x1 * x1 + sm2A) * invP (2 * y1) % sm2P else subP y2 y1 * invP (subP x2 x1) % sm2P
      let x := subP (subP (l * l) x1) x2
      some (x, subP (l * subP x1 x) y1)

/-- A multiple of a point. -/
def mulPt : Nat → Nat → Point → Point
  | 0, _, _ => none
  | f + 1, k, p =>
    let h := mulPt f (k / 2) (addPt p p)
    if k % 2 = 1 then addPt p h else h

/-- The digest Z of the default distinguishing identifier and a public key. (PRESUMED, log 21) -/
def sm2Z (x y : Nat) : List Byte :=
  sm3 ([0x00#8, 0x80#8] ++ (tab 16 (fun i => BitVec.ofNat 8 (0x31 + i % 8)))
    ++ [sm2A, sm2B, sm2G.1, sm2G.2, x, y].flatMap (toBytesBE 32))

/-- Whether a signature (r then s) over a message holds under a key (x then y). (PRESUMED, log 21) -/
def sm2Verify (key sig msg : List Byte) : Bool :=
  let x := ofBytesBE (key.take 32)
  let y := ofBytesBE (key.drop 32)
  let r := ofBytesBE (sig.take 32)
  let s := ofBytesBE (sig.drop 32)
  let e := ofBytesBE (sm3 (sm2Z x y ++ msg))
  let t := (r + s) % sm2N
  x < sm2P && y < sm2P && (y * y) % sm2P == (x * x * x + sm2A * x + sm2B) % sm2P
    && r != 0 && r < sm2N && s != 0 && s < sm2N && t != 0
    && (match addPt (mulPt 256 s (some sm2G)) (mulPt 256 t (some (x, y))) with
        | some (x1, _) => (e + x1) % sm2N == r
        | none => false)

/-- Powers modulo the group order, and the inverse there. -/
def powN : Nat → Nat → Nat → Nat
  | 0, _, _ => 1
  | f + 1, b, e =>
    let h := powN f (b * b % sm2N) (e / 2)
    if e % 2 = 1 then b * h % sm2N else h
def invN (x : Nat) : Nat := powN 256 (x % sm2N) (sm2N - 2)

/-- A public key (x then y) of a private one. (PRESUMED, log 21; DESIGN CHOICE, log 61) -/
def sm2Public (d : Nat) : List Byte :=
  match mulPt 256 d (some sm2G) with
  | some (x, y) => toBytesBE 32 x ++ toBytesBE 32 y
  | none => List.replicate 64 0

/-- A signature (r then s) over a message with a private key and a nonce; none where the standard takes another nonce. (PRESUMED, log 21) -/
def sm2SignWith (d : Nat) (msg : List Byte) (k : Nat) : Option (List Byte) :=
  let key := sm2Public d
  let e := ofBytesBE (sm3 (sm2Z (ofBytesBE (key.take 32)) (ofBytesBE (key.drop 32)) ++ msg))
  match mulPt 256 k (some sm2G) with
  | none => none
  | some (x1, _) =>
    let r := (e + x1) % sm2N
    let s := invN (1 + d) * ((k + sm2N - r * d % sm2N) % sm2N) % sm2N
    if r = 0 ∨ r + k = sm2N ∨ s = 0 then none else some (toBytesBE 32 r ++ toBytesBE 32 s)

/-- A signature with the first nonce that serves. (PRESUMED, log 21; DESIGN CHOICE, log 61) -/
def sm2Sign (d : Nat) (msg : List Byte) (nonces : List Nat) : List Byte :=
  (nonces.findSome? (sm2SignWith d msg)).getD (List.replicate 64 0)

end Sys2Proof.Machine
end

