-- ==== Sys2Proof/Machine/System.lean ====
section
/-!
DEFINITION. Class 0xE: special registers (R34 to R36, R202), the return from a trap action (R204), TLBINV (R207), the Kiln network
(R208 to R210), the digest helpers (R211, R212) and HALT (R205).
-/

namespace Sys2Proof.Machine

/-! ### Special registers -/

/-- %qsb (R34): which ports are full (R24), and which have seen EOF or are closed. -/
def Ctx.qsb (c : Ctx) : Nat :=
  (List.range 16).foldl (fun acc q =>
    let p := c.port q
    let beats := if q = 0 then c.steer else p.avail
    let full := if p.out then !p.room 1 else (if p.closed then true else !beats.isEmpty)
    let seen := p.closed || p.eof || (!p.out && ((beats.head?).map (fun b => b.sb == 0x1000)).getD false)
    acc + b2n full * 2 ^ q + b2n seen * 2 ^ (16 + q)) 0

/-- The value of a special register other than %la1 and %la2 (R34). -/
def State.special (s : State) (x : CtxId) (id : Nat) : Word :=
  let c := s.ctx x
  let k := s.cell x.ck
  match id with
  | 0x000 => BitVec.ofNat 64 x.ctx
  | 0x001 => BitVec.ofNat 64 ((k.page.map (fun p => p.2)).getD 0)
  | 0x002 => c.info.pageOrd.zeroExtend 64
  | 0x003 => BitVec.ofNat 64 x.die
  | 0x004 => c.info.unit.zeroExtend 64
  | 0x005 => c.info.nunit.zeroExtend 64
  | 0x006 => c.info.launch.zeroExtend 64
  | 0x007 => c.info.domain.zeroExtend 64
  | 0x008 => c.arch.prio.zeroExtend 64
  | 0x009 => c.arch.asid.zeroExtend 64
  | 0x010 => c.opn.ts.zeroExtend 64
  | 0x011 => c.rseq.zeroExtend 64
  | 0x020 => BitVec.ofNat 64 (c.arch.tok.sb.toNat + beatClass c.arch.tok.sb * 2 ^ 16)
  | 0x023 => BitVec.ofNat 64 c.qsb
  | 0x030 => c.cause.zeroExtend 64
  | 0x031 => c.finfo
  | 0x032 => c.tepc.zeroExtend 64
  | 0x040 => s.clk
  | _ => 0

/-- The n-th beat beyond the token as a position of q0 (R35): a producer keeps watching that beat. -/
def Ctx.lookPos (c : Ctx) (n : Nat) : Nat := (c.port 0).shead + n - 1

/-- The class that a pending %la1 or %la2 shows, once its beat or an earlier EOF is there (R35), and once a HANDOFF has committed (R250). -/
def Ctx.lookAt (c : Ctx) (pos : Nat) : Option Nat :=
  let p := c.port 0
  if c.handed.isSome then some 8
  else if c.handing then none
  else if c.arch.tok.sb = 0x1000 ∨ (p.fifo.take (pos + 1 - p.base)).any (fun b => b.sb == 0x1000) then some 8
  else if pos < p.base then some 8
  else (p.fifo[pos - p.base]?).map (fun b => beatClass b.sb)

/-- SRD of %la1 or %la2: a long-latency producer (R35). While a HANDOFF waits for its commit, the read stays pending (R250). -/
def State.srdLook (s : State) (w : Fields) (c : Ctx) (n : Nat) : Res :=
  let p : Prod := { id := s.serial, serial := c.opn.serial, dst := .s w.d.idx.toNat, kind := .look (c.lookPos n) }
  let pending : Res := .ok { s.put (c.produce p) with serial := s.serial + 1 }
  if c.handing then pending
  else
    match c.look n with
    | some b => .ok (s.put { c with arch := c.arch.ws w.d.idx.toNat (BitVec.ofNat 64 (beatClass b.sb)) })
    | none => if c.stuckIn 0 n then .trap 9 (portInfo 8 0 false) else pending

def execSrd (w : Fields) (s : State) : Host.Outcome State Fault Refusal :=
  s.word w (fun s => s.srcs [] [w.d] (fun c =>
    let id := (immOf w w.a).toNat
    if id = 0x021 then s.srdLook w c 1
    else if id = 0x022 then s.srdLook w c 2
    else .ok (s.put { c with arch := c.arch.ws w.d.idx.toNat (s.special s.cur id) })))

def execSwr (w : Fields) (s : State) : Host.Outcome State Fault Refusal :=
  s.word w (fun s =>
    let id := (immOf w w.a).toNat
    if (s.ctx s.cur).priv = false then .trap 0x0C (BitVec.ofNat 64 (0x381 + id * 2 ^ 10))
    else s.srcs [w.b] [] (fun c =>
      let v := c.raw w w.b
      .ok (s.put (if id = 0x009 then { c with arch := { c.arch with asid := v.setWidth 16 } }
        else { c with arch := { c.arch with prio := v.setWidth 3 } }))))

def execRtt (w : Fields) (s : State) : Host.Outcome State Fault Refusal :=
  s.word w (fun s =>
    if (s.ctx s.cur).arch.trapped.isNone then .trap 1 1 else .stay (s.trapReturn s.cur (immOf w w.a == 1)))

/-! ### TLBINV (R207) -/

/-- Whether a cached translation overlaps an invalidated range. (DEDUCED, log 18) -/
def Shoot.hits (h : Shoot) (asid lo n : Nat) : Bool :=
  ((h.asid.map (fun a => a == asid)).getD true) && decide (lo ≤ h.hi) && decide (h.lo < lo + n)

/-- Invalidates matching entries and raises the generation (R357). (DESIGN CHOICE, log 4) -/
def Tlb.shoot (t : Tlb) (h : Shoot) : Tlb :=
  { ents := t.ents.filter (fun e => !h.hits e.asid e.va (2 ^ e.lg)), gen := t.gen + 1 }

/-- Invalidates in every translation cache of the package. Every cell has a cache, so every generation is raised by those that the
state lists; an unlisted one is empty and has no walk under way. -/
def State.shootAll (s : State) (h : Shoot) : State :=
  { s with
    cells := s.cells.map (fun e => (e.1, { e.2 with tlb := e.2.tlb.shoot h }))
    boxes := s.boxes.map (fun e => (e.1, { e.2 with tlb := e.2.tlb.shoot h })) }

/-- (DEDUCED, log 18) -/
def execTlbinv (w : Fields) (s : State) : Host.Outcome State Fault Refusal :=
  s.word w (fun s =>
    if (s.ctx s.cur).priv = false then privTrap 0x383
    else s.srcs [w.a, w.b, w.c] [] (fun c =>
      let a := (c.raw w w.a).toNat
      let n := (c.raw w w.b).toNat
      let d := (c.raw w w.c).toNat
      if s.isHead s.cur = false then .wait .head
      else if 2 ^ 49 ≤ a ∨ 2 ^ 17 ≤ d then .trap 7 (permInfo a 1 0)
      else if n = 0 then .ok s
      else
        let h : Shoot := { x := s.cur, lo := a, hi := min (a + n - 1) (2 ^ 49 - 1),
                           asid := if bit d 16 then none else some (d % 2 ^ 16), since := s.serial }
        .block { s.shootAll h with shoots := s.shoots ++ [h] } .tlbinv))

/-! ### Kiln (R208 to R210) -/

/-- The words of each region (R208). -/
def regionWords : Nat → Nat
  | 0 => 16384 | 1 => 8192 | 2 => 1024 | 3 => 1024 | 4 => 128 | 5 => 32 | 6 => 1 | 7 => 393216 | _ => 0

/-- Whether a Kiln address is valid (R208). -/
def kilnOk (a : Nat) : Bool :=
  fld a 11 10 == 0 && fld a 63 40 == 0 && decide (fld a 7 0 < 144) && decide (fld a 39 16 < regionWords (fld a 15 12))

/-- Whether a cell hosts a unit, or still sends the last beats of one (R205, R209). (DEDUCED, log 17) -/
def Cell.busy (k : Cell) : Bool :=
  k.ctxs.any (fun e => e.2.life != .empty || e.2.ports.any (fun p => p.2.out && p.2.kind != 0 && !p.2.fifo.isEmpty))

/-- The status word of a cell (R209). (DEDUCED, log 17) -/
def State.cellStatus (s : State) (ck : Nat) : Word :=
  let k := s.cell ck
  BitVec.ofNat 64 (k.st.toNat + b2n (fusedOff ck) * 2 ^ 2 + b2n k.spare * 2 ^ 3 + b2n k.retired * 2 ^ 4 + b2n k.busy * 2 ^ 5
    + k.tiles % 32 * 2 ^ 6 + k.rcrc.toNat * 2 ^ 32)

/-- Zeroes regions 0 to 5 of a cell. (DEDUCED, log 47) -/
def State.wipe (s : State) (ck : Nat) : State := s.modCell ck (fun k => { k with cfg := [] })

/-- The begin command (R209, R259): scratch and FIFO tiles are zeroed, cache tiles invalidated. (DEDUCED, log 81) -/
def State.kilnBegin (s : State) (ck : Nat) : State :=
  let k := s.cell ck
  if s.unusable ck || k.busy then s
  else
    let s := s.zero (tileKey ck 0) (2 ^ 22)
    (s.wipe ck).modCell ck (fun k => { k with st := 1, rcrc := 0, l1 := [] })

/-- The seal command (R209). -/
def State.kilnSeal (s : State) (ck : Nat) (crc : BitVec 32) : State :=
  if (s.cell ck).st = 1 then s.modCell ck (fun k => { k with st := if k.rcrc = crc then 2 else 3 }) else s

/-- The clear command (R209). -/
def State.kilnClear (s : State) (ck : Nat) : State :=
  if (s.cell ck).busy then s else (s.wipe ck).modCell ck (fun k => { k with st := 0 })

/-- A CFGWR to one cell (R208 to R210): fused and retired cells are skipped, and so is a spare, which nothing addresses before a repair
enables it (R2). (DEDUCED, log 81) -/
def State.kilnWrite (s : State) (ck region woff : Nat) (v : Word) : State :=
  let k := s.cell ck
  if s.unusable ck then s
  else if region = 6 then
    (if fld v.toNat 31 2 ≠ 0 then s
     else
      match v.toNat % 4 with
      | 1 => s.kilnBegin ck
      | 2 => s.kilnSeal ck (BitVec.ofNat 32 (v.toNat / 2 ^ 32))
      | 3 => s.kilnClear ck
      | _ => s)
  else if k.st ≠ 1 then (if k.busy then s else s.modCell ck (fun k => { k with st := 3 }))
  else if region = 7 ∧ k.scratch ≤ woff / 16384 then s.modCell ck (fun k => { k with st := 3 })
  else
    let s := s.modCell ck (fun k => { k with rcrc := BitVec.ofNat 32 (crcMore k.rcrc.toNat (toBytes 8 v.toNat)) })
    if region = 7 then s.putNum (tileKey ck (8 * woff)) 8 v.toNat
    else s.modCell ck (fun k => k.setWord region woff v)

/-- A CFGRD of one cell (R2, R208, R210). (DEDUCED, log 81) -/
def State.kilnRead (s : State) (ck region woff : Nat) : Word :=
  let k := s.cell ck
  if region = 6 then s.cellStatus ck
  else if s.unusable ck then 0
  else if region = 7 then (if woff / 16384 < k.scratch then BitVec.ofNat 64 (s.num (tileKey ck (8 * woff)) 8) else 0)
  else k.word region woff

/-- The cells of a rectangle; none when it is invalid (R210). -/
def rectangle (cell c : Nat) : Option (List Nat) :=
  if c = 0 then some [cell]
  else
    let rows := fld c 3 0 + 1
    let cols := fld c 7 4 + 1
    if c / 2 ^ 8 ≠ 1 ∨ 12 < cell / 12 + rows ∨ 12 < cell % 12 + cols then none
    else some ((List.range rows).flatMap (fun i => tab cols (fun j => cell + 12 * i + j)))

/-- What CFGWR and CFGRD share: the privilege, the sources, the head of the domain, a valid Kiln address (R200, R208, R210). -/
def State.kiln (s : State) (w : Fields) (opc : Nat) (srcs dsts : List Operand) (f : Ctx → Nat → Res) : Res :=
  if (s.ctx s.cur).priv = false then privTrap opc
  else s.srcs srcs dsts (fun c =>
    let a := (c.raw w w.a).toNat
    if s.isHead s.cur = false then .wait .head
    else if kilnOk a then f c a else .trap 7 (permInfo a 1 0))

def execCfgwr (w : Fields) (s : State) : Host.Outcome State Fault Refusal :=
  s.word w (fun s => s.kiln w 0x384 [w.a, w.b, w.c] [] (fun c a =>
    match rectangle (fld a 7 0) (c.raw w w.c).toNat with
    | none => .trap 7 (permInfo a 1 0)
    | some l => .ok (l.foldl (fun s cell => s.kilnWrite (cellKey (fld a 9 8) cell) (fld a 15 12) (fld a 39 16) (c.raw w w.b)) s)))

def execCfgrd (w : Fields) (s : State) : Host.Outcome State Fault Refusal :=
  s.word w (fun s => s.kiln w 0x385 [w.a] [w.d] (fun c a =>
    let v := s.kilnRead (cellKey (fld a 9 8) (fld a 7 0)) (fld a 15 12) (fld a 39 16)
    .ok (s.put { c with arch := c.arch.ws w.d.idx.toNat v })))

/-- BEGIN, SEAL and CLEAR reach one cell over Kiln (R209, R333). -/
def execBeginLoad (die cell : Nat) (s : State) : Host.Outcome State Fault Refusal := .next (s.kilnBegin (cellKey die cell))
def execSealLoad (die cell : Nat) (crc : BitVec 32) (s : State) : Host.Outcome State Fault Refusal :=
  .next (s.kilnSeal (cellKey die cell) crc)
def execClearLoad (die cell : Nat) (s : State) : Host.Outcome State Fault Refusal := .next (s.kilnClear (cellKey die cell))

/-! ### Digests and HALT -/

def execCrc32c (w : Fields) (s : State) : Host.Outcome State Fault Refusal :=
  s.word w (fun s => s.srcs [w.a, w.b] [w.d] (fun c =>
    let b := if w.b.cls = 1 then (c.vec w.b).toNat else (c.raw w w.b).toNat
    let v := crcRaw (c.raw w w.a).toNat (toBytes (immOf w w.c).toNat b)
    .ok (s.put { c with arch := c.arch.ws w.d.idx.toNat (BitVec.ofNat 64 v) })))

def execSm3c (w : Fields) (s : State) : Host.Outcome State Fault Refusal :=
  s.word w (fun s => s.srcs [w.a, w.b] [w.d] (fun c =>
    let v := (elems 32 8 (c.vec w.a).toNat).map (BitVec.ofNat 32)
    let r := sm3CF v (toBytes 64 (c.vec w.b).toNat)
    .ok (s.put { c with arch := c.arch.wv w.d.idx.toNat (BitVec.ofNat 2048 (pack 32 (r.map BitVec.toNat))) })))

def execHalt (w : Fields) (s : State) : Host.Outcome State Fault Refusal :=
  s.word w (fun s => s.srcs [w.a] [] (fun c =>
    .stay (match c.arch.trapped with
      | some _ => s.failUnit s.cur c.cause.toNat c.finfo
      | none => s.failUnit s.cur 0 (c.raw w w.a))))

end Sys2Proof.Machine
end

