-- ==== Sys2Proof/Machine/Launch.lean ====
section
/-!
DEFINITION. Class 0xD: LAUNCH, CANCEL and CSTAT (R213 to R218), and what the scheduler grants (R215, R311).
-/

namespace Sys2Proof.Machine

/-- The inbox of a die's scheduler (R309). (DEDUCED, log 18) -/
def schedBox (die : Nat) : Nat := 0x3000 + die * 2 ^ 10

/-- The launch that a unit's reserve entries come from, on the die whose scheduler it asks (R311). -/
def State.issuer (s : State) (x : CtxId) : Option Launch :=
  let u := (s.ctx x).info
  if u.sdie = x.die then (s.launch? u.sdie u.lkey).filter (fun (l : Launch) => !l.ended) else none

/-- What is left of a launch's reserve once its descheduled LAUNCHes that it covers have had theirs, in the order they were made (R215, R311). (DEDUCED, log 38) -/
def Sched.spare (d : Sched) (l : Launch) : Nat :=
  (d.waits.filter (fun w => w.lkey == l.key)).foldl (fun r w => if w.need ≤ r then r - w.need else r) l.reserve

/-- Takes entries for a LAUNCH, from the issuer's reserve first, then from the pool (R215): none when they are short, or when they
go to earlier LAUNCHes that wait (R311). (DESIGN CHOICE, log 6; DEDUCED, log 18 and 38) -/
def State.takeEntries (s : State) (x : CtxId) (n : Nat) : Option (State × LGrant) :=
  let d := s.sched x.die
  let res := min n (((s.issuer x).map d.spare).getD 0)
  if d.room < n - res ∨ (res < n ∧ !d.waits.isEmpty) then none
  else
    let u := (s.ctx x).info
    let s := s.modLaunch u.sdie u.lkey (fun l => { l with reserve := l.reserve - res })
    some (s.modSched x.die (fun d => { d with pool := d.pool - (n - res), ids := d.ids + 1, progress := s.clk.toNat }),
      { id := launchId x.die d.ids, res := res, pool := n - res, ldie := u.sdie, lkey := u.lkey })

/-- The SLAUNCH message of a LAUNCH (R309). -/
def launchMsg (a reserve : Nat) : Msg := BitVec.ofNat 512 (0x30 + 0xFFFF * 2 ^ 24 + a * 2 ^ 256 + reserve * 2 ^ 320)

/-- The effect of a granted LAUNCH: the id in D, the message in the open round (R215). -/
def State.launched (s : State) (x : CtxId) (w : Fields) (g : LGrant) : State :=
  s.modCtx x (fun c =>
    let m := stamp c.arch.asid (launchMsg (c.raw w w.a).toNat (c.raw w w.b).toNat)
    { c with arch := c.arch.ws w.d.idx.toNat (BitVec.ofNat 64 g.id)
             opn := { c.opn with msgs := c.opn.msgs ++ [Buffered.launch g (schedBox x.die) m] } })

def execLaunch (w : Fields) (s : State) : Host.Outcome State Fault Refusal :=
  s.word w (fun s =>
    let x := s.cur
    let arch := (s.ctx x).arch
    -- BT of A chooses between the trap and the wait; it has no EMPTY meaning here
    s.srcs [{ w.a with bt := false }, w.b] [w.d] (fun c =>
      let r := (c.raw w w.b).toNat
      if 4095 < r then .trap 0x0B 2
      else
        match (if (s.sched x.die).waits.any (fun v => v.x == x) then none else s.takeEntries x (1 + r)) with
        | some (t, g) => if 1024 ≤ c.opn.used then bufferFull else .ok (t.launched x w g)
        | none =>
          if w.a.bt then .trap 0x0B 1
          else
            let d := s.sched x.die
            let waits := if d.waits.any (fun v => v.x == x) then d.waits else d.waits ++ [{ x := x, need := 1 + r, lkey := ((s.issuer x).map (fun l => l.key)).getD 0 }]
            .block ((s.setSched x.die { d with waits := waits }).modCtx x (fun c => { c with arch := arch.clear (.s w.d.idx.toNat) }))
              (.pool (1 + r))))

/-- SCANCEL as CANCEL sends it (R218, R309). -/
def cancelMsg (a level : Nat) : Msg := BitVec.ofNat 512 (0x33 + 0xFFFF * 2 ^ 24 + a * 2 ^ 256 + level * 2 ^ 320)

/-- Continues with the home of a completion record, its die and offset (R217, R218). -/
def recordAt (a : Nat) (k : Nat → Nat → Nat → Res) : Res :=
  match addrWord a with
  | some (.die d off) => if 2 ^ 24 < off + 32 then .trap 7 (permInfo a 1 0) else k (dieKey d off) d off
  | _ => .trap 7 (permInfo a 1 0)

/-- (DEDUCED, log 18) -/
def execCancel (w : Fields) (s : State) : Host.Outcome State Fault Refusal :=
  s.word w (fun s => s.srcs [w.a] [] (fun c =>
    let a := (c.raw w w.a).toNat
    recordAt a (fun _ d _ => s.buffer (.cancel (schedBox d) (stamp c.arch.asid (cancelMsg a w.fn.toNat))))))

/-- LEVEL and STATUS of a record (R216). -/
def State.recLevel (s : State) (r : Nat) : Nat := s.num (r + 17) 1
def State.recStatus (s : State) (r : Nat) : Nat := s.num (r + 18) 1

/-- (DEDUCED, log 18) -/
def execCstat (w : Fields) (s : State) : Host.Outcome State Fault Refusal :=
  s.word w (fun s => s.srcs [w.a] [w.d] (fun c =>
    match c.orderWait false with
    | some r => r
    | none =>
      recordAt (c.raw w w.a).toNat (fun r d off =>
        match firstRes [c.atomicWait r 32, c.loadWait r 32] with
        | some x => x
        | none =>
          if s.recLevel r ≠ w.fn.toNat then .trap 0x0B 3
          else
            let sel := (immOf w w.b).toNat
            let wait := bit sel 2
            let p : Prod := { id := s.serial, serial := c.opn.serial, dst := .s w.d.idx.toNat,
                              acq := if wait then some 4 else none, kind := .cstat r (sel % 4) wait }
            let c := { c with opn := c.opn.read .d d off 32 }
            .ok { s.put (c.produce p) with serial := s.serial + 1 })))

end Sys2Proof.Machine
end

