-- ==== Sys2Proof/Machine/Matrix.lean ====
section
/-!
DEFINITION. The matrix island (R178 to R190): its queues, tiles and accumulators, and class 0xB. Words enter the queues here; the
events of `Machine/Closing.lean` perform them.
-/

namespace Sys2Proof.Machine

/-! ### Accumulators and lists -/

/-- A row of a physical accumulator. -/
def Cell.accRow (k : Cell) (a i : Nat) : Nat := (k.accs.getD (32 * a + i) 0).toNat

/-- The declared k of a physical accumulator as its queued operations will leave it, 0 for a plain one (R188, R191). -/
def Cell.listK (k : Cell) (a : Nat) : Nat :=
  match (k.island.cq.filter (fun e => e.acc == a && (match e.op with
      | .rldecl _ => true
      | _ => false))).getLast? with
  | some e => match e.op with
    | .rldecl n => n
    | _ => 0
  | none => k.lists.getD a 0

/-- The accumulators a closing-queue entry names. -/
def CloseEnt.accs (e : CloseEnt) : List Nat :=
  match e.op with
  | .rlpushA _ src _ => [e.acc, src]
  | _ => [e.acc]

/-- The unscaled row a row-queue entry will write, if any. -/
def RowEnt.acc? (e : RowEnt) : Option Nat :=
  match e.op with
  | .row a _ ty _ => if ty < 11 then some a else none
  | _ => none

/-- Whether every operation queued on an accumulator has been performed (R188). -/
def Island.quiet (i : Island) (a : Nat) : Bool :=
  !(i.rq.any (fun e => e.acc? == some a)) && !(i.cq.any (fun e => e.accs.contains a))

/-- A trap with cause MATRIX (R190). -/
def matrixTrap (kind unit : Nat) : Res := .trap 0x0A (BitVec.ofNat 64 (kind + unit % 8 * 2 ^ 4))

/-- A trap with cause LIST (R199). -/
def listTrap (kind : Nat) : Res := .trap 0x10 (BitVec.ofNat 64 kind)

/-- A word that waits for the island. -/
def State.islandWait (s : State) : Res := .wait (.island (s.cell s.cur.ck).island.progress)

/-- A word of the island's holder (R178). (DEDUCED, log 47) -/
def State.held (s : State) (k : Res) : Res :=
  if (s.cell s.cur.ck).island.holder = some s.cur.ctx then k else matrixTrap 1 0

/-! ### Queues -/

/-- Appends entries to the row queue in program order. -/
def Island.addRows (i : Island) (ctx serial : Nat) (ops : List RowOp) : Island :=
  { i with rq := i.rq ++ ops.map (fun o => { ctx := ctx, serial := serial, ord := i.ord, op := o }), ord := i.ord + 1 }

/-- Appends an operation to the closing queue. -/
def Island.addClose (i : Island) (ctx serial acc : Nat) (o : CloseOp) : Island :=
  { i with cq := i.cq ++ [{ ctx := ctx, serial := serial, ord := i.ord, acc := acc, op := o }], ord := i.ord + 1 }

/-- Queues an operation for the closing unit once the queue has room (R178). -/
def State.queueClose (s : State) (acc : Nat) (o : CloseOp) : Res :=
  let c := s.ctx s.cur
  if 32 ≤ (s.cell s.cur.ck).island.cq.length then s.islandWait
  else .ok (s.modCell s.cur.ck (fun k => { k with island := k.island.addClose s.cur.ctx c.opn.serial acc o }))

/-- Whether the head of the row queue waits only for a push of its own context into a context-fed ring that no queued MDRN makes (R184, R188). -/
def State.rowStuck (s : State) (x : CtxId) : Option Nat :=
  match (s.cell x.ck).island.rq.head? with
  | none => none
  | some e =>
    let b? : Option Nat := match e.op with
      | .row _ _ _ b => some b
      | .mldb b _ => some b
      | .mswap => none
    match b? with
    | none => none
    | some b =>
      let r := (s.ctx x).ring b
      if e.ctx = x.ctx ∧ r.fed = false ∧ r.held = 0 ∧ s.appending x false b = false then some b else none

/-- The tile map as the queued operations will leave it: the types that later rows find (R182, R183). -/
def TileMap.after (t : TileMap) : List RowEnt → TileMap
  | [] => t
  | e :: r => TileMap.after (match e.op with
    | .mldb _ ty => { t with lty := ty }
    | .mswap => { act := t.load, load := t.act, aty := t.lty, lty := t.aty }
    | .row .. => t) r

/-! ### MLDB, MSWAP, MMA -/

/-- The slots that queued operations of a context will append to a ring (R188). -/
def State.ringAppends (s : State) (x : CtxId) (b : Nat) : Nat :=
  ((s.cell x.ck).island.cq.filter (fun e => e.ctx == x.ctx && (match e.op with
    | .drainB _ _ _ _ _ d => d == b
    | _ => false))).length

/-- The ring that a row-queue operation takes a slot of. -/
def RowOp.ring? : RowOp → Option Nat
  | .row _ _ _ b => some b
  | .mldb b _ => some b
  | .mswap => none

/-- The homes of a ring's slots: the first, and how many bytes. -/
def State.ringSpan (s : State) (c : Ctx) (b : Nat) : Nat × Nat := (tileKey s.cur.ck (c.ring b).base, (c.ring b).n * (c.ring b).size)

/-- What a word waits for whose operation reads or fills spans of scratch later, in the matrix island: pending acquires, direct stores, and
atomics and WAITWs there (R135, R136, R147). (DEDUCED, log 71) -/
def Ctx.scratchWait (c : Ctx) (spans : List (Nat × Nat)) : Option Res :=
  firstRes (c.orderWait false :: c.storeWait :: spans.map (fun e => c.atomicWait e.1 e.2))

/-- Queues rows once the queue has room (R178). For an MMA, room that only the context's own later pushes can make traps (R184). (DEDUCED, log 70) -/
def State.queueRows (s : State) (c : Ctx) (mma : Bool) (ops : List RowOp) : Res :=
  let i := (s.cell s.cur.ck).island
  match c.scratchWait (ops.filterMap (fun o => o.ring?.map (fun b => s.ringSpan c b))).dedup with
  | some r => r
  | none =>
  if 64 < i.rq.length + ops.length then
    match s.rowStuck s.cur with
    | some b => if mma then matrixTrap 8 b else s.islandWait
    | none => s.islandWait
  else .ok (s.modCell s.cur.ck (fun k => { k with island := k.island.addRows s.cur.ctx c.opn.serial ops }))

def execMldb (w : Fields) (s : State) : Host.Outcome State Fault Refusal :=
  s.word w (fun s => s.srcs [] [] (fun c =>
    s.held (if (c.ring w.a.idx.toNat).sz ≠ 8 then matrixTrap 6 w.a.idx.toNat
      else s.queueRows c false [.mldb w.a.idx.toNat w.ty.toNat])))

def execMswap (w : Fields) (s : State) : Host.Outcome State Fault Refusal :=
  s.word w (fun s => s.srcs [] [] (fun c => s.held (s.queueRows c false [.mswap])))

/-- The rows that MMA multiplies (R183): those of a mask, or the first n; none for a bad count. -/
def Ctx.mmaRows (c : Ctx) (w : Fields) : Option (List Nat) :=
  if w.b.cls = 2 then some ((List.range 32).filter (fun i => (c.arch.rm (w.b.idx.toNat - 16)).getLsbD i))
  else
    let n := (c.raw w w.b).toNat
    if n = 0 ∨ 32 < n then none else some (List.range n)

/-- Block-scaled types (R53). -/
def scaled (ty : Nat) : Bool := 11 ≤ ty

/-- Rows of the row queue that will make partial rows. -/
def Island.scaledRows (i : Island) : List (Nat × Nat) :=
  i.rq.filterMap (fun e => match e.op with
    | .row a _ ty _ => if scaled ty then some (a, ty) else none
    | _ => none)

/-- Rows that queued MSCAs claim, of any round or of rounds other than one. -/
def Island.claims (i : Island) (keep : CloseEnt → Bool) : Nat :=
  ((i.cq.filter keep).map (fun e => match e.op with
    | .msca _ _ _ n => n
    | _ => 0)).foldl (· + ·) 0

/-- Partial-queue places that only a later MSCA, or the commit of the open round, can free (R184). -/
def Island.bound (i : Island) (serial : Nat) : Nat :=
  i.pq.length + i.scaledRows.length
    - ((i.pq.filter (fun p => (p.used.map (fun u => u != serial)).getD false)).length + i.claims (fun e => e.serial != serial))

def execMma (w : Fields) (s : State) : Host.Outcome State Fault Refusal :=
  s.word w (fun s => s.srcs (if w.b.cls = 2 then [] else [w.b]) [] (fun c =>
    let k := s.cell s.cur.ck
    let i := k.island
    let ty := w.ty.toNat
    let a := c.acc w.d.idx.toNat
    let b := w.a.idx.toNat
    s.held (
      if k.listK a ≠ 0 ∧ scaled ty = false then listTrap 3
      else if (c.ring b).declared = false ∨ (c.ring b).sz ≠ 0 then matrixTrap 6 b
      else if (i.tiles.after i.rq).aty ≠ ty then matrixTrap 2 0
      else
        match c.mmaRows w with
        | none => matrixTrap 7 w.d.idx.toNat
        | some rows =>
          if scaled ty ∧ 64 < i.bound c.opn.serial + rows.length then matrixTrap 3 0
          else if (c.ring b).fed = false ∧ (c.ring b).held + s.ringAppends s.cur b < s.queuedOn s.cur b + rows.length then matrixTrap 8 b
          else s.queueRows c true (rows.map (fun r => .row a r ty b)))))

/-! ### MSCA, MZERO, MDRN, MSTAT -/

/-- The bytes of a scratch span must exist (R128, R185). -/
def State.spanTrap (s : State) (a n : Nat) : Option Res := s.formTrap .s (accParts a n 0 none)

def execMsca (w : Fields) (s : State) : Host.Outcome State Fault Refusal :=
  s.word w (fun s => s.srcs [w.a, w.b, w.c] [] (fun c =>
    let k := s.cell s.cur.ck
    let i := k.island
    let a := c.acc w.d.idx.toNat
    let n := (c.raw w w.c).toNat
    let sa := (c.raw w w.a).toNat
    let sb := (c.raw w w.b).toNat
    let tags := (((i.pq.filter (fun p => p.used.isNone)).map (fun p => (p.acc, p.ty))) ++ i.scaledRows).drop (i.claims (fun _ => true))
    s.held (
      if n = 0 ∨ 32 < n then matrixTrap 7 w.d.idx.toNat
      else if tags.length < n then matrixTrap 5 w.d.idx.toNat
      else if (tags.take n).any (fun t => t != (a, w.ty.toNat)) then matrixTrap 4 w.d.idx.toNat
      else if k.listK a ≠ 0 then listTrap 3
      else
        match firstRes [s.spanTrap sa 128, s.spanTrap sb 1024,
            c.scratchWait [(tileKey s.cur.ck sa, 128), (tileKey s.cur.ck sb, 1024)]] with
        | some r => r
        | none => s.queueClose a (.msca w.ty.toNat sa sb n))))

def execMzero (w : Fields) (s : State) : Host.Outcome State Fault Refusal :=
  s.word w (fun s => s.srcs [] [] (fun c =>
    let a := c.acc w.d.idx.toNat
    if (s.cell s.cur.ck).listK a ≠ 0 then listTrap 3 else s.queueClose a .mzero))

/-- Adds a producer whose value the closing unit delivers, and queues its operation (R178, R198). -/
def State.queueTo (s : State) (acc : Nat) (dst : Reg) (kind : Await) (op : Nat → CloseOp) : Res :=
  let id := s.serial
  (({ s with serial := id + 1 }).queueClose acc (op id)).bind (fun t =>
    .ok (t.modCtx t.cur (fun c =>
      let p : Prod := { id := id, serial := c.opn.serial, dst := dst, kind := kind }
      if kind = Await.settle then { c with prods := c.prods ++ [p] } else c.produce p)))

/-- A row of an accumulator converted by MDRN, as elements of the destination type (R187). -/
def drainRow (src dst rnd : Nat) (sat : Bool) (row : Nat) : List Nat :=
  (elems 32 256 row).map (fun x => convert src dst (Rnd.ofCode rnd) sat x)

/-- Splits bytes of a converted row into beats of 256 bytes, the last with a level (R187). -/
def rowBeats (wb bytes lvl : Nat) : List Beat :=
  tab wb (fun b => dataBeat 256 (if b + 1 = wb then lvl else 0) (BitVec.ofNat 2048 (bytes >>> (2048 * b))))

/-- Room for n beats on an outbound port, as QPUSH waits and traps (R156, R187, R194). -/
def Ctx.beatsWait (c : Ctx) (q n : Nat) : Option Res :=
  let p := c.port q
  if p.room n then none
  else if p.depth < c.ownBeats q + n then some (portTrap 8 q)
  else some (.wait (.portOut q n))

/-- The beats that queued operations of a context may still append to a port (R188). -/
def State.appends (s : State) (x : CtxId) (q : Nat) : Nat :=
  ((s.cell x.ck).island.cq.map (fun e => if e.ctx = x.ctx then (match e.op with
    | .drainQ _ _ _ _ _ d _ n => if d = q then n else 0
    | .rlsend _ d _ n => if d = q then n else 0
    | _ => 0) else 0)).foldl (· + ·) 0

/-- MDRN into a port or ring: it waits or traps as QPUSH and BPUSH do, and the closing unit appends (R178, R187, R188). (DEDUCED, log 25) -/
def State.drainOut (s : State) (w : Fields) (c : Ctx) (a row : Nat) : Res :=
  let dst := w.ty.toNat
  let wb := tyBits dst / 8
  let d := w.d.idx.toNat
  let src := w.fn.toNat / 16
  let rnd := w.fn.toNat % 8
  if w.d.cls = 4 then
    match c.outMisuse d, c.beatsWait d (s.appends s.cur d + wb) with
    | some r, _ => r
    | none, some r => if s.appends s.cur d = 0 then r else s.islandWait
    | none, none => s.queueClose a (.drainQ src dst rnd (Fields.sat w) row d (immOf w w.c).toNat wb)
  else
    let r := c.ring d
    if r.fed then fedTrap d
    else if r.size < 256 * wb then ringTrap 6 d
    else
      match firstRes [c.pushWait d, c.scratchWait [s.ringSpan c d]] with
      | some x => x
      | none =>
        if r.free ≤ s.ringAppends s.cur d then s.islandWait
        else s.queueClose a (.drainB src dst rnd (Fields.sat w) row d)

/-- (DEDUCED, log 25) -/
def execMdrn (w : Fields) (s : State) : Host.Outcome State Fault Refusal :=
  s.word w (fun s => s.srcs [w.b] (if w.d.cls = 1 then [w.d] else []) (fun c =>
    let k := s.cell s.cur.ck
    let a := c.acc w.a.idx.toNat
    let row := (c.raw w w.b).toNat
    if 32 ≤ row then matrixTrap 7 w.a.idx.toNat
    else if k.listK a ≠ 0 then listTrap 3
    else if w.d.cls = 1 then
      s.queueTo a (.v w.d.idx.toNat) .closing (fun id =>
        .mdrn (w.fn.toNat / 16) w.ty.toNat (w.fn.toNat % 8) (Fields.sat w) row w.d.idx.toNat (immOf w w.c).toNat id)
    else s.drainOut w c a row))

/-- The island state word (R186). -/
def Island.stat (i : Island) : Word :=
  BitVec.ofNat 64 (i.rq.length % 2 ^ 7 + i.pq.length % 2 ^ 7 * 2 ^ 7 + b2n i.filling.isSome * 2 ^ 14 + i.tiles.aty % 16 * 2 ^ 15
    + i.tiles.lty % 16 * 2 ^ 19 + (i.holder.getD 0) % 4 * 2 ^ 23 + b2n i.holder.isSome * 2 ^ 25 + i.cq.length % 2 ^ 6 * 2 ^ 26)

def execMstat (w : Fields) (s : State) : Host.Outcome State Fault Refusal :=
  s.word w (fun s => s.srcs [] [w.d] (fun c =>
    .ok (s.put { c with arch := c.arch.ws w.d.idx.toNat (s.cell s.cur.ck).island.stat })))

end Sys2Proof.Machine
end

