-- ==== Sys2Proof/Machine/Trans.lean ====
section
/-!
DEFINITION. The transcendental functions, correctly rounded (R58, R117): an enclosure of the exact value by integers at
a growing precision, accepted when both ends round alike. Every bound is rigorous. What no precision tried settles is found for exp2
and log2 by exact comparison of powers; for the sigmoid alone it is a free value (log 8).
-/

namespace Sys2Proof.Machine

/-- An enclosure lo × 2^t < x < hi × 2^t of a positive value. -/
structure Encl where
  lo : Nat
  hi : Nat
  t : Int
  deriving DecidableEq, Repr

/-- Rounds an enclosed value when both ends agree. -/
def Encl.round (f : Fmt) (r : Rnd) (sat neg : Bool) (x : Encl) : Option Nat :=
  let a := roundMag f r sat neg x.lo x.t true
  let b := roundMag f r sat neg (x.hi - 1) x.t true
  if a = b then some a else none

/-- ln 2 × 2^p from below, by the series of 1 / (k 2^k); the error is below n + 1. -/
def ln2Sum (p : Nat) : Nat → Nat
  | 0 => 0
  | k + 1 => 2 ^ p / ((k + 1) * 2 ^ (k + 1)) + ln2Sum p k
def ln2Lo (p : Nat) : Nat := ln2Sum p p
def ln2Hi (p : Nat) : Nat := ln2Lo p + p + 2

/-- The Taylor sum of exp from term i on, each term truncated. -/
def expSum (p a : Nat) : Nat → Nat → Nat → Nat
  | 0, _, _ => 0
  | n + 1, i, term => term + expSum p a n (i + 1) (term * a / (i + 1) / 2 ^ p)

/-- exp(a / 2^p) × 2^p for 0 ≤ a < 2^p: bounds from n = p / 2 + 16 terms. -/
def expLo (p a : Nat) : Nat := expSum p a (p / 2 + 16) 0 (2 ^ p)
def expHi (p a : Nat) : Nat := expLo p a + 4 * (p / 2 + 16) + 4

/-- 2^(n + g / 2^p), 0 ≤ g < 2^p, at precision p. -/
def exp2Encl (p g : Nat) (n : Int) : Encl :=
  ⟨expLo p (g * ln2Lo p / 2 ^ p), expHi p (g * ln2Hi p / 2 ^ p + 1) + 1, n - p⟩

/-- atanh series: Σ z^(2i+1) / (2i+1), z2 = z² at precision p. -/
def atanhSum (p z2 : Nat) : Nat → Nat → Nat → Nat
  | 0, _, _ => 0
  | n + 1, i, term => term / (2 * i + 1) + atanhSum p z2 n (i + 1) (term * z2 / 2 ^ p)

/-- ln(m / 2^b) × 2^p for 2^b ≤ m < 2^(b+1): bounds. -/
def lnLo (p m b : Nat) : Nat :=
  let z := (m - 2 ^ b) * 2 ^ p / (m + 2 ^ b)
  2 * atanhSum p (z * z / 2 ^ p) (p / 2 + 16) 0 z
def lnHi (p m b : Nat) : Nat := lnLo p m b + 16 * (p / 2 + 16) + 16

/-- Tries the precisions in turn. -/
def tryPrec (f : Nat → Option Nat) : List Nat → Option Nat
  | [] => none
  | p :: r => (f p).orElse (fun _ => tryPrec f r)

/-- The precisions tried, in bits. -/
def precisions : List Nat := [256, 512, 1024]

/-- The largest number of at most `i` more bits, from `acc` on, that meets a test which holds up to some number and not beyond. -/
def largest (ok : Nat → Bool) : Nat → Nat → Nat
  | 0, acc => acc
  | i + 1, acc => largest ok i (if ok (acc + 2 ^ i) then acc + 2 ^ i else acc)

/-- ⌊2^(g / 2^s) × 2^64⌋ for 0 < g < 2^s, by comparison of exact powers: K ≤ 2^(g/2^s + 64) just when K^(2^s) ≤ 2^(g + 64 × 2^s). -/
def exp2Floor (s g : Nat) : Nat := largest (fun k => decide (k ^ 2 ^ s ≤ 2 ^ (g + 64 * 2 ^ s))) 65 0

/-- ⌊log2(m / 2^b) × 2^64⌋ for 2^b < m < 2^(b+1), by comparison of exact powers: K ≤ 2^64 × log2(m / 2^b) just when
2^(K + b × 2^64) ≤ m^(2^64). -/
def log2Floor (m b : Nat) : Nat := largest (fun k => decide (2 ^ (k + b * 2 ^ 64) ≤ m ^ 2 ^ 64)) 64 0

/-- 2^a rounded once, for every operand (R58). What the enclosures do not settle is found exactly: the value is irrational, so it lies
strictly between two neighbours at 64 bits of fraction, and no rounding boundary does. -/
def fexp2 (f : Fmt) (r : Rnd) (sat : Bool) (x : FVal) : Nat :=
  match x with
  | .nan => f.nanCode
  | .inf n => if n then signed f false 0 else roundVal f r sat (.inf false)
  | .fin n m e =>
    if m = 0 then roundMag f r sat false 1 0 false
    else if 2 ^ 12 ≤ (if 0 ≤ e then m <<< (min e 64).toNat else m >>> (-e).toNat) then
      (if n then roundMag f r sat false 1 (-4096) true else roundMag f r sat false 1 4096 true)
    else
      -- the exponent as an integer part and a fraction g / 2^s
      let s := (-e).toNat
      let v : Int := onGrid n m e (min e 0)
      let i := v / (2 ^ s : Nat)
      let g := (v % (2 ^ s : Nat)).toNat
      if g = 0 then roundMag f r sat false 1 i false
      else
        match tryPrec (fun p => (exp2Encl (p + s) (g * 2 ^ p) i).round f r sat false) precisions with
        | some c => c
        | none => roundMag f r sat false (exp2Floor s g) (i - 64) true

/-- log2 a rounded once (R117). What the enclosures do not settle is found exactly, as for exp2. -/
def flog2 (f : Fmt) (r : Rnd) (sat : Bool) (x : FVal) : Nat :=
  match x with
  | .nan => f.nanCode
  | .inf n => if n then f.nanCode else roundVal f r sat (.inf false)
  | .fin n m e =>
    if m = 0 then roundVal f r sat (.inf true)
    else if n then f.nanCode
    else
      let b := Nat.log2 m
      let i : Int := e + b
      if m = 2 ^ b then roundVal f r sat (FVal.ofInt false i 0)
      else
        match tryPrec (fun p =>
          -- log2 = i + ln(m / 2^b) / ln 2, at precision p
          let lo := lnLo p m b * 2 ^ p / ln2Hi p
          let hi := lnHi p m b * 2 ^ p / ln2Lo p + 1
          let low : Int := i * (2 ^ p : Nat) + lo
          let high : Int := i * (2 ^ p : Nat) + hi
          if 0 ≤ low then Encl.round f r sat false ⟨low.toNat, high.toNat, -(p : Int)⟩
          else if high ≤ 0 then Encl.round f r sat true ⟨(-high).toNat, (-low).toNat, -(p : Int)⟩
          else none) precisions with
        | some c => c
        | none =>
          let k : Int := i * (2 ^ 64 : Nat) + log2Floor m b
          if 0 ≤ k then roundMag f r sat false k.toNat (-64) true else roundMag f r sat true (-k - 1).toNat (-64) true

/-- 1 / a rounded once (R117). -/
def frcp (f : Fmt) (r : Rnd) (sat : Bool) (x : FVal) : Nat := fdiv f r sat (.fin false 1 0) x

/-- 1 / √a rounded once (R117): −0 gives −∞. -/
def frsq (f : Fmt) (r : Rnd) (sat : Bool) (x : FVal) : Nat :=
  match x with
  | .nan => f.nanCode
  | .inf n => if n then f.nanCode else signed f false 0
  | .fin n m e =>
    if m = 0 then roundVal f r sat (.inf n)
    else if n then f.nanCode
    else
      let odd := e % 2 = 1
      let m2 := if odd then 2 * m else m
      let e2 := (e - (if odd then 1 else 0)) / 2
      let s := 96 + Nat.log2 m2
      let k := natSqrt (4 ^ s / m2)
      roundMag f r sat false k (-e2 - s) (k * k * m2 != 4 ^ s)

/-- 1 / (1 + e^(−a)) rounded once (R117). (DESIGN CHOICE, log 8) -/
def fsig (f : Fmt) (r : Rnd) (sat : Bool) (x : FVal) : Nat :=
  match x with
  | .nan => f.nanCode
  | .inf n => if n then signed f false 0 else roundMag f r sat false 1 0 false
  | .fin n m e =>
    if m = 0 then roundMag f r sat false 1 (-1) false
    else if 2 ^ 12 ≤ (if 0 ≤ e then m <<< (min e 64).toNat else m >>> (-e).toNat) then
      (if n then roundMag f r sat false 1 (-4096) true
       else roundMag f r sat false (2 ^ 128 - 1) (-128) true)
    else
      (tryPrec (fun p =>
        -- y = |a| at precision p, e^y = 2^q × exp(rest)
        let y := if 0 ≤ e + p then m <<< (e + p).toNat else 0
        let q := y / ln2Hi p
        let lo := expLo p (y - q * ln2Hi p)
        let hi := expHi p (y - q * ln2Lo p + 1) + 1
        let one := 2 ^ p
        let s := 2 * p + q
        -- 1 / (1 + e^y) at scale 2^-s
        let tlo := 2 ^ (s + p) / (hi * 2 ^ q + one)
        let thi := 2 ^ (s + p) / (lo * 2 ^ q + one) + 1
        if y = 0 then none
        else if n then Encl.round f r sat false ⟨tlo, thi, -(s : Int)⟩
        else Encl.round f r sat false ⟨2 ^ s - thi, 2 ^ s - tlo, -(s : Int)⟩) precisions).getD (Config.hardCase m)

/-- The exp2 of R58 on f32 codes under RNE, for the sampler and RNORM. -/
def e2c (x : Nat) : Nat := fexp2 .f32 .rne false (FVal.ofCode .f32 x)

end Sys2Proof.Machine
end

