-- ==== Sys2Proof/Machine/Lists.lean ====
section
/-!
DEFINITION. Ranked lists (R60, R61, R191 to R199): the row layout, insertion, class 0xC and QFILT. Their effects are performed by
the closing unit.
-/

namespace Sys2Proof.Machine

/-! ### Rows of a list (R191) -/

/-- The pairs of a list row. -/
def rowPairs (x : Nat) : List (Nat × Nat) :=
  tab (fld x (8 * 512 + 6) (8 * 512)) (fun p => (elem 32 x (2 * p), elem 32 x (2 * p + 1)))

/-- NANS of a list row. -/
def rowNans (x : Nat) : Nat := elem 32 x 129

/-- K of a list row. -/
def rowK (x : Nat) : Nat := fld x (8 * 520 + 6) (8 * 520)

/-- A list row from its pairs (R191). -/
def listRow (k : Nat) (pairs : List (Nat × Nat)) (nans : Nat) : Nat :=
  pack 32 ((tab 64 (fun p => match pairs[p]? with
      | some e => [e.1, e.2]
      | none => [f32negInf, 0xFFFFFFFF])).flatten ++ [pairs.length, nans, k])

/-- Whether a pair ranks before another (R60). -/
def ranksBefore (a b : Nat × Nat) : Bool := f32lt b.1 a.1 || (f32eq a.1 b.1 && decide (a.2 < b.2))

/-- Puts a pair into its place unless an equal one is held (R60 rules 3 and 4). -/
def rankInsert (p : Nat × Nat) : List (Nat × Nat) → List (Nat × Nat)
  | [] => [p]
  | q :: r => if p = q then q :: r else if ranksBefore p q then p :: q :: r else q :: rankInsert p r

/-- Offers a pair to a list of k (R60): the pairs held and whether it was rejected as NaN. −0 is stored as +0. -/
def offer (k : Nat) (l : List (Nat × Nat)) (p : Nat × Nat) : List (Nat × Nat) × Bool :=
  if f32nan p.1 then (l, true)
  else ((rankInsert (if p.1 = 0x80000000 then 0 else p.1, p.2) l).take k, false)

/-- Offers pairs to a row of list storage (R60, R191). -/
def offerRow (row : Nat) (ps : List (Nat × Nat)) : Nat :=
  let r := ps.foldl (fun (acc : List (Nat × Nat) × Nat) p =>
    let o := offer (rowK row) acc.1 p
    (o.1, if o.2 then min (acc.2 + 1) 0xFFFFFFFF else acc.2)) (rowPairs row, rowNans row)
  listRow (rowK row) r.1 r.2

/-- The threshold of a row (R61). -/
def rowThreshold (row : Nat) : Nat :=
  let l := rowPairs row
  if rowK row = 0 ∨ l.length < rowK row then f32negInf else (l.getLast?.map (fun e => e.1)).getD f32negInf

/-- The pairs of a beat: ⌊VC/8⌋ of them (R194). -/
def beatPairs (b : Beat) : List (Nat × Nat) :=
  tab (beatCount b.sb / 8) (fun p => (elem 32 b.data.toNat (2 * p), elem 32 b.data.toNat (2 * p + 1)))

/-! ### Operands of class 0xC (R192) -/

/-- Continues with the physical accumulator of a list operand. -/
def State.listAcc (s : State) (c : Ctx) (i : Nat) (k : Nat → Res) : Res :=
  if (s.cell s.cur.ck).listK (c.acc i) = 0 then listTrap 1 else k (c.acc i)

/-- Continues with the physical accumulator of a plain operand. -/
def State.plainAcc (s : State) (c : Ctx) (i : Nat) (k : Nat → Res) : Res :=
  if (s.cell s.cur.ck).listK (c.acc i) ≠ 0 then listTrap 3 else k (c.acc i)

/-- Continues with a row operand. -/
def rowOp (r : Nat) (k : Nat → Res) : Res := if 32 ≤ r then listTrap 2 else k r

def execRldecl (w : Fields) (s : State) : Host.Outcome State Fault Refusal :=
  s.word w (fun s => s.srcs [w.a] [] (fun c =>
    let k := (c.raw w w.a).toNat
    if 64 < k then listTrap 4 else s.queueClose (c.acc w.d.idx.toNat) (.rldecl k)))

def execRlpush (w : Fields) (s : State) : Host.Outcome State Fault Refusal :=
  s.word w (fun s =>
    let vector := w.b.cls = 1
    s.srcs ([w.a] ++ (if vector then [w.b, w.c] ++ Fields.maskSrc w else [w.c])) [] (fun c =>
      s.listAcc c w.d.idx.toNat (fun a => rowOp (c.raw w w.a).toNat (fun r =>
        if vector then
          let act := (c.active w 8).zip (List.range 64)
          s.queueClose a (.rlpushV r (c.vec w.b) (c.vec w.c)
            (BitVec.ofNat 256 (act.foldl (fun m e => if e.1 then m ||| 2 ^ (4 * e.2) else m) 0)))
        else s.plainAcc c w.b.idx.toNat (fun p => s.queueClose a (.rlpushA r p ((c.raw w w.c).setWidth 32)))))))

/-- Whether beats at the head of a port hold what ends a merge: one with MK ≥ 1, or EOF (R194). -/
def endsMerge (l : List Beat) : Bool := l.any (fun b => b.sb == 0x1000 || beatMark b.sb != 0)

/-- Whether every slot of an inbound FIFO holds a beat that only the open round's end can free (R240). (DEDUCED, log 65) -/
def Ctx.fullIn (c : Ctx) (q : Nat) : Bool :=
  let p := c.port q
  let done := match c.closed with
    | some r => max p.first (r.endPorts.getD q p.first)
    | none => p.first
  p.depth ≤ p.base + p.fifo.length - done

/-- A merge from a port leaves issue once the closing queue has room, and takes its beats there (R178, R194). One that can be seen never to get
its beats traps here (R240). (DEDUCED, log 25) -/
def execRlmerge (w : Fields) (s : State) : Host.Outcome State Fault Refusal :=
  s.word w (fun s => s.srcs [w.a, w.b] [] (fun c =>
    s.listAcc c w.d.idx.toNat (fun a => rowOp (c.raw w w.a).toNat (fun r =>
      let q := w.b.idx.toNat
      if q = 0 then s.queueClose a (.rlmerge r [c.arch.tok])
      else
        let p := c.port q
        if p.closed = false ∧ endsMerge p.avail = false ∧ c.fullIn q then portTrap 8 q else s.queueClose a (.rlmergeQ r q)))))

/-- The beats in which RLSEND sends a row (R194). -/
def rowSends (row lvl : Nat) : List Beat :=
  let l := rowPairs row
  let n := (l.length + 31) / 32
  if l.isEmpty then [bareBeat lvl]
  else tab n (fun b =>
    let ps := (l.drop (32 * b)).take 32
    dataBeat (8 * ps.length) (if b + 1 = n then lvl else 0) (BitVec.ofNat 2048 (pack 32 (ps.flatMap (fun e => [e.1, e.2])))))

/-- RLSEND queues its append once the port has room for the beats it may send: as many as the row holds when nothing earlier is queued on
the list, else as many as k allows (R178, R188, R194). Room that may be too small for those waits for the earlier operations. (DEDUCED, log 25) -/
def execRlsend (w : Fields) (s : State) : Host.Outcome State Fault Refusal :=
  s.word w (fun s => s.srcs [w.b] [] (fun c =>
    let q := w.d.idx.toNat
    match c.outMisuse q with
    | some r => r
    | none =>
      s.listAcc c w.a.idx.toNat (fun a => rowOp (c.raw w w.b).toNat (fun r =>
        let k := s.cell s.cur.ck
        let lvl := (immOf w w.c).toNat
        let quiet := k.island.quiet a
        let n := if quiet then (rowSends (k.accRow a r) lvl).length else max 1 ((k.listK a + 31) / 32)
        match c.beatsWait q (s.appends s.cur q + n) with
        | some x => if quiet && s.appends s.cur q == 0 then x else s.islandWait
        | none => s.queueClose a (.rlsend r q lvl n)))))

def execRlread (w : Fields) (s : State) : Host.Outcome State Fault Refusal :=
  s.word w (fun s => s.srcs [w.b] [w.d] (fun c =>
    s.listAcc c w.a.idx.toNat (fun a => rowOp (c.raw w w.b).toNat (fun r =>
      s.queueTo a (.v w.d.idx.toNat) .closing (fun id => .rlread r (immOf w w.c).toNat w.d.idx.toNat id)))))

def execRlth (w : Fields) (s : State) : Host.Outcome State Fault Refusal :=
  s.word w (fun s => s.srcs [w.b] [w.d] (fun c =>
    s.listAcc c w.a.idx.toNat (fun a => rowOp (c.raw w w.b).toNat (fun r =>
      s.queueTo a (.s w.d.idx.toNat) .settle (fun id => .rlth r w.d.idx.toNat id)))))

def execRlclr (w : Fields) (s : State) : Host.Outcome State Fault Refusal :=
  s.word w (fun s => s.srcs [w.a] [] (fun c =>
    s.listAcc c w.d.idx.toNat (fun a =>
      let r := c.raw w w.a
      if r = BitVec.allOnes 64 then s.queueClose a (.rlclr none)
      else rowOp r.toNat (fun r => s.queueClose a (.rlclr (some r))))))

def execRnorm (w : Fields) (s : State) : Host.Outcome State Fault Refusal :=
  s.word w (fun s => s.srcs [w.b, w.c] [w.d] (fun c =>
    s.plainAcc c w.a.idx.toNat (fun a => rowOp (c.raw w w.b).toNat (fun r =>
      s.queueTo a (.s w.d.idx.toNat) .settle (fun id => .rnorm r (c.raw w w.c) w.d.idx.toNat id)))))

def execRscan (w : Fields) (s : State) : Host.Outcome State Fault Refusal :=
  s.word w (fun s => s.srcs [w.a] [] (fun c =>
    s.plainAcc c w.d.idx.toNat (fun a => rowOp (c.raw w w.a).toNat (fun r => s.queueClose a (.rscan r)))))

/-! ### QFILT (R161) -/

def execQfilt (w : Fields) (s : State) : Host.Outcome State Fault Refusal :=
  s.word w (fun s => s.srcs [w.b] [] (fun c =>
    let q := w.d.idx.toNat
    let p := c.port q
    match dstMisuse q with
    | some r => r
    | none =>
      if p.out ∨ p.kind ≠ 1 then portTrap 5 q
      else s.afterMerges q (
        s.listAcc c w.a.idx.toNat (fun a =>
          let r := c.raw w w.b
          if r = BitVec.allOnes 64 then .ok (s.put ((c.keepPort q).setPort q { p with filt := none, gen := p.gen + 1 }))
          else rowOp r.toNat (fun r => .ok (s.put ((c.keepPort q).setPort q { p with filt := some (a, r), drop := 0, gen := p.gen + 1 })))))))

end Sys2Proof.Machine
end

