-- ==== Sys2Proof/Machine/Translation.lean ====
section
/-!
DEFINITION. Table walks of contexts and their results (R347 to R349, R357), and the fault path: slots, XFAULT, the waiting party (R350
to R352). `Machine/Faults.lean` resolves the slots.
-/

namespace Sys2Proof.Machine

/-- The lowest-numbered slot that is not busy (R350). -/
def State.freeSlot (s : State) (die : Nat) : Option Nat := (List.range 64).find? (fun i => !bit (s.num (slotKey die i) 1) 2)

/-- The XFAULT message (R350). -/
def xfaultMsg (f : FaultWait) (slot : Nat) : Msg :=
  BitVec.ofNat 512 (0x50 + 0xFFFF * 2 ^ 24 + f.asid * 2 ^ 48 + f.va % 2 ^ 49 * 2 ^ 256 + f.party.box * 2 ^ 320 + f.kind * 2 ^ 336
    + f.level * 2 ^ 339 + b2n f.wr * 2 ^ 342 + b2n f.commit * 2 ^ 343 + slot * 2 ^ 344)

/-- Takes a slot for a waiting party and sends its message (R350). -/
def State.takeSlot (s : State) (f : FaultWait) (i : Nat) : State :=
  let b := slotKey f.die i
  let s := (s.putNum b 1 (putFld (s.num b 1) 0 3 4)).putNum (b + 8) 2 f.party.box
  let fcnt := dieKey f.die (tcb + 24)
  let s := s.putNum fcnt 4 (s.num fcnt 4 + 1)
  let s := s.send f.party.box false (s.num (dieKey f.die (tcb + 8)) 2) (xfaultMsg f i)
  { s with faults := s.faults ++ [{ f with slot := some i, res := 0 }] }

/-- A party faults: it takes a slot, or waits for one; with no handler the fault is fatal at once (R350). -/
def State.faultBy (s : State) (f : FaultWait) : State × Bool :=
  let f := { f with die := s.partyDie f.party }
  if s.num (dieKey f.die (tcb + 8)) 2 = 0xFFFF then (s, true)
  else
    match s.freeSlot f.die with
    | some i => (s.takeSlot f i, false)
    | none => ({ s with faults := s.faults ++ [{ f with slot := none }] }, false)

/-- %finfo of a fatal translation fault (R352). -/
def xlateInfo (f : FaultWait) : Word :=
  BitVec.ofNat 64 (f.va % 2 ^ 49 + f.kind * 2 ^ 49 + f.level * 2 ^ 52 + b2n f.wr * 2 ^ 55 + b2n f.commit * 2 ^ 56)

/-- A context faults: its round is voided, at a commit the closed round with every later one (R245, R347, R351). -/
def State.ctxFault (s : State) (x : CtxId) (f : FaultWait) : State :=
  let s := s.voidRounds x f.commit
  match s.faultBy { f with party := .ctx x } with
  | (s, true) => s.failUnit x 6 (xlateInfo f)
  | (s, false) => s.modCtx x (fun c => { c with wait := .fault })

/-- Whether a party waits on a fault. -/
def State.faulting (s : State) (p : Party) : Bool := s.faults.any (fun f => f.party == p && !f.gone && f.away.isNone)

/-- TRANSLATION_WALK: a walk reads the tables, and sets A on a leaf that grants the access (R348, R349). -/
def execTranslationWalk (k : Nat) (s : State) : Host.Outcome State Fault Refusal :=
  match s.walks[k]? with
  | some w =>
    if w.res.isSome then .next s
    else
      let r := s.walk w.x.die w.asid w.va w.wr w.hostBar
      let s := s.setAccessed r.2
      .next { s with walks := modIdx (fun w => { w with res := some r.1 }) s.walks k }
  | none => .next s

/-- WALK_RESULT: a result of an older generation is dropped and the walk starts again; a leaf fills the cache and the word that waited
issues again; otherwise the access faults (R349, R350, R357). -/
def execWalkResult (k : Nat) (s : State) : Host.Outcome State Fault Refusal :=
  match s.walks[k]? with
  | some w =>
    let t := (s.cell w.x.ck).tlb
    match w.res with
    | none => .next s
    | some r =>
      if w.gen ≠ t.gen then .next { s with walks := modIdx (fun w => { w with res := none, gen := t.gen }) s.walks k }
      else
        let s := { s with walks := dropIdx s.walks k, fresh := s.fresh + 1 }
        match r with
        | .leaf pa lg wr =>
          let e : TlbEnt := { asid := w.asid, va := w.va / 2 ^ lg * 2 ^ lg, lg := lg, pa := pa, wr := wr }
          .next (s.setTlb (.ctx w.x) (t.fill 256 (Config.freeNat s.fresh) e))
        | .bad kind level =>
          .next (s.ctxFault w.x { asid := w.asid, va := w.va, kind := kind, level := level, wr := w.wr })
  | none => .next s

end Sys2Proof.Machine
end

