-- ==== Sys2Proof/Machine/Sequencer.lean ====
section
/-!
DEFINITION. The sequencer (R78 to R86, R241 to R243, R248, R249): one step of a context's grammar per event. A step issues only for the
context that holds its cell's grant.
-/

namespace Sys2Proof.Machine

/-! ### Grammar entries (R78 to R81) -/

/-- What the sequencer looks at: a symbol with the offset of its entry, a nonterminal that no frame holds (the start symbol, or one
taken from PUSHN), the end of the whole derivation, or an entry that breaks R81, with whether it is an action symbol. -/
inductive Sym where
  | term (cls : Nat)
  | nonterm (n : Nat) (framed : Bool)
  | action (idx : Nat)
  | stop
  | finish
  | bad (goff : Nat) (act : Bool)
  deriving DecidableEq, Repr, Inhabited

/-- The offset of symbol i of a production (R80). -/
def Cell.symAt (k : Cell) (g : Gram) (p i : Nat) : Nat := g.base + 2 * (k.gword (g.base + g.odir + 2 * p) + i)

/-- Reads a symbol and checks it (R78, R81, R86). -/
def Cell.symbol (k : Cell) (g : Gram) (p i : Nat) : Sym :=
  let o := k.symAt g p i
  let e := k.gword o
  let idx := e % 2 ^ 14
  if e / 2 ^ 14 = 0 then (if 15 < idx then .bad o false else .term idx)
  else if e / 2 ^ 14 = 1 then (if g.nnt ≤ idx then .bad o false else .nonterm idx true)
  else if e / 2 ^ 14 = 2 then (if 8191 < idx ∨ (k.block idx).isNone then .bad o true else .action idx)
  else if idx ≠ 0 then .bad o false
  else .stop

/-- The first header field that breaks R80, by its offset (R81). (DEDUCED, log 76) -/
def Cell.headerBad (k : Cell) (g : Gram) : Option Nat :=
  if g.start / 2 ^ 6 ≠ 0 ∨ g.nnt ≤ g.start then some g.base
  else if g.nnt = 0 ∨ 64 < g.nnt then some (g.base + 2)
  else if g.nprod = 0 ∨ 4096 < g.nprod then some (g.base + 4)
  else if 4096 < g.npk then some (g.base + 6)
  else ((List.range 8).find? (fun i => k.gword (g.base + 16 + 2 * i) != 0)).map (fun i => g.base + 16 + 2 * i)

/-- The current symbol of a context (R82, R92, R241). -/
def State.symbolOf (s : State) (x : CtxId) : Sym :=
  let k := s.cell x.ck
  let c := s.ctx x
  let g := k.gram c.info.gbase
  match k.headerBad g with
  | some o => .bad o false
  | none =>
    match c.arch.sym, c.arch.stack with
    | some n, _ => .nonterm n false
    | none, [] => .finish
    | none, f :: _ => k.symbol g f.prod f.off

/-- A trap at a grammar entry (R76, R81). -/
def gramTrap (goff : Nat) : Res := .trap 1 (BitVec.ofNat 64 (9 + goff * 2 ^ 16))

/-- %finfo of a trap with cause PARSE (R82, R85). -/
def parseTrap (cls nt prod : Nat) : Res := .trap 3 (BitVec.ofNat 64 (cls + nt * 2 ^ 4 + prod * 2 ^ 10))

/-- A recovery entry (R80): its level and action block where the nonterminal declares one; a broken entry gives its offset. (DEDUCED, log 76) -/
def Cell.recoverEntry (k : Cell) (g : Gram) (n : Nat) : Except Nat (Option Recov) :=
  let o := g.base + g.orec + 4 * n
  let e := k.gword o + 2 ^ 16 * k.gword (o + 2)
  let lvl := fld e 3 1
  if fld e 15 4 ≠ 0 ∨ fld e 31 30 ≠ 0 then .error o
  else if !bit e 0 then (if e = 0 then .ok none else .error o)
  else if lvl = 0 ∨ (k.block (fld e 29 16)).isNone then .error o
  else .ok (some { level := lvl, act := fld e 29 16 })

/-! ### Shifting and expanding -/

/-- Shifts the head of q0 (R82, R84): it becomes the current token, and a mark at or above the round level sets the flag. EOF stays
available once the stream has ended (R35). -/
def Ctx.shift (c : Ctx) : Ctx :=
  if c.handed.isSome || c.arch.tok.sb == 0x1000 then { c with arch := { c.arch with tok := eofBeat } }
  else
    match (c.port 0).head? with
    | none => c
    | some b =>
      { c.setPort 0 (c.port 0).take with
        arch := { c.arch with tok := b, closePend := c.arch.closePend || c.info.rlvl ≤ beatMark b.sb } }

/-- Moves past a nonterminal or terminal of the current frame, or uses up a symbol that no frame holds. -/
def Arch.pass (a : Arch) (framed : Bool) : Arch :=
  if framed then
    match a.stack with
    | f :: r => { a with stack := { f with off := f.off + 1 } :: r }
    | [] => a
  else { a with sym := none }

/-- Expands a nonterminal by a production (R83): tail expansion replaces the frame when only the end symbol follows. The symbol that
follows is read, and so checked, here (R81); that an action symbol names a recorded block is checked when it is current (R86). -/
def State.expand (s : State) (x : CtxId) (g : Gram) (n p : Nat) (framed : Bool) : Res :=
  let c := s.ctx x
  let a := c.arch.pass framed
  let new : Frame := { prod := p, off := 0, nt := n }
  let put (l : List Frame) : Res := .stay (s.setCtx x { c with arch := { a with stack := l } })
  match a.stack with
  | [] => put [new]
  | f :: r =>
    match (s.cell x.ck).symbol g f.prod f.off with
    | .stop => put (new :: r)
    | .bad o act =>
      if !act || decide (8191 < (s.cell x.ck).gword o % 2 ^ 14) then gramTrap o
      else if 64 ≤ a.stack.length then .trap 4 (BitVec.ofNat 64 n) else put (new :: f :: r)
    | _ => if 64 ≤ a.stack.length then .trap 4 (BitVec.ofNat 64 n) else put (new :: f :: r)

/-! ### Errors and recovery (R248, R249) -/

/-- The first frame from the top whose nonterminal recovers: what remains below it, and its entry. -/
def Cell.recoverFrame (k : Cell) (g : Gram) : List Frame → Except Nat (Option (List Frame × Recov))
  | [] => .ok none
  | f :: r =>
    match k.recoverEntry g f.nt with
    | .error o => .error o
    | .ok (some e) => .ok (some (r, e))
    | .ok none => Cell.recoverFrame k g r

/-- An error: recovery starts at its target, or the context traps (R248, R249 step 1). -/
def State.parseError (s : State) (x : CtxId) (g : Gram) (cls nt prod : Nat) : Res :=
  let c := s.ctx x
  match (s.cell x.ck).recoverFrame g c.arch.stack with
  | .error o => gramTrap o
  | .ok none => parseTrap cls nt prod
  | .ok (some (r, e)) => .stay (s.setCtx x { c with arch := { c.arch with stack := r, sym := none, recov := some e } })

/-- Recovery at the failing nonterminal of a lookup: the frame moves past it (R249 step 1). -/
def State.recoverHere (s : State) (x : CtxId) (framed : Bool) (e : Recov) : Res :=
  let c := s.ctx x
  .stay (s.setCtx x { c with arch := { c.arch.pass framed with recov := some e } })

/-! ### Steps -/

/-- A step of a context: it holds the grant, is at a sequencer step and runs, and no freeze wave has come (R337). No step of an image that breaks R330 ever runs: its unit
fails. -/
def State.seqStep (s : State) (x : CtxId) (body : State → Ctx → Res) : Host.Outcome State Fault Refusal :=
  let c := s.ctx x
  if c.life = .live ∧ (s.cell x.ck).grant = some x.ctx ∧ c.arch.pos = .step ∧ c.frozen = false ∧ s.waved x.ck = false then
    let s := { s with cur := x }
    if c.info.bad then .next ((s.issued x).failUnit x 1 5) else s.finish x false (body s c)
  else .next s

/-- A step other than an action step, which a pending close comes before (R84); recovery is one step (R249). -/
def State.plainStep (s : State) (x : CtxId) (body : State → Ctx → Res) : Host.Outcome State Fault Refusal :=
  if (s.ctx x).arch.closePend ∨ (s.ctx x).arch.recov.isSome then .next s else s.seqStep x body

/-- TERMINAL_SHIFT (R82). -/
def execTerminalShift (x : CtxId) (s : State) : Host.Outcome State Fault Refusal :=
  match s.symbolOf x with
  | .term t =>
    s.plainStep x (fun s c =>
      match c.lookWait 1 with
      | some r => r
      | none =>
        let cls := beatClass ((c.look 1).getD eofBeat).sb
        if cls = t then
          let c := c.shift
          .stay (s.setCtx x { c with arch := c.arch.pass true })
        else
          match c.arch.stack with
          | f :: _ => s.parseError x (s.gramOf x) cls f.nt f.prod
          | [] => .stay s)
  | _ => .next s

/-- What a parse entry says at a column (R79, R81), with its offset. (DESIGN CHOICE, log 87) -/
def State.parseEntry (s : State) (x : CtxId) (g : Gram) (n cls entry goff : Nat) (framed : Bool) : Res :=
  let k := s.cell x.ck
  let kind := fld entry 13 12
  let idx := entry % 2 ^ 12
  if !bit entry 15 then
    (if entry ≠ 0 then gramTrap goff
     else
      match k.recoverEntry g n with
      | .error o => gramTrap o
      | .ok (some e) => s.recoverHere x framed e
      | .ok none => s.parseError x g cls n 0xFFF)
  else if kind = 3 then gramTrap goff
  else if kind = 0 then (if g.nprod ≤ idx then gramTrap goff else s.expand x g n idx framed)
  else if kind = 1 then
    match k.recoverEntry g n with
    | .error o => gramTrap o
    | .ok (some e) => s.recoverHere x framed e
    | .ok none => gramTrap goff
  else if cls ≠ 8 then gramTrap goff
  else
    let c := (s.ctx x).shift
    .stay (s.setCtx x { c with arch := c.arch.pass framed })

/-- NONTERMINAL_LOOKUP (R82, R83). -/
def execNonterminalLookup (x : CtxId) (s : State) : Host.Outcome State Fault Refusal :=
  match s.symbolOf x with
  | .nonterm n framed =>
    s.plainStep x (fun s c =>
      match c.lookWait 1 with
      | some r => r
      | none =>
        let k := s.cell x.ck
        let g := s.gramOf x
        let cls := beatClass ((c.look 1).getD eofBeat).sb
        let o := g.base + g.opt + 2 * (16 * n + cls)
        let e := k.gword o
        if bit e 15 && bit e 14 then
          if g.npk ≤ e % 2 ^ 12 ∨ fld e 13 12 = 3 then gramTrap o
          else
            match c.lookWait 2 with
            | some r => r
            | none =>
              let o2 := g.base + g.opk + 32 * (e % 2 ^ 12) + 2 * beatClass ((c.look 2).getD eofBeat).sb
              let e2 := k.gword o2
              if bit e2 15 && bit e2 14 then gramTrap o2 else s.parseEntry x g n cls e2 o2 framed
        else s.parseEntry x g n cls e o framed)
  | _ => .next s

/-- ACTION_STEP: the block is dispatched at its first word (R82, R86). -/
def execActionStep (x : CtxId) (s : State) : Host.Outcome State Fault Refusal :=
  match s.symbolOf x with
  | .action idx =>
    if (s.ctx x).arch.recov.isSome then .next s
    else
      s.seqStep x (fun s c =>
        let last := ((s.cell x.ck).block idx).getD idx
        .stay (s.setCtx x { c with arch := { c.arch.pass true with pos := .word idx idx last } }))
  | _ => .next s

/-- A step that waits for the commit of a closed round: it traps when rows of that round wait on a ring that only this context can
fill (R84, R188). -/
def State.bufferWait (s : State) (x : CtxId) : Option Res :=
  match (s.ctx x).closed, s.rowStuck x with
  | some r, some b =>
    some (if (s.cell x.ck).island.rq.any (fun e => e.ctx == x.ctx && e.serial == r.serial) then matrixTrap 8 b else .wait .buffer)
  | some _, none => some (.wait .buffer)
  | none, _ => none

/-- Acceptance (R85, R244): the final round closes and the unit completes once it commits. It waits for the other buffer (R84, R188); a
unit with a cancel stops instead (R322). -/
def State.acceptUnit (s : State) (x : CtxId) : Res :=
  if (s.ctx x).cancel then .stay (s.stopUnit x .cancelled)
  else
    match s.bufferWait x with
    | some r => r
    | none =>
      .stay ((s.modCtx x (fun c => { c with life := .accepted, arch := { c.arch with stack := [], sym := none } })).closeRound x true)

/-- END_STEP: the top frame is popped; the last one ends the derivation (R82, R85). A symbol that breaks R81 traps here too, a symbol of an action step
without waiting for a pending close (R84). (DESIGN CHOICE, log 87) -/
def execEndStep (x : CtxId) (s : State) : Host.Outcome State Fault Refusal :=
  match s.symbolOf x with
  | .stop =>
    s.plainStep x (fun s c =>
      match c.arch.stack with
      | _ :: g :: r => .stay (s.setCtx x { c with arch := { c.arch with stack := g :: r } })
      | l =>
        if c.arch.tok.sb = 0x1000 then s.acceptUnit x
        else parseTrap (beatClass c.arch.tok.sb) ((l.head?.map (fun f => f.nt)).getD 0) 0xFFE)
  | .finish =>
    s.plainStep x (fun s c =>
      if c.arch.tok.sb = 0x1000 then s.acceptUnit x
      else parseTrap (beatClass c.arch.tok.sb) (s.gramOf x).start 0xFFE)
  | .bad o act =>
    if (s.ctx x).arch.recov.isSome ∨ ((s.ctx x).arch.closePend ∧ !act) then .next s else s.seqStep x (fun _ _ => gramTrap o)
  | _ => .next s

/-- A close is part of the step that it comes before, which follows under the same grant (R84, R252). -/
def State.regrant (s : State) (x : CtxId) : State :=
  let c := s.ctx x
  if c.life == .live && !c.arch.closePend && c.arch.pos == .step then s.modCell x.ck (fun k => { k with grant := some x.ctx }) else s

/-- ROUND_CLOSE: the pending close before a step that is not an action step (R84, R243). It waits for the other buffer, or traps when that
round can only commit after a push of this context (R188). -/
def execRoundClose (x : CtxId) (s : State) : Host.Outcome State Fault Refusal :=
  let c := s.ctx x
  let isAction : Bool := match s.symbolOf x with
    | .action _ => true
    | .bad _ act => act
    | _ => false
  if c.arch.closePend = false ∨ c.arch.recov.isSome ∨ isAction then .next s
  else
    match s.seqStep x (fun s c => if c.cancel then s.closing (fun c => c) else (s.bufferWait x).getD (s.closing (fun c => c))) with
    | .next t => .next (t.regrant x)
    | o => o

/-- RECOVERY: one beat is discarded; the last one, or an EOF at the head, dispatches the recovery action (R249). -/
def execRecovery (x : CtxId) (s : State) : Host.Outcome State Fault Refusal :=
  match (s.ctx x).arch.recov with
  | none => .next s
  | some e =>
    s.seqStep x (fun s c =>
      match c.lookWait 1 with
      | some r => r
      | none =>
        let b := (c.look 1).getD eofBeat
        let last := ((s.cell x.ck).block e.act).getD e.act
        let go (c : Ctx) : Ctx := { c with arch := { c.arch with recov := none, pos := .word e.act e.act last } }
        if b.sb = 0x1000 then .stay (s.setCtx x (go c))
        else
          let c := c.shift
          .stay (s.setCtx x (if e.level ≤ beatMark b.sb then go c else c)))

end Sys2Proof.Machine
end

