-- ==== Sys2Proof/Machine/Ready.lean ====
section
/-!
DEFINITION. What the next word or step of a context would wait for (R252), and the points where a context may stop under a freeze wave
(R337).
-/

namespace Sys2Proof.Machine

/-! ### The sources of a word -/

/-- The source fields of a word that can be empty, as its entry lists them: registers of classes 0 and 1, and an inbound port
(R22, R109). QSTAT never waits (R160). The B/T bit of LAUNCH's A has no EMPTY meaning (R215). -/
def sourcesOf (i : Instr) (w : Fields) : List Operand :=
  match opSpec i with
  | none => []
  | some e =>
    let take (u : Use) (o : Operand) : List Operand :=
      match u with
      | .src _ _ => if o.cls = 0 ∨ o.cls = 1 ∨ (o.cls = 4 ∧ e.opc ≠ 0x283) then [o] else []
      | _ => []
    let third : List Operand :=
      match e.e with
      | .reg _ => if w.e.cls = 0 then [w.e] else []
      | _ => []
    take e.a { w.a with bt := w.a.bt && e.opc != 0x340 } ++ take e.b w.b ++ take e.c w.c ++ third

/-! ### The next word -/

/-- Decodes the word at a place in a block (R76, R77, R86): the instruction, or %finfo of the ILL trap. -/
def Cell.fetch (k : Cell) (nacc pc last : Nat) : Except Word Instr :=
  if 8191 < pc then .error 10
  else
    match decodeWord nacc (k.action pc) with
    | .error (.ill reason fbit) => .error (BitVec.ofNat 64 (reason + fbit * 2 ^ 8))
    | .error _ => .error 1
    | .ok i =>
      if pc ≠ last then .ok i
      else
        match i with
        | .enda w => .ok (.enda w)
        | .ill w => .ok (.ill w)
        | _ => .error 8

/-- The waits that R252 counts: a source, a full outbound port or ring, the head of the domain, the other buffer. -/
def Wait.counted : Wait → Bool
  | .regs _ => true
  | .portIn .. => true
  | .portOut .. => true
  | .ringIn .. => true
  | .ringOut _ => true
  | .head => true
  | .buffer => true
  | .hand => true
  | _ => false

/-- What a context was found to wait for, when a word or step of it was tried. -/
def waitIn (x : CtxId) (o : Host.Outcome State Fault Refusal) : Option Wait :=
  match o with
  | .next t => some (t.ctx x).wait |>.filter Wait.counted
  | _ => none

/-- What a word of the current context would wait for. Words with more to wait for than their operands are tried by their meaning, and so are
those that may trap before they look at their operands. -/
def State.wordWait (s : State) (i : Instr) : Option Wait :=
  let tried (o : Host.Outcome State Fault Refusal) : Option Wait := waitIn s.cur o
  match i with
  | .skipt w => tried (execSkipt w s)
  | .peek w => tried (execPeek w s)
  | .commit w => tried (execCommit w s)
  | .bpush w => tried (execBpush w s)
  | .bpop w => tried (execBpop w s)
  | .bret w => tried (execBret w s)
  | .qpush w => tried (execQpush w s)
  | .qmark w => tried (execQmark w s)
  | .qclose w => tried (execQclose w s)
  | .mdrn w => tried (execMdrn w s)
  | .rlmerge w => tried (execRlmerge w s)
  | .rlsend w => tried (execRlsend w s)
  | .aadd w => tried (execAadd w s)
  | .amin w => tried (execAmin w s)
  | .amax w => tried (execAmax w s)
  | .aand w => tried (execAand w s)
  | .aor w => tried (execAor w s)
  | .axor w => tried (execAxor w s)
  | .axchg w => tried (execAxchg w s)
  | .acas w => tried (execAcas w s)
  | .afadd w => tried (execAfadd w s)
  | .ainc w => tried (execAinc w s)
  | .waitw w => tried (execWaitw w s)
  | .barinit w => tried (execBarinit w s)
  | .bararr w => tried (execBararr w s)
  | .bartx w => tried (execBartx w s)
  | .barwait w => tried (execBarwait w s)
  | .swr w => tried (execSwr w s)
  | .tlbinv w => tried (execTlbinv w s)
  | .cfgwr w => tried (execCfgwr w s)
  | .cfgrd w => tried (execCfgrd w s)
  | i =>
    match fieldsOf i, opSpec i with
    | some w, some e =>
      let c := s.ctx s.cur
      let dst : List Operand := match e.d with
        | .dst .. => [w.d]
        | _ => []
      if c.arch.guards w then
        match c.check (sourcesOf i w) dst with
        | some (.wait v) => some v
        | _ => none
      else none
    | _, _ => none

/-- What the next word or step of a context would wait for, among the waits that R252 counts; it is tried as if the context were granted. (DEDUCED, log 10) -/
def State.nextWait (s : State) (x : CtxId) : Option Wait :=
  let s := ({ s with cur := x }.modCtx x (fun c => { c with wait := .none })).modCell x.ck (fun k => { k with grant := some x.ctx })
  let c := s.ctx x
  if c.info.bad then none
  else
    match c.arch.pos with
    | .word pc _ last =>
      match (s.cell x.ck).fetch c.info.nacc pc last with
      | .ok i => s.wordWait i
      | .error _ => none
    | .step =>
      [execRecovery x, execRoundClose x, execTerminalShift x, execNonterminalLookup x, execEndStep x].findSome? (fun f => waitIn x (f s))

/-! ### Stopping points (R337) -/

/-- Whether a context is at a stopping point: a step, or a word that waits and has performed nothing (R337). -/
def Ctx.atStop (c : Ctx) : Bool :=
  c.life != .live || c.arch.pos == .step || (match c.wait with
    | .none => false
    | .tlbinv => false
    | .walk => false
    | _ => true)

end Sys2Proof.Machine
end

