-- ==== Sys2Proof/Machine/Arbiter.lean ====
section
/-!
DEFINITION. Sharing a cell: when a context is ready (R252), the arbiter (R253), yields (R70, R98), and the stop of a cancelled unit
(R322).
-/

namespace Sys2Proof.Machine

/-- Whether what a context waited for has come, or can be seen never to come: its word or step then issues again (R22, R24, R84,
R140, R146, R156, R240). -/
def State.waitOver (s : State) (x : CtxId) : Bool :=
  let c := s.ctx x
  match c.wait with
  | .none => true
  | .regs l => l.all (fun r => c.arch.full r && !c.settling r)
  | .portIn q n =>
    if q = 0 then (c.look n).isSome || c.stuckIn 0 n
    else
      let p := c.port q
      p.closed || decide (n ≤ p.avail.length) || p.avail.any (fun b => b.sb == 0x1000) || c.stuckIn q n || c.fullIn q
  | .portOut q n =>
    let p := c.port q
    p.room n || decide (p.depth < c.ownBeats q + n)
  | .ringIn b n => decide (n + s.queuedOn x b ≤ (c.ring b).held)
  | .ringOut b => decide (1 ≤ (c.ring b).free) || decide ((c.ring b).n ≤ c.ownSlots b)
  | .head => s.isHead x
  | .buffer => c.closed.isNone || (c.arch.pos == .step && (s.rowStuck x).isSome)
  | .pending ids => ids.any (fun i => !c.prods.any (fun p => p.id == i))
  | .walk => !s.walks.any (fun w => w.x == x)
  | .fault => false
  | .island n => (s.cell x.ck).island.progress != n
  | .tlbinv => false
  | .barrier =>
    match s.barWaits.find? (fun b => b.x == x) with
    | some b => b.answered || s.barPhase b.obj != b.c0
    | none => true
  | .pool _ => false
  | .hand => !c.handing

/-- A ready context (R252): it holds a live unit, is not yielded, and its next word or step can issue; one that has come to its stopping point
under a freeze wave issues nothing more (R337). (DEDUCED, log 10) -/
def State.ready (s : State) (x : CtxId) : Bool :=
  let c := s.ctx x
  c.life == .live && !c.frozen && decide (c.yieldTo ≤ s.clk.toNat) && s.waitOver x && !(s.waved x.ck && c.atStop) && (s.nextWait x).isNone

/-- The occupancy that weighs a context: COUNT of q0 (R253). -/
def Ctx.occ (c : Ctx) : Nat := (c.port 0).avail.length

/-- The ready contexts of a cell. -/
def State.readySet (s : State) (ck : Nat) : List Nat := (List.range 4).filter (fun i => s.ready (ctxAt ck i))

/-- The contexts that must be granted now (R253). -/
def State.forcedSet (s : State) (ck : Nat) (rdy : List Nat) : List Nat :=
  rdy.filter (fun i => decide (0 < (s.ctx (ctxAt ck i)).occ) && decide (4093 ≤ (s.cell ck).arb.wait.getD i 0))

/-- Tops the credits up when no ready context has any (R253). -/
def Arb.topUp (a : Arb) (rdy : List Nat) : Arb :=
  if rdy.all (fun i => a.credit.getD i 0 == 0) then
    { a with credit := tab 4 (fun i => min (a.credit.getD i 0 + a.w.getD i 1) (2 * a.w.getD i 1)) }
  else a

/-- The first ready context with credit from the pointer on (R253). -/
def Arb.pick (a : Arb) (rdy : List Nat) : Nat :=
  ((tab 4 (fun i => (a.ptr + i) % 4)).find? (fun i => rdy.contains i && decide (0 < a.credit.getD i 0))).getD (rdy.headD 0)

/-- The counters after a grant (R253). -/
def Arb.granted (a : Arb) (rdy : List Nat) (g : Nat) : Arb :=
  let credit := tab 4 (fun i => if i = g then a.credit.getD i 0 - 1 else a.credit.getD i 0)
  { a with
    credit := credit
    wait := tab 4 (fun i => if i = g then 0 else if rdy.contains i then a.wait.getD i 0 + 1 else a.wait.getD i 0)
    ptr := if credit.getD g 0 = 0 then (g + 1) % 4 else g }

/-- Grants a context and keeps the counters as they were, for a word that is found to wait. (DEDUCED, log 10) -/
def State.grantTo (s : State) (ck : Nat) (a : Arb) (rdy : List Nat) (g : Nat) : State :=
  s.modCell ck (fun k => { k with undo := k.arb, arb := a.granted rdy g, grant := some g })

/-- ARBITER_GRANT (R253). One grant stands at a time. (DEDUCED, log 10) -/
def execArbiterGrant (die cell : Nat) (s : State) : Host.Outcome State Fault Refusal :=
  let ck := cellKey die cell
  let rdy := s.readySet ck
  if (s.cell ck).grant.isSome ∨ rdy = [] then .next s
  else
    match s.forcedSet ck rdy with
    | g :: _ => .next (s.grantTo ck (s.cell ck).arb rdy g)
    | [] =>
      let a := (s.cell ck).arb.topUp rdy
      .next (s.grantTo ck a rdy (a.pick rdy))

/-- FORCED_GRANT: the lowest context whose wait has reached the bound (R253). -/
def execForcedGrant (die cell : Nat) (s : State) : Host.Outcome State Fault Refusal :=
  let ck := cellKey die cell
  let rdy := s.readySet ck
  if (s.cell ck).grant.isSome then .next s
  else
    match s.forcedSet ck rdy with
    | g :: _ => .next (s.grantTo ck (s.cell ck).arb rdy g)
    | [] => .next s

/-- ARBITER_WEIGHT_REFRESH: the weights follow the occupancies when clk[9:0] = 0 (R253). -/
def execArbiterWeightRefresh (die cell : Nat) (s : State) : Host.Outcome State Fault Refusal :=
  let ck := cellKey die cell
  if s.clk.toNat % 1024 ≠ 0 then .next s
  else .next (s.modCell ck (fun k => { k with arb := { k.arb with w := tab 4 (fun i => 1 + min (k.ctx i).occ 255) } }))

/-- YIELD_EXPIRY: the clocks of a yield have passed (R98). -/
def execYieldExpiry (x : CtxId) (s : State) : Host.Outcome State Fault Refusal :=
  if (s.ctx x).yieldTo ≤ s.clk.toNat then .next (s.modCtx x (fun c => { c with yieldTo := 0 })) else .next s

/-- Whether a context waits in a way that a cancel ends at once (R322, R351): an empty source or a beat that is not there, a WAITW, a
BARWAIT, a CSTAT on STATUS, a descheduled LAUNCH, the head of the domain, a fault. -/
def Ctx.stopsNow (c : Ctx) : Bool :=
  match c.wait with
  | .regs _ => true
  | .portIn _ _ => true
  | .ringIn _ _ => true
  | .head => true
  | .barrier => true
  | .pool _ => true
  | .fault => true
  | .pending ids => c.prods.any (fun p => ids.contains p.id && (match p.kind with
      | .waitw .. => true
      | .cstat _ _ w => w
      | _ => false))
  | _ => false

/-- UNIT_STOP: a cancelled unit that waits stops now; any other stops where its round would close (R322). -/
def execUnitStop (x : CtxId) (s : State) : Host.Outcome State Fault Refusal :=
  let c := s.ctx x
  let next : Bool := ((s.nextWait x).map (fun w => ({ c with wait := w } : Ctx).stopsNow)).getD false
  if c.life = .live ∧ c.cancel ∧ c.frozen = false ∧ ((c.stopsNow ∧ s.waitOver x = false) ∨ (c.wait = .none ∧ next)) then
    .next (s.stopUnit x .cancelled)
  else .next s

end Sys2Proof.Machine
end

