-- ==== Sys2Proof/Machine/Flags.lean ====
section
/-!
DEFINITION. Conditions and truth tables: the values that go to predicates and mask bits (R46, R73, R104). The machine has no
other flags.
-/

namespace Sys2Proof.Machine

/-- A condition on integers (R73). -/
def condInt (code : Nat) (a b : Int) : Bool :=
  if code = 0 then a == b else if code = 1 then a != b else if code = 2 then decide (a < b)
  else if code = 3 then decide (a ≤ b) else if code = 4 then decide (b < a) else if code = 5 then decide (b ≤ a) else false

/-- A condition on floating-point values (R46, R73): with a NaN operand only ne and un hold. -/
def condFloat (code : Nat) (a b : FVal) : Bool :=
  if a.isNan || b.isNan then code == 1 || code == 6
  else
    let o := a.cmp b
    if code = 0 then o == .eq else if code = 1 then o != .eq else if code = 2 then o == .lt
    else if code = 3 then o != .gt else if code = 4 then o == .gt else if code = 5 then o != .lt
    else code == 7

/-- A condition on codes of a type (R73). -/
def cond (ty code a b : Nat) : Bool :=
  match Fmt.ofTy ty with
  | some f => condFloat code (FVal.ofCode f a) (FVal.ofCode f b)
  | none => condInt code (tyVal ty a) (tyVal ty b)

/-- The truth table of FN (R72): bit 4a + 2b + c. -/
def truth (fn : Nat) (a b c : Bool) : Bool := bit fn (4 * b2n a + 2 * b2n b + b2n c)

/-- The truth table on whole masks (R125): the union of the minterms of FN. -/
def truthMask (fn : Nat) (a b c : Mask) : Mask :=
  let lit (v : Mask) (on : Bool) : Mask := if on then v else ~~~v
  (List.range 8).foldl (fun acc i =>
    if bit fn i then acc ||| (lit a (bit i 2) &&& lit b (bit i 1) &&& lit c (bit i 0)) else acc) 0

end Sys2Proof.Machine
end

