-- ==== Sys2Proof/Machine/Scalar.lean ====
section
/-!
DEFINITION. Classes 0x1 and 0x2: scalar integer, scalar floating-point and predicate instructions (R99 to R104). Each computes
from its sources as the word finds them and writes D in the same step (R105).
-/

namespace Sys2Proof.Machine

/-- Writes the s register D. -/
def Ctx.putS (c : Ctx) (w : Fields) (v : Word) : Arch := c.arch.ws w.d.idx.toNat v

/-- An exact integer result wrapped or clamped and extended (R37, R38, R99). -/
def intResult (w : Fields) (sat : Bool) (r : Int) : Word := extTy w.ty.toNat (toTy w.ty.toNat sat r)

/-- An integer word of two sources with an exact result (R99). -/
def State.int2 (s : State) (w : Fields) (f : Int → Int → Int) : Res :=
  s.alu [w.a, w.b] [w.d] (fun c =>
    c.putS w (intResult w (Fields.sat w) (f (c.int w w.ty.toNat w.a) (c.int w w.ty.toNat w.b))))

/-- An integer word of two sources on the bits of width w, the second read unsigned (R100). -/
def State.bits2 (s : State) (w : Fields) (f : Nat → Nat → Nat → Nat) : Res :=
  s.alu [w.a, w.b] [w.d] (fun c =>
    c.putS w (extTy w.ty.toNat (f (tyBits w.ty.toNat) (c.scalar w w.ty.toNat w.a) (c.scalar w w.ty.toNat w.b))))

/-- An integer word of one source on the bits of width w (R100). -/
def State.bits1 (s : State) (w : Fields) (f : Nat → Nat → Nat) : Res :=
  s.alu [w.a] [w.d] (fun c => c.putS w (extTy w.ty.toNat (f (tyBits w.ty.toNat) (c.scalar w w.ty.toNat w.a))))

/-- A quotient truncated toward zero; all ones for a zero divisor (R101). -/
def divInt (w : Nat) (a b : Int) : Int := if b = 0 then ((2 ^ w - 1 : Nat) : Int) else a.tdiv b

/-- The remainder with the sign of a; a for a zero divisor (R101). -/
def remInt (a b : Int) : Int := if b = 0 then a else a.tmod b

/-- Shift right filled with the top bit (R100). -/
def sarBits (w a n : Nat) : Nat := wrap w ((sgn w a) >>> (n % w))

/-- Rotate right within w bits (R100). -/
def rotrBits (w a n : Nat) : Nat := ((a % 2 ^ w) >>> (n % w)) ||| (((a % 2 ^ w) <<< (w - n % w)) % 2 ^ w)

/-- Leading zeros within w (R100). -/
def clzBits (w a : Nat) : Nat := if a % 2 ^ w = 0 then w else w - 1 - Nat.log2 (a % 2 ^ w)

/-- BFX (R101). -/
def bfxBits (signed? : Bool) (w a b c : Nat) : Int :=
  let pos := (b % 64) % w
  let len := min (c % 128) (w - pos)
  let f := ((a % 2 ^ w) >>> pos) % 2 ^ len
  if len = 0 then 0 else if signed? then sgn len f else (f : Int)

/-- BFI (R101). -/
def bfiBits (w a b c e : Nat) : Nat :=
  let pos := (c % 64) % w
  let len := min (e % 128) (w - pos)
  putFld (a % 2 ^ w) pos len b

/-- The high half of the exact product (R100). -/
def mulhInt (w : Nat) (a b : Int) : Int := (a * b) >>> w

def execAdd (w : Fields) (s : State) : Host.Outcome State Fault Refusal := s.word w (fun s => s.int2 w (fun a b => a + b))
def execSub (w : Fields) (s : State) : Host.Outcome State Fault Refusal := s.word w (fun s => s.int2 w (fun a b => a - b))
def execMul (w : Fields) (s : State) : Host.Outcome State Fault Refusal := s.word w (fun s => s.int2 w (fun a b => a * b))
def execMulh (w : Fields) (s : State) : Host.Outcome State Fault Refusal :=
  s.word w (fun s => s.int2 w (mulhInt (tyBits w.ty.toNat)))
def execDiv (w : Fields) (s : State) : Host.Outcome State Fault Refusal :=
  s.word w (fun s => s.int2 w (divInt (tyBits w.ty.toNat)))
def execRem (w : Fields) (s : State) : Host.Outcome State Fault Refusal := s.word w (fun s => s.int2 w remInt)
def execMadd (w : Fields) (s : State) : Host.Outcome State Fault Refusal :=
  s.word w (fun s => s.alu [w.a, w.b, w.c] [w.d] (fun c =>
    c.putS w (intResult w (Fields.sat w)
      (c.int w w.ty.toNat w.a * c.int w w.ty.toNat w.b + c.int w w.ty.toNat w.c))))
def execAnd (w : Fields) (s : State) : Host.Outcome State Fault Refusal := s.word w (fun s => s.bits2 w (fun _ a b => a &&& b))
def execOr (w : Fields) (s : State) : Host.Outcome State Fault Refusal := s.word w (fun s => s.bits2 w (fun _ a b => a ||| b))
def execXor (w : Fields) (s : State) : Host.Outcome State Fault Refusal := s.word w (fun s => s.bits2 w (fun _ a b => a ^^^ b))
def execAndn (w : Fields) (s : State) : Host.Outcome State Fault Refusal := s.word w (fun s => s.bits2 w clearBits)
def execShl (w : Fields) (s : State) : Host.Outcome State Fault Refusal :=
  s.word w (fun s => s.bits2 w (fun n a b => a <<< (b % n)))
def execShr (w : Fields) (s : State) : Host.Outcome State Fault Refusal :=
  s.word w (fun s => s.bits2 w (fun n a b => a >>> (b % n)))
def execSar (w : Fields) (s : State) : Host.Outcome State Fault Refusal := s.word w (fun s => s.bits2 w sarBits)
def execRotr (w : Fields) (s : State) : Host.Outcome State Fault Refusal := s.word w (fun s => s.bits2 w rotrBits)
def execMin (w : Fields) (s : State) : Host.Outcome State Fault Refusal := s.word w (fun s => s.int2 w min)
def execMax (w : Fields) (s : State) : Host.Outcome State Fault Refusal := s.word w (fun s => s.int2 w max)
def execClz (w : Fields) (s : State) : Host.Outcome State Fault Refusal := s.word w (fun s => s.bits1 w clzBits)
def execPopc (w : Fields) (s : State) : Host.Outcome State Fault Refusal := s.word w (fun s => s.bits1 w popCount)
def execBfx (w : Fields) (s : State) : Host.Outcome State Fault Refusal :=
  s.word w (fun s => s.alu [w.a, w.b, w.c] [w.d] (fun c =>
    let n := tyBits w.ty.toNat
    c.putS w (extTy w.ty.toNat (wrap n (bfxBits (isSigned w.ty.toNat) n (c.scalar w w.ty.toNat w.a) (c.raw w w.b).toNat
      (c.raw w w.c).toNat)))))
def execBfi (w : Fields) (s : State) : Host.Outcome State Fault Refusal :=
  s.word w (fun s => s.alu [w.a, w.b, w.c, w.e] [w.d] (fun c =>
    c.putS w (extTy w.ty.toNat (bfiBits (tyBits w.ty.toNat) (c.scalar w w.ty.toNat w.a) (c.scalar w w.ty.toNat w.b)
      (c.raw w w.c).toNat (c.raw w w.e).toNat))))
def execMov (w : Fields) (s : State) : Host.Outcome State Fault Refusal := s.word w (fun s => s.bits1 w (fun _ a => a))
def execSel (w : Fields) (s : State) : Host.Outcome State Fault Refusal :=
  s.word w (fun s => s.alu [w.a, w.b] [w.d] (fun c =>
    c.putS w (extTy w.ty.toNat (if c.pred w.c then c.scalar w w.ty.toNat w.a else c.scalar w w.ty.toNat w.b))))

/-- Writes the predicate D (R15, R100). -/
def Ctx.putP (c : Ctx) (w : Fields) (b : Bool) : Arch := c.arch.wp w.d.idx.toNat b

/-- A compare of two scalar sources (R73, R100, R102). -/
def State.cmp2 (s : State) (w : Fields) : Res :=
  s.alu [w.a, w.b] [] (fun c =>
    c.putP w (cond w.ty.toNat (w.fn.toNat % 16) (c.scalar w w.ty.toNat w.a) (c.scalar w w.ty.toNat w.b)))

def execCmp (w : Fields) (s : State) : Host.Outcome State Fault Refusal := s.word w (fun s => s.cmp2 w)
def execFcmp (w : Fields) (s : State) : Host.Outcome State Fault Refusal := s.word w (fun s => s.cmp2 w)

/-- The format of a floating-point TY. -/
def tyFmt (ty : Nat) : Fmt := (Fmt.ofTy ty).getD .f32

/-- A floating-point word of two sources (R102). -/
def State.fp2 (s : State) (w : Fields) (f : Fmt → Nat → Nat → Nat) : Res :=
  s.alu [w.a, w.b] [w.d] (fun c =>
    c.putS w (extTy w.ty.toNat (f (tyFmt w.ty.toNat) (c.scalar w w.ty.toNat w.a) (c.scalar w w.ty.toNat w.b))))

def execFadd (w : Fields) (s : State) : Host.Outcome State Fault Refusal :=
  s.word w (fun s => s.fp2 w (fun f => faddc f (Fields.rnd w) (Fields.sat w)))
def execFsub (w : Fields) (s : State) : Host.Outcome State Fault Refusal :=
  s.word w (fun s => s.fp2 w (fun f => fsubc f (Fields.rnd w) (Fields.sat w)))
def execFmul (w : Fields) (s : State) : Host.Outcome State Fault Refusal :=
  s.word w (fun s => s.fp2 w (fun f => fmulc f (Fields.rnd w) (Fields.sat w)))
def execFfma (w : Fields) (s : State) : Host.Outcome State Fault Refusal :=
  s.word w (fun s => s.alu [w.a, w.b, w.c] [w.d] (fun c =>
    c.putS w (extTy w.ty.toNat (ffmac (tyFmt w.ty.toNat) (Fields.rnd w) (Fields.sat w) (c.scalar w w.ty.toNat w.a)
      (c.scalar w w.ty.toNat w.b) (c.scalar w w.ty.toNat w.c)))))
def execFmin (w : Fields) (s : State) : Host.Outcome State Fault Refusal :=
  s.word w (fun s => s.fp2 w (fun f => fminmax f false))
def execFmax (w : Fields) (s : State) : Host.Outcome State Fault Refusal :=
  s.word w (fun s => s.fp2 w (fun f => fminmax f true))
def execFdiv (w : Fields) (s : State) : Host.Outcome State Fault Refusal :=
  s.word w (fun s => s.fp2 w (fun f => fdivc f (Fields.rnd w) (Fields.sat w)))
def execFsqrt (w : Fields) (s : State) : Host.Outcome State Fault Refusal :=
  s.word w (fun s => s.alu [w.a] [w.d] (fun c =>
    c.putS w (extTy w.ty.toNat (fsqrtc (tyFmt w.ty.toNat) (Fields.rnd w) (Fields.sat w) (c.scalar w w.ty.toNat w.a)))))
def execFcvt (w : Fields) (s : State) : Host.Outcome State Fault Refusal :=
  s.word w (fun s => s.alu [w.a] [w.d] (fun c =>
    let src := w.fn.toNat / 16
    c.putS w (extTy w.ty.toNat (convert src w.ty.toNat (Fields.rnd w) (Fields.sat w) (c.scalar w src w.a)))))
def execPlog (w : Fields) (s : State) : Host.Outcome State Fault Refusal :=
  s.word w (fun s => s.alu [] [] (fun c => c.putP w (truth w.fn.toNat (c.pred w.a) (c.pred w.b) (c.pred w.c))))

end Sys2Proof.Machine
end

