-- ==== Sys2Proof/Machine/Closing.lean ====
section
/-!
DEFINITION. What the island performs: MMA rows (R51 to R53, R183, R184), tile fills and swaps (R181, R182), and the operations of the
closing unit (R54, R56, R59, R185 to R187, R193 to R198), each in the round that issued it (R188, R189).
-/

namespace Sys2Proof.Machine

/-! ### Rounds of island operations -/

/-- Changes the round with a number, open or closed. -/
def Ctx.modRound (c : Ctx) (serial : Nat) (f : Round → Round) : Ctx :=
  if c.opn.serial = serial then { c with opn := f c.opn }
  else { c with closed := c.closed.map (fun r => if r.serial = serial then f r else r) }

/-- Keeps the old value of a key the first time a round changes it (R189). -/
def keepFirst {α : Type} (l : List (Nat × α)) (k : Nat) (v : α) : List (Nat × α) :=
  if l.any (fun e => e.1 == k) then l else l ++ [(k, v)]

/-- Writes a row of an accumulator in a round, which journals the old row (R189). -/
def State.setAcc (s : State) (x : CtxId) (serial a i v : Nat) : State :=
  let old := (s.cell x.ck).accs.getD (32 * a + i) 0
  (s.modCtx x (fun c => c.modRound serial (fun r => { r with journal := keepFirst r.journal (32 * a + i) old }))).modCell x.ck
    (fun k => { k with accs := k.accs.set (32 * a + i) (BitVec.ofNat 8192 v) })

/-- Sets the declared k of an accumulator in a round (R189, R191). -/
def State.setDecl (s : State) (x : CtxId) (serial a v : Nat) : State :=
  let old := (s.cell x.ck).lists.getD a 0
  (s.modCtx x (fun c => c.modRound serial (fun r => { r with decls := keepFirst r.decls a old }))).modCell x.ck
    (fun k => { k with lists := k.lists.set a v })

/-- Takes the head beat of a port for an operation of a round: when that round has closed, its end and the later snapshot follow (R188, R194). -/
def Ctx.takeBeat (c : Ctx) (q serial : Nat) : Ctx :=
  let c := c.setPort q (c.port q).take
  if c.opn.serial = serial then c
  else
    { c with
      closed := c.closed.map (fun r => { r with endPorts := r.endPorts.map (fun e => if e.1 = q then (e.1, e.2 + 1) else e) })
      opn := { c.opn with snap := { c.opn.snap with ports := c.opn.snap.ports.map (fun e =>
        if e.1 = q then (e.1, { e.2 with shead := e.2.shead + 1 }) else e) } } }

/-- Changes the island of a cell and counts its progress. -/
def State.modIsland (s : State) (ck : Nat) (f : Island → Island) : State :=
  s.modCell ck (fun k => { k with island := { f k.island with progress := k.island.progress + 1 } })

/-- Consumes a slot for an operation of a round: when that round has closed, its end and the later snapshot follow (R142, R188). -/
def Ctx.takeSlot (c : Ctx) (b serial : Nat) : Ctx :=
  let r := c.ring b
  let c := c.setRing b { r with shead := r.shead + 1 }
  if c.opn.serial = serial then c
  else
    { c with
      closed := c.closed.map (fun q => { q with endRings := q.endRings.map (fun e =>
        if e.1 = b ∧ e.2.1 = r.gen then (e.1, (e.2.1, e.2.2 + 1)) else e) })
      opn := { c.opn with snap := { c.opn.snap with rings := c.opn.snap.rings.map (fun e =>
        if e.1 = b ∧ e.2.gen = r.gen then (e.1, { e.2 with shead := e.2.shead + 1 }) else e) } } }

/-- The later snapshot of a round that opened before an operation of the round before it was performed names the tiles as that
operation leaves them (R189). -/
def State.tilesFollow (s : State) (x : CtxId) (serial : Nat) : State :=
  let t := (s.cell x.ck).island.tiles
  s.modCtx x (fun c => if c.opn.serial = serial then c else { c with opn := { c.opn with snap := { c.opn.snap with tiles := t } } })

/-! ### Products (R51 to R53, R179) -/

/-- Elements along K of a slot or tile (R179). -/
def kPerRow (ty : Nat) : Nat := if ty = 9 ∨ ty = 10 then 32 else if ty = 13 ∨ ty = 14 then 128 else 64

/-- The value of code `pos` of a slot; `alt` is the alt byte of its block (R49, R179). -/
def tileElem (ty x pos alt : Nat) : FVal :=
  if ty = 9 ∨ ty = 10 then FVal.ofCode (tyFmt ty) (elem 16 x pos)
  else if ty = 11 ∨ ty = 12 then FVal.ofCode (tyFmt ty) (elem 8 x pos)
  else
    let code := elem 4 x pos
    if ty = 14 ∧ code = 8 then FVal.ofInt false (sgn 8 alt) (-3) else FVal.ofCode .e2m1 code

/-- The elements of an A slot. -/
def rowElems (ty x : Nat) : List FVal := tab (kPerRow ty) (fun k => tileElem ty x k (elem 8 x (64 + k / 32)))

/-- The elements of a column of a B tile. -/
def colElems (ty x j : Nat) : List FVal :=
  tab (kPerRow ty) (fun k => tileElem ty x (256 * k + j) (elem 8 x (16384 + 256 * (k / 32) + j)))

/-- The exact sum of products with its special values (R52, R53). (DESIGN CHOICE, log 74) -/
def exactDot (a b : List FVal) : FVal :=
  match List.zipWith FVal.mul a b with
  | [] => .fin false 0 0
  | p :: r => r.foldl (FVal.add .rne) p

/-- One column of an unscaled row: the accumulator word after it (R51, R52). -/
def mmaWord (ty a b j acc : Nat) : Nat :=
  if ty = 0 then
    wrap 32 ((sgn 32 acc) + ((List.range 64).map (fun k => sgn 8 (elem 8 a k) * sgn 8 (elem 8 b (256 * k + j)))).foldl (· + ·) 0)
  else roundVal .f32 .rne false (FVal.add .rne (FVal.ofCode .f32 acc) (exactDot (rowElems ty a) (colElems ty b j)))

/-- The block partials of a scaled row, block by block, column by column (R53). -/
def mmaSums (ty a b : Nat) : List FVal :=
  let xs := rowElems ty a
  (List.range (kPerRow ty / 32)).flatMap (fun blk => tab 256 (fun j =>
    exactDot ((xs.drop (32 * blk)).take 32) (((colElems ty b j).drop (32 * blk)).take 32)))

/-- MMA_ROW_FIRE: the row at the head of the row queue fires (R184), unless a freeze wave has come: unfired rows then stay queued (R336). -/
def execMmaRowFire (die cell : Nat) (s : State) : Host.Outcome State Fault Refusal :=
  let ck := cellKey die cell
  let i := (s.cell ck).island
  match i.rq with
  | [] => .next s
  | e :: rest =>
    match e.op with
    | .row a row ty b =>
      let x := ctxAt ck e.ctx
      let c := s.ctx x
      let r := c.ring b
      let free := if scaled ty then i.pq.length < 64 else !(i.cq.any (fun q => q.accs.contains a && q.ord < e.ord))
      if c.frozen ∨ s.waved ck ∨ r.held = 0 ∨ free = false then .next s
      else
        let slot := s.num (tileKey ck (r.slot r.shead)) 128
        let tile := (i.stores.getD i.tiles.act 0).toNat
        let s := (s.setCtx x (c.takeSlot b e.serial)).modIsland ck (fun i => { i with rq := rest })
        if scaled ty then
          .next (s.modIsland ck (fun i => { i with
            pq := i.pq ++ [{ serial := e.serial, acc := a, row := row, ty := ty, sums := mmaSums ty slot tile }] }))
        else
          let old := (s.cell ck).accRow a row
          .next (s.setAcc x e.serial a row (pack 32 (tab 256 (fun j => mmaWord ty slot tile j (elem 32 old j)))))
    | _ => .next s

/-! ### Tiles (R181, R182) -/

/-- The first MLDB that no MSWAP precedes, with its place. -/
def firstFill : List RowEnt → Nat → Option (Nat × RowEnt)
  | [], _ => none
  | e :: r, i => match e.op with
    | .mldb .. => some (i, e)
    | .mswap => none
    | .row .. => firstFill r (i + 1)

/-- A physical store that a fill may overwrite: not the active one, and none that a round-start snapshot names (R181). -/
def freeStore (t : TileMap) (named : List Nat) : Option Nat :=
  (t.load :: List.range 4).find? (fun n => n != t.act && !named.contains n)

/-- The stores that the round-start snapshots of a context name, as a fill of a round sees them: the snapshot of a later round follows the fill, so
that it keeps nothing from it (R181, R189). -/
def Ctx.namedStores (c : Ctx) (serial : Nat) : List Nat :=
  let of' (r : Round) : List Nat := [r.snap.tiles.act, r.snap.tiles.load]
  (if c.opn.serial = serial then of' c.opn else []) ++ ((c.closed.map of').getD [])

/-- MLDB_FILL: a fill starts, or the fill under way ends (R181). -/
def execMldbFill (die cell : Nat) (s : State) : Host.Outcome State Fault Refusal :=
  let ck := cellKey die cell
  let i := (s.cell ck).island
  if i.filling.isSome then .next (s.modIsland ck (fun i => { i with filling := none }))
  else
    match firstFill i.rq 0 with
    | none => .next s
    | some (n, e) =>
      match e.op with
      | .mldb b ty =>
        let x := ctxAt ck e.ctx
        let c := s.ctx x
        let r := c.ring b
        match freeStore i.tiles (c.namedStores e.serial) with
        | none => .next s
        | some t =>
          if c.frozen ∨ s.waved ck ∨ r.held = 0 then .next s
          else
            let slot := s.num (tileKey ck (r.slot r.shead)) 17408
            let s := (s.setCtx x (c.takeSlot b e.serial)).modIsland ck (fun i => { i with
              rq := dropIdx i.rq n
              tiles := { i.tiles with load := t, lty := ty }
              filling := some (t, e.serial)
              stores := i.stores.set t (BitVec.ofNat 139264 slot) })
            .next (s.tilesFollow x e.serial)
      | _ => .next s

/-- MSWAP_EFFECT: the loading tile becomes active (R182). -/
def execMswapEffect (die cell : Nat) (s : State) : Host.Outcome State Fault Refusal :=
  let ck := cellKey die cell
  let i := (s.cell ck).island
  match i.rq with
  | [] => .next s
  | e :: rest =>
    match e.op with
    | .mswap =>
      let x := ctxAt ck e.ctx
      if i.filling.isSome ∨ (s.ctx x).frozen ∨ s.waved ck then .next s
      else
        .next ((s.modIsland ck (fun i => { i with
          rq := rest
          tiles := { act := i.tiles.load, load := i.tiles.act, aty := i.tiles.lty, lty := i.tiles.aty } })).tilesFollow x e.serial)
    | _ => .next s

/-! ### The closing unit (R198) -/

/-- Scales one block partial into an accumulator word (R54). -/
def scaleWord (acc sa sb : Nat) (p : FVal) : Nat :=
  if sa = 255 ∨ sb = 255 ∨ p.isNan ∨ f32nan acc then 0x7FC00000
  else
    let x := match p with
      | .fin n m e => .fin n m (e + (sa : Int) - 127 + ((sb : Int) - 127))
      | p => p
    roundVal .f32 .rne false (FVal.add .rne (FVal.ofCode .f32 acc) x)

/-- One partial row into its accumulator row: blocks ascending, one rounding each (R54). -/
def scaleRow (old saBytes sbBytes : Nat) (row nb : Nat) (sums : List FVal) : Nat :=
  pack 32 (tab 256 (fun j => (List.range nb).foldl (fun acc b =>
    scaleWord acc (elem 8 saBytes (4 * row + b)) (elem 8 sbBytes (256 * b + j)) (sums.getD (256 * b + j) .nan)) (elem 32 old j)))

/-- The difference of R59: −∞ less −∞ counts as +0. -/
def normDiff (x y : Nat) : Nat := if x = f32negInf ∧ y = f32negInf then 0 else f32sub x y

/-- One column of RNORM (R59). -/
def normStep (ms : Nat × Nat) (x : Nat) : Nat × Nat :=
  let m := fminmax .f32 true ms.1 x
  (m, f32add (f32mul ms.2 (e2c (normDiff ms.1 m))) (e2c (normDiff x m)))

/-- Inclusive prefix sums (R56). (DEDUCED, log 72) -/
def prefixSums : Option Nat → List Nat → List Nat
  | _, [] => []
  | none, x :: r => x :: prefixSums (some x) r
  | some p, x :: r =>
    let y := f32add p x
    y :: prefixSums (some y) r

/-- Delivers a value of the closing unit to its producer, if the producer is still there (R21, R247). -/
def State.closeTo (s : State) (x : CtxId) (id v : Nat) : State :=
  s.modCtx x (fun c => match c.prods.find? (fun p => p.id == id) with
    | some p => c.deliver p (fun _ => v)
    | none => c)

/-- Appends beats to a port for an operation of a round: when that round has closed, its end and the later snapshot follow (R159, R188). -/
def Ctx.appendBeats (c : Ctx) (q serial : Nat) (l : List Beat) : Ctx :=
  let c := c.setPort q { c.port q with fifo := (c.port q).fifo ++ l }
  if c.opn.serial = serial then c
  else
    { c with
      closed := c.closed.map (fun r => { r with endPorts := r.endPorts.map (fun e => if e.1 = q then (e.1, e.2 + l.length) else e) })
      opn := { c.opn with snap := { c.opn.snap with ports := c.opn.snap.ports.map (fun e =>
        if e.1 = q then (e.1, { e.2 with stail := e.2.stail + l.length }) else e) } } }

/-- Appends a slot to a ring for an operation of a round: the later snapshot follows when that round has closed (R142, R188). -/
def State.appendSlot (s : State) (x : CtxId) (b serial v : Nat) : State :=
  let r := (s.ctx x).ring b
  let s := s.modCtx x (fun c =>
    let c := c.setRing b { r with tail := r.tail + 1 }
    if c.opn.serial = serial then c
    else { c with opn := { c.opn with snap := { c.opn.snap with rings := c.opn.snap.rings.map (fun e =>
      if e.1 = b ∧ e.2.gen = r.gen then (e.1, { e.2 with tail := e.2.tail + 1 }) else e) } } })
  s.ctxPoke x (tileKey x.ck (r.slot r.tail)) (toBytes r.size v)

/-- The effect of a closing operation other than MSCA. -/
def State.closeOp (s : State) (x : CtxId) (e : CloseEnt) : State :=
  let k := s.cell x.ck
  let row (i : Nat) : Nat := k.accRow e.acc i
  match e.op with
  | .msca .. => s
  | .rlmergeQ .. => s
  | .mzero => (List.range 32).foldl (fun s i => s.setAcc x e.serial e.acc i 0) s
  | .mdrn src dst rnd sat i _ part id =>
    let n := 256 / (tyBits dst / 8)
    s.closeTo x id (pack (tyBits dst) (((drainRow src dst rnd sat (row i)).drop (n * part)).take n))
  | .drainQ src dst rnd sat i q lvl _ =>
    s.modCtx x (fun c => c.appendBeats q e.serial (rowBeats (tyBits dst / 8) (pack (tyBits dst) (drainRow src dst rnd sat (row i))) lvl))
  | .drainB src dst rnd sat i b => s.appendSlot x b e.serial (pack (tyBits dst) (drainRow src dst rnd sat (row i)))
  | .rlsend i q lvl _ => s.modCtx x (fun c => c.appendBeats q e.serial (rowSends (row i) lvl))
  | .rldecl n => (List.range 32).foldl (fun s i => s.setAcc x e.serial e.acc i (if n = 0 then 0 else listRow n [] 0))
      (s.setDecl x e.serial e.acc n)
  | .rlpushV i vals idx act =>
    let ps := (List.range 64).filterMap (fun j =>
      if act.getLsbD (4 * j) then some (elem 32 vals.toNat j, elem 32 idx.toNat j) else none)
    s.setAcc x e.serial e.acc i (offerRow (row i) ps)
  | .rlpushA i src base =>
    let from' := k.accRow src i
    s.setAcc x e.serial e.acc i (offerRow (row i) (tab 256 (fun j => (elem 32 from' j, (base.toNat + j) % 2 ^ 32))))
  | .rlmerge i beats => s.setAcc x e.serial e.acc i (offerRow (row i) (beats.flatMap beatPairs))
  | .rlread i part _ id => s.closeTo x id (pack 32 (tab 64 (fun p => elem 32 (row i) (2 * p + part))))
  | .rlth i _ id =>
    s.closeTo x id (rowThreshold (row i) + (rowPairs (row i)).length * 2 ^ 32 + min (rowNans (row i)) 0xFFFFFF * 2 ^ 40)
  | .rlclr i? =>
    let rows := match i? with
      | some i => [i]
      | none => List.range 32
    rows.foldl (fun s i => s.setAcc x e.serial e.acc i (listRow (rowK (row i)) [] 0)) s
  | .rnorm i st _ id =>
    let r := (elems 32 256 (row i)).foldl normStep (st.toNat % 2 ^ 32, st.toNat / 2 ^ 32)
    s.closeTo x id (r.1 + r.2 * 2 ^ 32)
  | .rscan i => s.setAcc x e.serial e.acc i (pack 32 (prefixSums none (elems 32 256 (row i))))

/-- Marks the first unclaimed partial row as consumed by a round (R178, R189). -/
def claimPartial (serial : Nat) : List Partial → List Partial
  | [] => []
  | p :: r => if p.used.isNone then { p with used := some serial } :: r else p :: claimPartial serial r

/-- One row of an MSCA: none while its partial row is not there yet. -/
def State.scaleStep (s : State) (x : CtxId) (e : CloseEnt) (ty sa sb n : Nat) : Option State :=
  let i := (s.cell x.ck).island
  match i.pq.find? (fun p => p.used.isNone) with
  | none => none
  | some p =>
    let v := scaleRow ((s.cell x.ck).accRow e.acc p.row) (s.num (tileKey x.ck sa) 128) (s.num (tileKey x.ck sb) 1024) p.row
      (kPerRow ty / 32) p.sums
    some ((s.setAcc x e.serial e.acc p.row v).modIsland x.ck (fun i => { i with
      pq := claimPartial e.serial i.pq
      cq := i.cq.flatMap (fun f => if f.ord != e.ord then [f] else if n ≤ 1 then [] else [{ e with op := .msca ty sa sb (n - 1) }]) }))

/-- A step of a merge from a port: the next beat, or EOF, which stays; none while neither is there (R194). -/
def State.mergeStep (s : State) (x : CtxId) (e : CloseEnt) (i q : Nat) (rest : List CloseEnt) : Option State :=
  match (s.ctx x).port q |>.head? with
  | none => none
  | some b =>
    if b.sb = 0x1000 then some (s.modIsland x.ck (fun i => { i with cq := rest }))
    else
      let s := s.modCtx x (fun c => c.takeBeat q e.serial)
      let s := s.setAcc x e.serial e.acc i (offerRow ((s.cell x.ck).accRow e.acc i) (beatPairs b))
      some (s.modIsland x.ck (fun i => { i with cq := if beatMark b.sb = 0 then i.cq else rest }))

/-- Whether a merge is at the front of a context's closing operations and the beat that it needs next has not come. -/
def State.mergeStalled (s : State) (x : CtxId) : Bool :=
  match (s.cell x.ck).island.cq.find? (fun e => e.ctx == x.ctx) with
  | some e => match e.op with
    | .rlmergeQ _ q => (((s.ctx x).port q).head?).isNone
    | _ => false
  | none => false

/-- The operation that the closing unit comes to: the first of the queue whose context's operations are not held up by a merge that waits for a
beat; those of another context are on other accumulators (R178, R188). (DEDUCED, log 25) -/
def State.nextClose (s : State) (ck : Nat) : Option CloseEnt :=
  (s.cell ck).island.cq.find? (fun e => !s.mergeStalled (ctxAt ck e.ctx))

/-- A row before a closing-queue entry that works on one of its accumulators has not fired (R188). -/
def Island.behindRow (i : Island) (e : CloseEnt) : Bool :=
  i.rq.any (fun q => q.ord < e.ord && (match q.acc? with
    | some a => e.accs.contains a
    | none => false))

/-- The closing unit can do nothing: what it comes to waits for a row that has not fired, or for a partial row of one, or all there is are merges
that wait for beats (R336). -/
def State.closeHeld (s : State) (ck : Nat) : Bool :=
  let i := (s.cell ck).island
  match s.nextClose ck with
  | none => !i.cq.isEmpty
  | some e => i.behindRow e || (match e.op with
      | .msca .. => !i.pq.any (fun p => p.used.isNone)
      | _ => false)

/-- CLOSING_UNIT_OPERATION: the operation that the closing unit comes to is performed, or a row or beat of it, once the earlier rows of its
accumulators have fired (R188, R194, R198). -/
def execClosingUnitOperation (die cell : Nat) (s : State) : Host.Outcome State Fault Refusal :=
  let ck := cellKey die cell
  let i := (s.cell ck).island
  match s.nextClose ck with
  | none => .next s
  | some e =>
    let x := ctxAt ck e.ctx
    let rest := i.cq.filter (fun f => f.ord != e.ord)
    if i.behindRow e then .next s
    else
      match e.op with
      | .msca ty sa sb n => .next ((s.scaleStep x e ty sa sb n).getD s)
      | .rlmergeQ row q => .next ((s.mergeStep x e row q rest).getD s)
      | _ => .next ((s.closeOp x e).modIsland ck (fun i => { i with cq := rest }))

/-- The threshold of a row in the state that the last committed round of its owner left (R196): the journals of the rounds still
uncommitted are undone. -/
def State.committedThreshold (s : State) (x : CtxId) (a i : Nat) : Nat :=
  let c := s.ctx x
  let pick (r : Round) : Option Nat := (r.journal.find? (fun e => e.1 == 32 * a + i)).map (fun e => e.2.toNat)
  let row : Nat := match c.closed.bind pick with
    | some v => v
    | none => (pick c.opn).getD ((s.cell x.ck).accRow a i)
  let decl (r : Round) : Option Nat := (r.decls.find? (fun e => e.1 == a)).map (fun e => e.2)
  let k : Nat := match c.closed.bind decl with
    | some v => v
    | none => (decl c.opn).getD ((s.cell x.ck).lists.getD a 0)
  if k = 0 then f32negInf else rowThreshold row

end Sys2Proof.Machine
end

