-- ==== Sys2Proof/Machine/Commit.lean ====
section
/-!
DEFINITION. The commit of a round (R263 to R266) and the completion of a unit (R244).
-/

namespace Sys2Proof.Machine

/-! ### Conditions (R263) -/

/-- Whether the island still has operations of a round (R188). -/
def Island.working (i : Island) (ctx serial : Nat) : Bool :=
  i.rq.any (fun e => e.ctx == ctx && e.serial == serial) || i.cq.any (fun e => e.ctx == ctx && e.serial == serial)
    || (i.holder == some ctx && (i.filling.map (fun f => f.2)) == some serial)

/-- Whether nothing of a closed round itself holds its commit back: its island operations and accesses are done, and no freeze has reached it
(R263 conditions 1 and 2, R268, R336). (DEDUCED, log 68) -/
def State.settledRound (s : State) (x : CtxId) (r : Round) : Bool :=
  let c := s.ctx x
  !c.frozen && !s.waved x.ck && !(s.cell x.ck).island.working x.ctx r.serial && !c.unperformed r.serial

/-- Whether a request of a round of equal timestamp reached the arbiter of the domain before that of a context's closed round: earlier, or in
the same clock from a lower die, cell and context (R263). A freeze does not change that order (R394). (DESIGN CHOICE, log 67) -/
def State.commitBehind (s : State) (x : CtxId) (r : Round) (t : Nat × Nat) : Bool :=
  let d := (s.ctx x).info.domain
  let ahead (c : Ctx) : Bool := c.life != .empty && c.info.domain == d && (match c.closed with
    | some q => q.ts == r.ts && !q.void && (match q.asked with
      | some u => decide (u.1 < t.1 ∨ (u.1 = t.1 ∧ u.2 < t.2))
      | none => false)
    | none => false)
  s.allCtxs.any (fun e => ahead e.2) || s.frozen.any (fun f => f.cells.any (fun k => k.ctxs.any (fun e => ahead e.2)))

/-- Whether a closed round may commit, its translations apart (R263, R268, R336): in a domain, once the clock of its request is over, so that
every request of that clock is known. (DEDUCED, log 11 and 68; DESIGN CHOICE, log 67) -/
def State.mayCommit (s : State) (x : CtxId) (r : Round) : Bool :=
  let d := (s.ctx x).info.domain
  s.settledRound x r && (d == 0 || (r.ts == s.horizon d && (match r.asked with
    | some t => decide (t.1 < s.clk.toNat) && !s.commitBehind x r t
    | none => false)))

/-- The request of a closed round reaches the arbiter of its domain, once the round is settled (R263). (DESIGN CHOICE, log 67) -/
def State.askCommit (s : State) (x : CtxId) (r : Round) : State :=
  if (s.ctx x).info.domain ≠ 0 ∧ r.asked = none ∧ s.settledRound x r then
    s.modCtx x (fun c => { c with closed := some { r with asked := some (s.clk.toNat, x.box) } })
  else s

/-! ### Where the stores go (R347) -/

/-- The enabled bytes of an entry, with their distance from its block. -/
def Entry.bytes (e : Entry) : List (Nat × Byte) :=
  ((List.range 64).filter (fun i => e.en.getLsbD i)).map (fun i => (i, byteOf e.data.toNat i))

/-- The homes of the entries of a round: `.g` entries translate again, and the first that fails gives the fault (R347). (DEDUCED, log 11) -/
def State.entryHomes (x : CtxId) : State → List Entry → State × Except FaultWait (List (Entry × Nat))
  | s, [] => (s, .ok [])
  | s, e :: r =>
    let a := 64 * e.blk
    match e.sp with
    | .g =>
      match s.translate (.ctx x) e.base a true false with
      | (s, .error (kind, level)) =>
        let va := a + ((lowBit 64 0 e.en.toNat).getD 0)
        (s, .error { asid := e.base, va := va, kind := kind, level := level, wr := true, commit := true })
      | (s, .ok pa) =>
        match State.entryHomes x s r with
        | (s, .ok l) => (s, .ok ((e, paKey pa) :: l))
        | f => f
    | sp =>
      match State.entryHomes x s r with
      | (s, .ok l) => (s, .ok ((e, homeOf sp e.base a) :: l))
      | f => f

/-! ### Effect 1: conflicts (R266) -/

/-- Whether a round read a byte that these entries write (R265, R266). -/
def Round.conflicts (q : Round) (ents : List Entry) : Bool :=
  q.readAll || ents.any (fun e => q.ranges.any (fun r => r.sp == e.sp && r.base == e.base
    && (List.range 64).any (fun i => e.en.getLsbD i && decide (r.lo ≤ 64 * e.blk + i) && decide (64 * e.blk + i ≤ r.hi))))

/-- Which rounds of a context a commit at a timestamp voids: none, the open one, or both. -/
def Ctx.hit (c : Ctx) (ts : BitVec 32) (ents : List Entry) : Option Bool :=
  let q (r : Round) : Bool := decide (ts.toNat < r.ts.toNat) && r.conflicts ents
  if (c.closed.map q).getD false then some true
  else if c.life == .live && q c.opn then some false
  else none

/-- Marks rounds of a frozen context as voided (R336). -/
def Ctx.markVoid (c : Ctx) (all : Bool) : Ctx :=
  { c with opn := { c.opn with void := true }
           closed := if all then c.closed.map (fun r => { r with void := true }) else c.closed }

/-- A conflict voids rounds of a context: an accepted unit runs again, a failed one only loses the round (R205, R245). (DEDUCED, log 13) -/
def State.conflictVoid (s : State) (y : CtxId) (all : Bool) : State :=
  let c := s.ctx y
  if c.frozen then s.setCtx y (c.markVoid all)
  else
    let s := s.voidRounds y all
    let s := if c.wait = .fault then s.modCtx y (fun c => { c with wait := .fault }) else s
    if c.life = .accepted then s.modCtx y (fun c => { c with life := .live }) else if all then s.endIfSettled y else s

/-- The conflict test of a commit (R266). -/
def State.conflictTest (s : State) (x : CtxId) (r : Round) : State :=
  let d := (s.ctx x).info.domain
  let s := s.allCtxs.foldl (fun s e =>
    if e.1 != x && e.2.inDomain d then
      match e.2.hit r.ts r.ents with
      | some all => s.conflictVoid e.1 all
      | none => s
    else s) s
  { s with frozen := s.frozen.map (fun f => { f with cells := f.cells.map (fun k => { k with ctxs := k.ctxs.map (fun e =>
      if e.2.inDomain d then
        match e.2.hit r.ts r.ents with
        | some all => (e.1, e.2.markVoid all)
        | none => e
      else e) }) }) }

/-! ### Effect 2: stores (R256, R264) -/

/-- Applies the cache rules of a committed `.g` byte: the cell's own L1 is updated, sectors of other cells of the domain go. -/
def State.commitL1 (s : State) (x : CtxId) (cells : List Nat) (home : Nat) (b : Byte) : State :=
  let s := s.l1Update x home [b]
  cells.foldl (fun s ck => s.modCell ck (fun k => k.dropSector home)) s

/-- The other cells that hold a registered unit of a domain. -/
def State.domainCells (s : State) (x : CtxId) (d : BitVec 16) : List Nat :=
  if d = 0 then []
  else ((s.allCtxs.filter (fun e => e.1.ck != x.ck && e.2.inDomain d)).map (fun e => e.1.ck)).dedup

/-- The stores of a round become visible all at once (R264). A store to host memory is a posted request; one that completes in error is
dropped, a free choice (R366). (DESIGN CHOICE, log 12) -/
def State.performStores (s : State) (x : CtxId) (l : List (Entry × Nat)) : State :=
  let s := l.foldl (fun s e => s.settleLoads x e.2 64) s
  let keep := l.filter (fun e => !(isHostKey e.2 && Config.freeBit (s.fresh + e.1.blk)))
  let s := { s with fresh := s.fresh + 1 }
  let s := s.writeAll (keep.flatMap (fun e => e.1.bytes.map (fun b => (e.2 + b.1, b.2))))
  let cells := s.domainCells x (s.ctx x).info.domain
  l.foldl (fun s e =>
    match e.1.sp with
    | .g =>
      let s := if isHbm e.2 then e.1.bytes.foldl (fun s b => s.commitL1 x cells (e.2 + b.1) b.2) s else s
      let lo := 64 * e.1.blk + ((e.1.bytes.head?.map (fun b => b.1)).getD 0)
      let hi := 64 * e.1.blk + ((e.1.bytes.getLast?.map (fun b => b.1)).getD 0)
      s.noteDirty x e.1.base lo hi
    | _ => s) s

/-! ### Effect 3: messages, beats, handoff (R96, R159, R166) -/

/-- Moves the rest of the steering stream (R96): the beats behind the token, and from now on those that arrive later. (DESIGN CHOICE, log 79) -/
def State.handOver (s : State) (x : CtxId) (cell i : Nat) : State :=
  let y := ctxAt (s.pageCell x.ck cell) i
  let p := (s.ctx x).port 0
  let s := s.modCtx x (fun c => { c.setPort 0 { p with fifo := [], base := p.base + p.fifo.length,
                                                       shead := p.base + p.fifo.length } with handed := some (y.ck, y.ctx) })
  s.modCtx y (fun c =>
    if c.life == .live then c.setPort 0 { c.port 0 with fifo := (c.port 0).fifo ++ p.avail } else c)

/-- One buffered message goes out (R166). -/
def State.release1 (s : State) (x : CtxId) (b : Buffered) : State :=
  let priv := (s.ctx x).priv
  let u := (s.ctx x).info
  let put (q : Queued) : State := s.modCell x.ck (fun k => { k with queue := k.queue ++ [{ q with launch := some (u.sdie, u.lkey) }] })
  match b with
  | .message box m => put { ctx := x.ctx, box := box, priv := priv, m := m }
  | .launch g box m => put { ctx := x.ctx, box := box, priv := priv, m := m, lg := some g }
  | .cancel box m => put { ctx := x.ctx, box := box, priv := priv, m := m }
  | .handoff cell i => s.handOver x cell i

/-! ### Effect 4: retirement (R142, R158, R240) -/

/-- A port at the commit of a round that left it at a position: consumed beats retire, pushed beats may leave. -/
def Port.commit (p : Port) (pos : Nat) (shut final : Bool) : Port :=
  let old := p.old.drop (pos - p.first)
  if p.out then { p with old := old, ctail := max p.ctail pos }
  else
    let n := if shut || final then p.fifo.length else pos - p.base
    { p with fifo := p.fifo.drop n, base := p.base + n, shead := max p.shead (p.base + n), shut := p.shut || shut || final,
             old := old }

/-- Fills the pending %la1 and %la2 whose beat is there, before beats retire (R35). -/
def Ctx.fillLooks (c : Ctx) : Ctx :=
  c.prods.foldl (fun c p =>
    match p.kind with
    | .look pos => match c.lookAt pos with
      | some v => c.deliver p (fun _ => v)
      | none => c
    | _ => c) c

/-- A ring at the commit of a round that left a geometry's speculative head somewhere (R142). -/
def Ring.retire (r : Ring) (e : Option (Nat × BitVec 16)) : Ring :=
  match e with
  | some (g, h) => if g = r.gen then { r with chead := h } else r
  | none => r

/-- Retires what a round consumed; a void of the next round goes back to the heads as they are now (R142, R246). -/
def Ctx.retire (c : Ctx) (r : Round) : Ctx :=
  let c := c.fillLooks
  { c with
    ports := c.ports.map (fun e =>
      match r.endPorts.get? e.1 with
      | none => e
      | some pos =>
        let shut := !e.2.out && (if r.final then e.2.closed else ((c.opn.snap.ports.get? e.1).map (fun n => n.closed)).getD false)
        (e.1, e.2.commit pos shut (r.final && e.1 != 0)))
    rings := c.rings.map (fun e => (e.1, e.2.retire (r.endRings.get? e.1)))
    opn := { c.opn with snap := { c.opn.snap with rings := c.opn.snap.rings.map (fun e => (e.1, e.2.retire (r.endRings.get? e.1))) } } }

/-! ### Reads of a committed round (R269) -/

/-- Reads the recorded parts of a load that are still to be performed. -/
def State.earlyParts (x : CtxId) : State → List Piece → State × List Piece
  | s, [] => (s, [])
  | s, q :: r =>
    let a := s.readPiece x q
    let known := q.early.isSome || !q.sp.buffered
    let b := State.earlyParts x (if known then s else a.1) r
    (b.1, (if known then q else { q with early := some a.2 }) :: b.2)

/-- The recorded reads of a round and of those before it take the values that stand as it commits, since no later round of the domain is tested
against them any more (R266, R269 rule 4). (DEDUCED, log 68) -/
def State.readEarly (s : State) (x : CtxId) (serial : Nat) : State :=
  ((s.ctx x).prods.filter (fun p => p.serial ≤ serial)).foldl (fun s p =>
    match p.kind with
    | .load ty vec todo got =>
      let r := State.earlyParts x s todo
      r.1.modCtx x (fun c => c.modProd p.id (fun p => { p with kind := .load ty vec r.2 got }))
    | .cstat home sel false => s.modCtx x (fun c => c.deliver p (fun _ => s.num (home + 8 * sel) 8))
    | _ => s) s

/-! ### The commit -/

/-- Effects 1 to 5 of R264, for a round whose entries have their homes. -/
def State.commitRound (s : State) (x : CtxId) (r : Round) (l : List (Entry × Nat)) : State :=
  let d := (s.ctx x).info.domain
  let s := if d = 0 then s else (s.conflictTest x r).readEarly x r.serial
  let s := s.performStores x l
  let s := r.msgs.foldl (fun s b => s.release1 x b) s
  let s := s.deposit x
  let s := s.modCtx x (fun c => { c.retire r with closed := none, rseq := c.rseq + 1 })
  let s := s.modCell x.ck (fun k => { k with island := { k.island with
    pq := k.island.pq.filter (fun p => p.used != some r.serial), progress := k.island.progress + 1 } })
  let s := if r.final then s.modCtx x (fun c => { c with ports := c.ports.map (fun p => (p.1, p.2.finish)) }) else s
  let s := if d = 0 then s else { s with floors := s.floors.set d.toNat (if (s.floor d).toNat < r.ts.toNat then r.ts else s.floor d) }
  s.endIfSettled x

/-- ROUND_COMMIT: the request of a closed round reaches the arbiter; a round whose conditions hold commits in one step, or is voided by a
translation that fails (R263, R264, R347). (DESIGN CHOICE, log 67; DEDUCED, log 71) -/
def execRoundCommit (x : CtxId) (s : State) : Host.Outcome State Fault Refusal :=
  match (s.ctx x).closed with
  | none => .next s
  | some r =>
    if s.mayCommit x r = false then .next (s.askCommit x r)
    else
      match State.entryHomes x s r.ents with
      | (s, .error f) =>
        let was := (s.ctx x).life
        let s := s.ctxFault x f
        .next (match was with
          | .accepted => s.modCtx x (fun c => if c.life == .accepted then { c with life := .live } else c)
          | _ => s.endIfSettled x)
      | (t, .ok l) =>
        if l.any (fun e => ((s.ctx x).atomicWait e.2 64).isSome) then .next s else .next (t.commitRound x r l)

/-- UNIT_DONE: the final round has committed and nothing of the unit is pending (R244). -/
def execUnitDone (x : CtxId) (s : State) : Host.Outcome State Fault Refusal :=
  let c := s.ctx x
  let i := (s.cell x.ck).island
  if c.life = .accepted ∧ c.closed.isNone ∧ c.prods = [] ∧ c.frozen = false
      ∧ i.rq.any (fun e => e.ctx == x.ctx) = false ∧ i.cq.any (fun e => e.ctx == x.ctx) = false then
    .next (s.endUnit x .done 0 0)
  else .next s

end Sys2Proof.Machine
end

