-- ==== Sys2Proof/Machine/StartRecord.lean ====
section
/-!
DEFINITION. The start record in flash: its form, its two copies, and the service state that it holds (R378, R382).
-/

namespace Sys2Proof.Machine

/-- A copy whose CRC is correct. -/
def recordOk (r : List Byte) : Bool := r.length == 2048 && ofBytes ((r.drop 2032).take 4) == crcMore 0 (r.take 2032)

/-- START of a record, and the entry of step n. -/
def recordStart (r : List Byte) : Nat := ofBytes (r.take 8)
def recordStep (r : List Byte) (n : Nat) : Nat := ofBytes ((r.drop (4 + 4 * n)).take 4)

/-- The record in force, and whether it is the second copy: the correct one with the higher START. (PRESUMED, log 7) -/
def Service.inForce (v : Service) : Option (Bool × List Byte) :=
  let a := recordOk v.rec0
  let b := recordOk v.rec1
  if a && (!b || decide (recordStart v.rec1 ≤ recordStart v.rec0)) then some (false, v.rec0)
  else if b then some (true, v.rec1) else none

/-- A record from its bytes 0 to 2,031. (DEDUCED, log 62) -/
def sealRecord (body : List Byte) : List Byte := body ++ toBytes 4 (crcMore 0 body) ++ List.replicate 12 0

/-- Stores a copy. (DEDUCED, log 62) -/
def Service.store (v : Service) (second : Bool) (r : List Byte) : Service :=
  if second then { v with rec1 := r } else { v with rec0 := r }

/-- One bit for each cell of a die, in 18 bytes. -/
def cellBits (die : Nat) (f : Nat → Bool) : List Byte :=
  tab 18 (fun i => BitVec.ofNat 8 ((List.range 8).foldl (fun x j => x + b2n (f (cellKey die (8 * i + j))) * 2 ^ j) 0))

/-- Bits of a list of flags. -/
def flagBits (l : List Bool) : Nat := l.foldr (fun b x => b2n b + 2 * x) 0

/-- Bytes 136 to 2,031: the service state. -/
def serviceBytes (v : Service) (cell : Nat → Cell) : List Byte :=
  let dies := List.range 4
  toBytes 1 (flagBits v.dies % 16) ++ [0] ++ toBytes 2 (flagBits v.hbms % 2 ^ 12) ++ (tab 12 (fun i => BitVec.ofNat 8 (v.rates.getD i 0)))
    ++ List.replicate 8 0
    ++ dies.flatMap (fun d => cellBits d (fun ck => (cell ck).retired))
    ++ dies.flatMap (fun d => cellBits d (fun ck => (cell ck).spare))
    ++ dies.flatMap (fun d => (List.range 144).flatMap (fun c => toBytes 3 ((cell (cellKey d c)).tilesOut)))

/-- Rewrites the service state of the record in force (R382). (DEDUCED, log 57) -/
def State.rewriteService (s : State) : State :=
  let (second, top) := match s.sys.inForce with
    | some (b, r) => (b, r.take 136)
    | none => (false, List.replicate 136 0)
  { s with sys := s.sys.store second (sealRecord (top ++ serviceBytes s.sys s.cell)) }

/-- Writes the other copy, with a higher START (R378). (DEDUCED, log 57) -/
def Service.putRecord (v : Service) (tail : List Byte) : Service :=
  match v.inForce with
  | some (b, r) => v.store (!b) (sealRecord (toBytes 8 ((recordStart r + 1) % 2 ^ 64) ++ tail))
  | none => v.store false (sealRecord (toBytes 8 1 ++ tail))

end Sys2Proof.Machine
end

