-- ==== Sys2Proof/Machine/Arrivals.lean ====
section
/-!
DEFINITION. What arrives: beats at ports (R153, R159, R239, R343), messages at inboxes (R166 to R168), load data, old values and
the other results of long-latency producers (R21), the acknowledge of TLBINV (R356), and soft errors (R380, R381).
-/

namespace Sys2Proof.Machine

/-! ### Pages and their budgets (R343) -/

/-- Whether a cell's page takes one more beat: its budget of this window has room and no freeze wave has reached it (R336, R343). (DEDUCED, log 50) -/
def State.pageTakes (s : State) (ck : Nat) : Bool :=
  match s.pageOf ck with
  | none => true
  | some p => p.freeze != .wave && (p.budget == 0 || p.win != s.clk.toNat / 1024 || decide (p.taken < p.budget))

/-- Counts a beat against the budget of this window. (DEDUCED, log 50) -/
def State.countBeat (s : State) (ck : Nat) : State :=
  match s.pageOf ck with
  | none => s
  | some p =>
    let win := s.clk.toNat / 1024
    { s with pages := s.pages.map (fun g => if g.key = p.key then { g with taken := (if g.win = win then g.taken else 0) + 1, win := win } else g) }

/-! ### Ports -/

/-- Puts a beat into a port that takes it: none when the beat waits at its sender (R153, R154, R158, R205, R239, R244, R251). `direct` says
that the beat came to port 1 itself, not through a HANDOFF. -/
def State.accept (s : State) (y : CtxId) (q : Nat) (direct : Bool) (b : Beat) : Option State :=
  let c := s.ctx y
  let p := c.port q
  match c.life with
  | .empty => if q != 0 && p.shut then some s else none
  | .failed _ _ => some s
  | .cancelled => some s
  | _ =>
    if c.frozen || !s.pageTakes y.ck then none
    else if p.shut then some (s.countBeat y.ck)
    else if p.out || (q != 0 && p.kind != 1) || (q == 0 && direct && (c.info.hrecv || c.info.seof)) || !p.room 1 then none
    else some ((s.setCtx y (c.setPort q (p.push b))).countBeat y.ck)

/-- A beat for a context's port: port 1 is the steering port, whose stream follows its HANDOFFs (R96, R239). -/
def State.steerTo : Nat → State → CtxId → Bool → Beat → Option State
  | 0, _, _, _, _ => none
  | f + 1, s, y, direct, b =>
    match (s.ctx y).handed with
    | some (ck, i) => State.steerTo f s (ctxAt ck i) false b
    | none => s.accept y 0 direct b

/-- Whether the unit an inbox id reaches is in a frozen image: its traffic is held at the senders (R336, R342). (DEDUCED, log 37) -/
def State.away (s : State) (box : Nat) : Bool :=
  let y := s.receiver box
  s.frozen.any (fun f => f.st == 0 && f.page.die == y.die && f.cells.any (fun k =>
    f.page.cells[k.idx]? == some y.cell && (k.ctxs.getD y.ctx {}).life != .empty))

/-- A beat for a port number (R239). (DEDUCED, log 37) -/
def State.arrive (s : State) (box port : Nat) (b : Beat) : Option State :=
  let y := s.receiver box
  if s.away box then none
  else if port = 1 then State.steerTo 64 s y true b else s.accept y port true b

/-- The context whose steering FIFO takes port 1's stream: the last of its handoffs (R96, R239). -/
def State.steered : Nat → State → CtxId → CtxId
  | 0, _, y => y
  | f + 1, s, y =>
    match (s.ctx y).handed with
    | some (ck, i) => State.steered f s (ctxAt ck i)
    | none => y

/-- The context that beats for a port of an inbox id come to. -/
def State.beatTarget (s : State) (box port : Nat) : CtxId :=
  if port = 1 then State.steered 64 s (s.receiver box) else s.receiver box

/-- Senders hold their beats for a page that a freeze wave has reached or that is frozen (R336, R342). -/
def State.holdsBeats (s : State) (box port : Nat) : Bool :=
  s.away box || s.away (s.beatTarget box port).box || s.waved (s.receiver box).ck || s.waved (s.beatTarget box port).ck

/-- Whether beats that a frozen image recorded for a port are still to come: they enter it before any other (R342). -/
def State.tailBefore (s : State) (box port : Nat) : Bool :=
  s.flights.any (fun g => g.tail && g.port == port && s.beatTarget g.box port == s.beatTarget box port)

/-- BEAT_DEPARTURE: the first committed beat of a routed outbound port leaves (R159), unless its sender must hold it (R336). -/
def execBeatDeparture (x : CtxId) (port : Nat) (s : State) : Host.Outcome State Fault Refusal :=
  let c := s.ctx x
  let p := c.port port
  match p.fifo with
  | [] => .next s
  | b :: r =>
    if p.out ∧ p.kind = 1 ∧ p.base < p.ctail ∧ c.frozen = false
        ∧ s.holdsBeats (fld p.bind.toNat 19 4) (fld p.bind.toNat 23 20) = false then
      let f : Flight := { src := x.box * 16 + port, box := fld p.bind.toNat 19 4, port := fld p.bind.toNat 23 20, beat := b }
      .next { s.setCtx x (c.setPort port { p with fifo := r, base := p.base + 1, eof := p.eof || b.sb == 0x1000 }) with
        flights := s.flights ++ [f] }
    else .next s

/-- BEAT_ARRIVAL: a beat reaches its port, the beats of one port in their order, those that a frozen image recorded before any other (R153,
R159, R342). -/
def execBeatArrival (k : Nat) (s : State) : Host.Outcome State Fault Refusal :=
  match s.flights[k]? with
  | none => .next s
  | some f =>
    if (s.flights.take k).any (fun g => (g.src == f.src && g.via == f.via)
        || (g.tail && g.port == f.port && s.receiver g.box == s.receiver f.box)) then .next s
    else
      match s.arrive f.box f.port f.beat with
      | some t => .next { t with flights := dropIdx s.flights k }
      | none => .next s

/-! ### Message rings (R177) -/

/-- What becomes of a record. -/
inductive RingPut where
  | bad
  | reject
  | full
  | done (s : State)

/-- The length of a record with its word, padded (R177). -/
def recordLen (n : Nat) : Nat := ceilTo 64 (8 + n)

/-- Whether a descriptor is good (R177). (DEDUCED, log 19) -/
def State.ringOk (s : State) (die off : Nat) : Bool :=
  let k := dieKey die off
  let base := s.num k 4
  let size := s.num (k + 4) 4
  off % 64 == 0 && decide (off + 32 ≤ 2 ^ 24) && base % 64 == 0 && decide (base < 2 ^ 24) && size % 64 == 0 && decide (128 ≤ size)
    && decide (size ≤ 2 ^ 23) && decide (base + size ≤ 2 ^ 24) && s.num (k + 16) 16 == 0

/-- Writes bytes into a ring's data area from a position on; what passes its end goes on at BASE (R177). -/
def State.ringBytes (s : State) (die base size pos : Nat) (bs : List Byte) : State :=
  let at' := pos % size
  (s.write (dieKey die (base + at')) (bs.take (size - at'))).write (dieKey die base) (bs.drop (size - at'))

/-- Whether a record from the network is arriving in a ring: its TAIL has not moved yet. (DEDUCED, log 55) -/
def State.ringHeld (s : State) (die off : Nat) : Bool := s.net.posts.any (fun r => r.die == die && r.off == off)

/-- Writes a record into the ring of a descriptor: both pieces, then TAIL (R177). (DEDUCED, log 30) -/
def State.ringRecord (s : State) (die off sender : Nat) (payload : List Byte) : RingPut :=
  let k := dieKey die off
  let base := s.num k 4
  let size := s.num (k + 4) 4
  let tail := s.num (k + 8) 4
  let head := s.num (k + 12) 4
  let n := recordLen payload.length
  if !s.ringOk die off then .bad
  else if size < n then .reject
  else if s.ringHeld die off || decide (size < (tail + 2 ^ 32 - head) % 2 ^ 32 + n) then .full
  else
    let bytes := toBytes 8 (payload.length + sender * 2 ^ 32) ++ payload ++ List.replicate (n - 8 - payload.length) 0
    .done ((s.ringBytes die base size tail bytes).writeNum (k + 8) 4 ((tail + n) % 2 ^ 32))

/-! ### Messages (R166 to R168) -/

/-- Deposits a dirty range in the DLOG ring of a die (R353, R354): false while the ring has no room. (DEDUCED, log 19) -/
def State.logRange (s : State) (die sender : Nat) (payload : List Byte) : State × Bool :=
  match addrWord (s.num (dieKey die (tcb + 16)) 8) with
  | some (.ring d off) =>
    match s.ringRecord d off sender payload with
    | .done t => (t, true)
    | .full => (s, false)
    | _ => (s, true)
  | _ => (s, true)

/-- MESSAGE_DEPARTURE: a message leaves the cell's queue, those of one context to one inbox in order, none past a waiting deposit, and a
deposit after every earlier message of its context (R166, R354). -/
def execMessageDeparture (die cell k : Nat) (s : State) : Host.Outcome State Fault Refusal :=
  let ck := cellKey die cell
  let q := (s.cell ck).queue
  match q[k]? with
  | none => .next s
  | some e =>
    if (q.take k).any (fun f => f.log || (f.ctx == e.ctx && (e.log || f.box == e.box))) then .next s
    else
      let out (s : State) : State := s.modCell ck (fun c => { c with queue := dropIdx q k })
      if e.log then
        match s.logRange die (ctxAt ck e.ctx).box (toBytes 24 e.m.toNat) with
        | (t, true) => .next (out t)
        | (_, false) => .next s
      else
        .next { out s with transit := s.transit ++ [{ src := (ctxAt ck e.ctx).box, priv := e.priv, box := e.box, m := e.m, lg := e.lg,
                                                      launch := e.launch }] }

/-- OPC of a message. -/
def msgOpc (m : Msg) : Nat := (m.extractLsb' 0 8).toNat

/-- Answers a message that is not taken with a status; a reply is never answered (R167). -/
def State.respond (s : State) (t : Transit) (status : Nat) : State :=
  if msgOpc t.m = 0x7F then s else s.reply t.box t.m status 0 0 t.node

/-- A message with no live receiver is discarded; its sender hears NORECV unless the message is a reply (R167). -/
def State.noReceiver (s : State) (t : Transit) : State := s.respond t 0x0A

/-- The inbox port of a context: its lowest-numbered inbound port bound with KIND 2 (R167). -/
def Ctx.inboxPort (c : Ctx) : Option Nat := ((List.range 16).drop 2).find? (fun q => !(c.port q).out && (c.port q).kind == 2)

/-- A message as a beat (R167). -/
def msgBeat (m : Msg) : Beat := { sb := 0x0240, data := m.zeroExtend 2048 }

/-- The command that a message becomes at its receiver. -/
def Transit.cmd (t : Transit) (seq : Nat) : Cmd :=
  { m := t.m, src := t.src, priv := t.priv, seq := seq, free := t.m.getLsbD 8, lg := t.lg, launch := t.launch, node := t.node }

/-- A reserved header field is set (R164). -/
def headerBad (m : Msg) : Bool :=
  m.extractLsb' 12 4 != 0 || m.extractLsb' 18 6 != 0 || m.extractLsb' 40 8 != 0 || m.extractLsb' 160 32 != 0

/-- QUEUE, FREE or BAR is set. -/
def headerExtra (m : Msg) : Bool := m.extractLsb' 16 2 != 0 || m.getLsbD 8 || m.getLsbD 10

/-- Header fields that a scheduler command does not use are not zero: BADDR, and CADDR and CVAL without CW (R309). -/
def headerUnused (m : Msg) : Bool :=
  m.extractLsb' 192 64 != 0 || (!m.getLsbD 9 && m.extractLsb' 64 96 != 0)

/-- Whether operand bits from lo up to and not including hi are zero. -/
def zeroBits (m : Msg) (lo hi : Nat) : Bool := (m.toNat >>> lo) % 2 ^ (hi - lo) == 0

/-- The form of a transport command (R371): every listed field in range, every other bit zero. -/
def netForm (peers groups : Nat) (m : Msg) : Bool :=
  let f (lo n : Nat) : Nat := (m.extractLsb' lo n).toNat
  let mem (w : Nat) : Bool := match addrWord w with
    | some (.virt _) => true
    | some (.tile _ _) => true
    | some (.die _ _) => true
    | _ => false
  if msgOpc m = 8 then true
  else if msgOpc m = 0x43 then
    let size := if f 364 4 = 0 then 1 else if f 364 4 = 5 then 2 else 4
    mem (f 256 64) && decide (f 364 4 ≤ 6) && f 320 32 % size == 0 && decide (f 352 12 < groups) && zeroBits m 368 384 && mem (f 384 64)
      && zeroBits m 448 512
  else
    mem (f 256 64) && f 320 32 != 0 && decide (f 352 12 < peers) && zeroBits m 365 384 && (msgOpc m != 0x42 || zeroBits m 410 433)
      && zeroBits m 433 448 && f 448 5 == 0 && zeroBits m 475 512

/-- A management command (R382). -/
def isManage (m : Msg) : Bool := decide (0x60 ≤ msgOpc m) && decide (msgOpc m ≤ 0x65)

/-- The form of a management command (R382): every field in range, every other operand bit zero. (DEDUCED, log 56) -/
def manageForm (m : Msg) : Bool :=
  let f (lo n : Nat) : Nat := (m.extractLsb' lo n).toNat
  let opc := msgOpc m
  if opc = 0x60 then zeroBits m 272 512 && decide (f 256 8 < 144) && decide (f 266 5 < 24)
  else if opc = 0x61 then zeroBits m 259 512
  else if opc = 0x62 then zeroBits m 265 512 && decide (f 256 4 < 12)
  else if opc = 0x64 then zeroBits m 384 512
  else zeroBits m 320 512

/-- The header checks of a receiver (R168, R282, R309): the status of a refusal. (DEDUCED, log 56) -/
def refusal (kind : Nat) (m : Msg) : Option Nat :=
  let opc := msgOpc m
  let bad (b : Bool) (n : Nat) : Option Nat := if b then some n else none
  if headerBad m then some 2
  else if kind = 2 then
    if opc = 0 ∨ 9 < opc then some 1 else bad (opc == 9 && !m.getLsbD 10) 2
  else if kind = 5 then bad (opc != 0x0A) 1
  else if kind = 6 then bad (!(opc == 8 || (decide (0x40 ≤ opc) && decide (opc ≤ 0x43)))) 1
  else if kind = 4 then
    if opc = 0x20 then bad (headerExtra m || !zeroBits m 322 512) 2
    else if opc = 0x21 then
      let box := (m.extractLsb' 336 16).toNat
      let n := (m.extractLsb' 320 16).toNat
      bad (headerExtra m || !zeroBits m 356 512 || n == 0 || decide (4096 < n) || decide ((m.extractLsb' 352 4).toNat < 2)
        || !(box == 0xFFFF || ctxBoxOk box)) 2
    else some 1
  else if opc = 0x30 then bad (headerExtra m || headerUnused m || !zeroBits m 332 512) 2
  else if opc = 0x31 then bad (headerExtra m || headerUnused m || !zeroBits m 458 512) 2
  else if opc = 0x32 then
    let lvl := (m.extractLsb' 320 3).toNat
    bad (headerExtra m || headerUnused m || !zeroBits m 323 352 || !zeroBits m 448 512 || !(lvl == 3 || lvl == 4) || m.extractLsb' 352 32 == 0) 2
  else if opc = 0x33 then
    let lvl := (m.extractLsb' 320 3).toNat
    bad (headerExtra m || headerUnused m || !zeroBits m 323 512 || lvl == 0 || decide (4 < lvl)) 2
  else some 1

/-- Whether the sender of an SBATCH may leave SRCBOX to name itself (R282). -/
def batchSourceOk (t : Transit) : Bool :=
  !(msgOpc t.m == 0x21 && (t.m.extractLsb' 336 16).toNat == 0xFFFF) || (fld t.src 15 12 == 0 && ctxBoxOk t.src)

/-- The entries that an SLAUNCH asks for (R311). -/
def launchNeed (m : Msg) : Nat := 1 + (m.extractLsb' 320 12).toNat

/-- Whether a message to a scheduler asks for pool entries of its own: an SLAUNCH that no LAUNCH was granted, an SGRAPH of no phase. (DEDUCED, log 38) -/
def Transit.asks (t : Transit) : Bool :=
  (msgOpc t.m == 0x30 && t.lg.isNone) || (msgOpc t.m == 0x31 && (t.m.extractLsb' 384 64).toNat == 0)

/-- Whether a message to a scheduler waits at its sender: for pool room, which descheduled LAUNCHes and then the messages in their order of
arrival get first, or for a place among the 256 held graphs (R309, R311, R320). (DEDUCED, log 38) -/
def State.schedWaits (s : State) (die : Nat) (t : Transit) : Bool :=
  let d := s.sched die
  let room : Bool := msgOpc t.m != 0x30 || t.lg.isSome || decide (launchNeed t.m ≤ d.room)
  let held := (d.graphs.filter (fun g => !g.ended && !g.admitted)).length + (d.queue.filter (fun c => msgOpc c.m == 0x31)).length
  let earlier := s.transit.any (fun u => u.box == t.box && u.arr != 0 && (t.arr == 0 || decide (u.arr < t.arr)))
  d.graphs.any (fun g => g.pwait && g.cmd.src == t.src) || !room || (msgOpc t.m == 0x31 && decide (256 ≤ held))
    || (t.asks && (earlier || d.asking || !d.waits.isEmpty))

/-- A message enters a scheduler's queue. (DEDUCED, log 38) -/
def State.intoSched (s : State) (die : Nat) (t : Transit) : State :=
  s.modSched die (fun d => { d with queue := d.queue ++ [t.cmd 0] })

/-- NPEER and NGRP of the transport control block (R369). -/
def netTcb : Nat := dieKey 0 0xFFF000
def State.npeer (s : State) : Nat := s.num (netTcb + 8) 2
def State.ngrp (s : State) : Nat := s.num (netTcb + 10) 2

/-- A subtraction of the transport engine clamped at 0 (R369, R372). -/
def State.netUnder (s : State) : State := s.putNum (netTcb + 52) 4 (s.num (netTcb + 52) 4 + 1)

/-- The refusal of a message that reaches a receiver (R168, R371, R382). -/
def State.refuses (s : State) (kind : Nat) (t : Transit) : Option Nat :=
  if kind = 1 then
    if t.box % 4 = 0 ∧ isManage t.m then (if !t.priv then some 0x13 else if headerBad t.m || !manageForm t.m then some 2 else none)
    else none
  else
    match refusal kind t.m with
    | some st => some st
    | none => if kind = 6 ∧ netForm s.npeer s.ngrp t.m = false then some 2 else none

/-- A delivery: `none` leaves the message at its sender (R166). An id that no receiver can have reaches none (R163, R167). (DESIGN CHOICE, log 20; DEDUCED, log 37) -/
def State.deliver (s : State) (t : Transit) : Option State :=
  let kind := fld t.box 15 12
  let die := fld t.box 11 10
  let dieOut := !(s.sys.dies.getD die true)
  let checked (k : Unit → Option State) : Option State :=
    match s.refuses kind t with
    | some st => some (s.respond t st)
    | none => k ()
  if boxOk t.box = false then some (s.noReceiver t)
  else if kind = 0 then
    let y := s.receiver t.box
    let c := s.ctx y
    let live : Bool := c.life == .live || c.life == .accepted
    if s.away t.box then none
    else match c.inboxPort with
    | none => if c.frozen then none else some (s.noReceiver t)
    | some q =>
      if live = false ∨ fusedOff y.ck then some (s.noReceiver t)
      else if c.frozen || !s.pageTakes y.ck then none
      else
        let p := c.port q
        if p.shut then some (s.countBeat y.ck)
        else if p.room 1 then some ((s.setCtx y (c.setPort q (p.push (msgBeat t.m)))).countBeat y.ck) else none
  else if kind = 1 then
    if dieOut then some (s.noReceiver t)
    else if s.sys.restart.head? = some (4 * die + t.box % 4) then none
    else checked (fun _ =>
      let b := s.boxes.getD t.box {}
      let l := b.qs.getD 0 []
      if Config.coreDepth t.box + 1 ≤ l.length then none
      else some { s with boxes := s.boxes.set t.box { b with qs := b.qs.set 0 (l ++ [{ t.cmd b.seq with free := false }]), seq := b.seq + 1 } })
  else if kind = 2 ∨ kind = 5 ∨ kind = 6 then
    let b := s.boxes.getD t.box {}
    if b.out || (kind == 2 && dieOut) then some (s.noReceiver t)
    else checked (fun _ =>
      let q := (t.m.extractLsb' 16 2).toNat
      let l := b.qs.getD q []
      if 64 ≤ l.length then none
      else some { s with boxes := s.boxes.set t.box { b with qs := b.qs.set q (l ++ [t.cmd b.seq]), seq := b.seq + 1 } })
  else if kind = 3 then
    let d := s.sched die
    if dieOut || d.out then some (s.noReceiver t)
    else checked (fun _ =>
      if 64 ≤ d.queue.length || s.schedWaits die t then none else some (s.intoSched die t))
  else if kind = 4 then
    let b := s.samplers.getD die {}
    if b.out || dieOut then some (s.noReceiver t)
    else if batchSourceOk t = false then some (s.respond t 2)
    else checked (fun _ =>
      if 64 ≤ b.queue.length then none
      else some { s with samplers := s.samplers.set die { b with queue := b.queue ++ [t.cmd 0] } })
  else some (s.noReceiver t)

/-- Whether two messages keep their order: they come from one sender and go to one inbox (R166). -/
def State.sameWay (s : State) (t u : Transit) : Bool :=
  t.src == u.src && t.via == u.via
    && (t.box == u.box || (fld t.box 15 12 == 0 && fld u.box 15 12 == 0 && s.receiver t.box == s.receiver u.box))

/-- A delivery of the k-th message under way, or, where it waits for pool room, the note of its arrival (R166, R311). -/
def State.tryDeliver (s : State) (k : Nat) (t : Transit) : State × Bool :=
  match s.deliver t with
  | some u => ({ u with transit := dropIdx s.transit k ++ u.transit.drop s.transit.length }, true)
  | none =>
    if fld t.box 15 12 = 3 ∧ t.asks ∧ t.arr = 0 then
      ({ s with transit := modIdx (fun (t : Transit) => { t with arr := s.serial + 1 }) s.transit k, serial := s.serial + 1 }, false)
    else (s, false)

/-- INBOX_MESSAGE_DELIVERY: a message reaches its inbox, those of one sender to one inbox in order (R166, R167). Replies to a scheduler,
messages of a host window and messages to one have events of their own. -/
def execInboxMessageDelivery (k : Nat) (s : State) : Host.Outcome State Fault Refusal :=
  match s.transit[k]? with
  | none => .next s
  | some t =>
    if (s.transit.take k).any (s.sameWay t) ∨ fld t.box 15 12 = 7 ∨ fld t.src 15 12 = 7
        ∨ (fld t.box 15 12 = 3 ∧ msgOpc t.m = 0x7F) then .next s
    else .next (s.tryDeliver k t).1

/-! ### Soft errors (R380, R381) -/

/-- Raises a counter of a die's health block (R381). -/
def State.health (s : State) (die off : Nat) : State :=
  let k := dieKey die (0xFFE800 + off)
  s.putNum k 4 (s.num k 4 + 1)

/-- %finfo of a SOFTERR failure (R380). (DEDUCED, log 16) -/
def softInfo (part cell die tile : Nat) : Word := BitVec.ofNat 64 (part + cell * 2 ^ 4 + die * 2 ^ 12 + tile * 2 ^ 14)

/-- Notes an uncorrectable error in the health block (R381). -/
def State.noteLost (s : State) (die : Nat) (info : Word) : State :=
  (s.health die 20).putNum (dieKey die (0xFFE800 + 24)) 8 info.toNat

/-- The physical tile of a scratch ordinal: mapped-out tiles are skipped (R258). -/
def Cell.tileOf (k : Cell) (ord : Nat) : Nat := ((List.range 24).filter (fun t => !bit k.tilesOut t)).getD ord 0

/-- The FIFO tiles of a cell: the f offered tiles behind the scratch tiles, as its role map says; the k behind those are its cache (R258). -/
def Cell.fifoTile (k : Cell) (i : Nat) : Nat := k.tileOf (k.scratch + i % max 1 (fld (k.word 4 0).toNat 9 5))
def Cell.cacheTile (k : Cell) (i : Nat) : Nat :=
  k.tileOf (k.scratch + fld (k.word 4 0).toNat 9 5 + i % max 1 (fld (k.word 4 0).toNat 14 10))

/-- Maps a tile out (R258, R380, R382). -/
def Cell.mapOut (k : Cell) (t : Nat) : Cell :=
  if bit k.tilesOut t then k else { k with tilesOut := k.tilesOut + 2 ^ t, tiles := k.tiles - 1 }

/-- Takes a cell or a tile out of service: a cell's place is taken by a spare of its die, and the record says so (R382, R383). (DEDUCED, log 57) -/
def State.retireNow (s : State) (ck : Nat) (tile : Option Nat) : State :=
  State.rewriteService (match tile with
  | some t => s.modCell ck (fun k => k.mapOut t)
  | none =>
    if (s.cell ck).retired then s
    else
      let s := s.modCell ck (fun k => { k with retired := true })
      let spares := (List.range 144).filter (fun c => let k := s.cell (cellKey (ck / 144) c)
        k.spare && !k.retired && !fusedOff (cellKey (ck / 144) c))
      match spares[Config.freeNat s.fresh % max 1 spares.length]? with
      | some c => { s with fresh := s.fresh + 1 }.modCell (cellKey (ck / 144) c) (fun k => { k with spare := false })
      | none => s)

/-- Asks for a cell or a tile to be retired: at once where no page stands on the cell, else once that page has been frozen (R382). (DEDUCED, log 57) -/
def State.retireSoon (s : State) (ck : Nat) (tile : Option Nat) : State :=
  match s.pageOf ck with
  | none => s.retireNow ck tile
  | some p =>
    let busy := p.loading || p.cells.any (fun c => (s.cell (cellKey p.die c)).busy)
    { s with
      sys := { s.sys with retiring := s.sys.retiring ++ [(ck, tile)] }
      pages := s.pages.map (fun g => if g.key = p.key ∧ busy ∧ g.freeze = .no then { g with freeze := .asked, toDie := g.die } else g) }

/-- Retires what waited for the cells of a page. -/
def State.retireAll (s : State) (cells : List Nat) : State :=
  let mine := s.sys.retiring.filter (fun r => cells.contains r.1)
  let s := { s with sys := { s.sys with retiring := s.sys.retiring.filter (fun r => !cells.contains r.1) } }
  mine.foldl (fun s r => s.retireNow r.1 r.2) s

/-- Whether a context holds a unit that has not ended: it runs, or its final round is still to commit (R244). -/
def Ctx.hosts (c : Ctx) : Bool := c.life == .live || c.life == .accepted

/-- Fails a unit with SOFTERR; an error in the buffer of its closed round voids that round too (R205, R380). An accepted unit has no open round to
void. (DEDUCED, log 16) -/
def State.softFail (s : State) (x : CtxId) (info : Word) (buffer : Bool) : State :=
  let s := if buffer && (s.ctx x).closed.isSome then s.voidRounds x true else s
  if (s.ctx x).life = .accepted then
    ((s.flush x).modCtx x (fun c => { c with life := .failed 0x0D info, prods := c.prods.filter Prod.hosted, wait := .none })).endIfSettled x
  else s.failUnit x 0x0D info

/-- Whether an error lies in the L2 or in the HBM, a free choice: PART and the counter of corrected errors (R380, R381). (DEDUCED, log 16) -/
def State.l2Part (s : State) : Nat := if Config.freeBit s.fresh then 6 else 7
def State.l2Counter (s : State) : Nat := if Config.freeBit s.fresh then 8 else 12

/-- An uncorrectable L2 or HBM word: it is noted, its row is repaired, and it is written zero (R380, R381). (DEDUCED, log 16) -/
def State.lostWord (s : State) (home n die : Nat) (info : Word) : State :=
  ((({ s with fresh := s.fresh + 1 }).noteLost die info).health die 16).zero (home / 64 * 64) ((home % 64 + n + 63) / 64 * 64)

/-- An uncorrectable error in the state of a context: the unit fails and the cell is retired (R380). -/
def State.lostState (s : State) (x : CtxId) (part tile : Nat) (buffer : Bool) : State :=
  let info := softInfo part x.cell x.die tile
  ((s.softFail x info buffer).noteLost x.die info).retireSoon x.ck none

/-- An uncorrectable error in a scratch tile, at a home: every unit of the cell fails and the tile is mapped out (R380); what the word holds from
then on is a free value. (DEDUCED, log 16) -/
def State.lostTile (s : State) (home : Nat) : State :=
  let ck := (home - homeTag 3) / 2 ^ 22
  let t := (s.cell ck).tileOf (home % 2 ^ 22 / 2 ^ 17)
  let info := softInfo 5 (ck % 144) (ck / 144) t
  let s := { s with fresh := s.fresh + 1 }.poke (home / 64 * 64) (toBytes 64 (Config.freeNat s.fresh))
  let s := (s.noteLost (ck / 144) info).retireNow ck (some t)
  (s.cellCtxs ck).foldl (fun s e => if e.2.hosts then s.softFail e.1 info false else s) s

/-- An uncorrectable word under a load part (R380). Die scratch counts as L2, a lane slice as the register file; a unit that reads a lost tile of
another cell fails too, so that no register gets the value. (DEDUCED, log 16) -/
def State.lostPiece (s : State) (x : CtxId) (p : Piece) : State :=
  match p.sp with
  | .g =>
    let die := homeDie p.home
    let info := softInfo s.l2Part 0 die 0
    (s.lostWord p.home p.len die info).softFail x info false
  | .d =>
    let die := (p.home - homeTag 2) / 2 ^ 24
    let info := softInfo 6 0 die 0
    ((s.noteLost die info).zero (p.home / 64 * 64) ((p.home % 64 + p.len + 63) / 64 * 64)).softFail x info false
  | .l => s.lostState x 1 0 false
  | _ =>
    let ck := (p.home - homeTag 3) / 2 ^ 22
    let info := softInfo 5 (ck % 144) (ck / 144) ((s.cell ck).tileOf (p.home % 2 ^ 22 / 2 ^ 17))
    let s := s.lostTile p.home
    if ck = x.ck then s else s.softFail x info false

/-- An uncorrectable error that shows itself apart from a load, in any other access or part (R380): `part` is its PART, `k` says which tile or
word. It leaves the state as it is where the part cannot be. (DEDUCED, log 16) -/
def State.lostElsewhere (s : State) (x : CtxId) (part k : Nat) : State :=
  let c := s.cell x.ck
  if part = 3 then s.lostState x 3 (c.fifoTile k) false
  else if part = 4 then s.lostState x 4 0 (bit k 0)
  else if part = 1 ∨ part = 2 then s.lostState x part 0 false
  else if part = 5 then s.lostTile (tileKey x.ck (k % max 1 (c.scratch * 2 ^ 17)))
  else if (part = 6 ∨ part = 7) ∧ isHbm k then
    let info := softInfo part 0 (homeDie k) 0
    (s.lostWord (k / 64 * 64) 64 (homeDie k) info).softFail x info false
  else s

/-- Counts a corrected error under a load part, by where it falls (R381). -/
def State.corrected (s : State) (x : CtxId) (p : Piece) : State :=
  match p.sp with
  | .g => { s.health (homeDie p.home) s.l2Counter with fresh := s.fresh + 1 }
  | .s => s.health x.die 4
  | .n => s.health ((p.home - homeTag 3) / 2 ^ 22 / 144) 4
  | .d => s.health ((p.home - homeTag 2) / 2 ^ 24) 8
  | .l => s.health x.die 0

/-- Counts a corrected error that shows itself apart from a load, in any other access or part, by its PART (R380, R381). (DEDUCED, log 16) -/
def State.fixedElsewhere (s : State) (x : CtxId) (part k : Nat) : State :=
  if part = 1 ∨ part = 2 ∨ part = 4 then s.health x.die 0
  else if part = 3 ∨ part = 5 then s.health x.die 4
  else if part = 6 ∨ part = 7 then s.health (if isHbm k then homeDie k else x.die) (if part = 6 then 8 else 12)
  else s

/-! ### Results (R21) -/

/-- Fills a load whose parts have all been performed, and performs its acquire (R132, R136). -/
def State.fillLoad (s : State) (x : CtxId) (id : Nat) : State :=
  match (s.ctx x).prods.find? (fun p => p.id == id) with
  | some p =>
    match p.kind with
    | .load ty vec [] got =>
      let s := match p.acq with
        | some sc => s.acquire x sc
        | none => s
      s.modCtx x (fun c => c.deliver p (fun old => loadValue ty vec got old))
    | _ => s
  | none => s

/-- Whether an earlier pending load still has to read a byte that a part reads: the earlier one comes first (R135). (DEDUCED, log 71) -/
def Prod.readsAlso (p : Prod) (q : Piece) : Bool :=
  match p.kind with
  | .load _ _ todo _ => todo.any (fun r => r.touches [(q.home, q.len)])
  | _ => false

/-- LOAD_DATA_ARRIVAL: the next part of a load, or of a store to `.s` or `.l`, is performed; when none of a load is left, its destination fills
(R32, R129, R132). An error of
another part or access of a unit comes with it (R380). (DEDUCED, log 15 and 16) -/
def execLoadDataArrival (x : CtxId) (k : Nat) (e : Ecc) (s : State) : Host.Outcome State Fault Refusal :=
  match e, (s.ctx x).prods[k]? with
  | .part n, _ => .next (if (s.ctx x).hosts ∧ (s.ctx x).frozen = false then s.lostElsewhere x n k else s)
  | .fixed n, _ => .next (s.fixedElsewhere x n k)
  | _, none => .next s
  | e, some p =>
    match p.kind with
    | .store _ => .next (s.performStore x p)
    | .lanes l =>
      if ((s.ctx x).prods.take k).any (fun o => o.lanesAlso l) then .next s
      else
      match e with
      | .lost => .next (s.lostState x 1 0 false)
      | _ =>
        let s := if e = .corrected then s.health x.die 0 else s
        let s := match p.acq with
          | some sc => s.acquire x sc
          | none => s
        .next (s.modCtx x (fun c => c.deliver p (fun old => loadValue 0 true (l.map (fun b => (b.1, memGet s.mem b.2))) old)))
    | .load _ _ todo _ =>
      match todo with
      | [] => .next (s.fillLoad x p.id)
      | q :: _ =>
        if isHostKey q.home ∨ ((s.ctx x).prods.take k).any (fun o => o.readsAlso q) then .next s
        else
          match e with
          | .clean => .next ((s.performNext x p).fillLoad x p.id)
          | .corrected => .next (((s.corrected x q).performNext x p).fillLoad x p.id)
          | .lost => .next (s.lostPiece x q)
          | _ => .next s
    | _ => .next s

/-- ATOMIC_OLD_VALUE_RETURN: the atomic is performed at its home, and its old value returns (R145, R146). (DEDUCED, log 15) -/
def execAtomicOldValueReturn (x : CtxId) (k : Nat) (s : State) : Host.Outcome State Fault Refusal :=
  match (s.ctx x).prods[k]? with
  | none => .next s
  | some p =>
    match p.kind with
    | .atomic op ty home a b _ _ =>
      let n := tyBits ty / 8
      let s := s.settleLoads x home n
      let old := s.num home n
      let s := s.performAtomic x op ty home a b
      let s := match p.acq with
        | some sc => s.acquire x sc
        | none => s
      .next (s.modCtx x (fun c => c.deliver p (fun _ => (extTy ty old).toNat)))
    | _ => .next s

/-- WAITW_SATISFIED: the word had reached its target (R149). -/
def execWaitwSatisfied (x : CtxId) (k : Nat) (s : State) : Host.Outcome State Fault Refusal :=
  match (s.ctx x).prods[k]? with
  | none => .next s
  | some p =>
    match s.watches.find? (fun w => w.x == x && w.id == p.id) with
    | none => .next s
    | some w =>
      match w.got with
      | none => .next s
      | some v =>
        let s := { s with watches := s.watches.filter (fun u => !(u.x == x && u.id == p.id)) }
        let s := match p.acq with
          | some sc => s.acquire x sc
          | none => s
        .next (s.modCtx x (fun c => c.deliver p (fun _ => v.toNat)))

/-- CSTAT_FILL (R217). -/
def execCstatFill (x : CtxId) (k : Nat) (s : State) : Host.Outcome State Fault Refusal :=
  match (s.ctx x).prods[k]? with
  | none => .next s
  | some p =>
    match p.kind with
    | .cstat home sel wait =>
      if wait ∧ s.recStatus home = 0 then .next s
      else
        let v := s.num (home + 8 * sel) 8
        let s := match p.acq with
          | some sc => s.acquire x sc
          | none => s
        .next (s.modCtx x (fun c => c.deliver p (fun _ => v)))
    | _ => .next s

/-- LOOKAHEAD_FILL (R35). -/
def execLookaheadFill (x : CtxId) (k : Nat) (s : State) : Host.Outcome State Fault Refusal :=
  let c := s.ctx x
  match c.prods[k]? with
  | none => .next s
  | some p =>
    match p.kind with
    | .look pos => match c.lookAt pos with
      | some v => .next (s.setCtx x (c.deliver p (fun _ => v)))
      | none => .next s
    | _ => .next s

/-- Whether a shoot-down reaches the page of an address (R207). -/
def Shoot.page (h : Shoot) (asid va lg : Nat) : Bool := h.hits asid (va / 2 ^ lg * 2 ^ lg) (2 ^ lg)

/-- Whether an access of a context translated under an invalidated entry is still to be performed: one issued before the shoot-down (R356). -/
def Ctx.owes (c : Ctx) (h : Shoot) : Bool :=
  c.prods.any (fun p => decide (p.id < h.since) && (match p.kind with
    | .load _ _ todo _ => todo.any (fun q => q.sp == .g && h.page q.base q.va q.lg)
    | .waitw home asid va => (isHbm home || isHostKey home) && h.page asid va p.lg
    | .hostAtomic _ _ asid va => h.page asid va p.lg
    | .atomic _ _ home _ _ asid va => isHbm home && h.page asid va p.lg
    | _ => false))

/-- TLBINV_ACKNOWLEDGE: every access translated under an invalidated entry has been performed or voided; the word ends (R356), and under a freeze
wave its context stops there (R337). -/
def execTlbinvAcknowledge (x : CtxId) (s : State) : Host.Outcome State Fault Refusal :=
  match s.shoots.find? (fun h => h.x == x) with
  | none => .next s
  | some h =>
    if s.allCtxs.any (fun e => e.2.owes h) then .next s
    else
      let t := (s.pastWord x).modCtx x (fun c => { c with frozen := c.frozen || s.waved x.ck })
      .next { t with shoots := s.shoots.filter (fun g => g.x != x) }

end Sys2Proof.Machine
end

