-- ==== Sys2Proof/Machine/Engines.lean ====
section
/-!
DEFINITION. Engine commands (R168 to R177): how a command reaches memory and ports, its runs and marks, filtering, reductions,
verification, queue order, migration, and the steps in which it finishes. A command advances by one part, beat or element at a
time; `s.eng` names the command that moves, by its inbox and number.
-/

namespace Sys2Proof.Machine

/-! ### The command and its parameter block (R164, R169) -/

/-- The command of an inbox with a number. -/
def State.cmd? (s : State) (box seq : Nat) : Option Cmd :=
  (s.boxes.getD box {}).qs.findSome? (fun q => q.2.find? (fun c => c.seq == seq))

/-- Changes the command of an inbox with a number. -/
def State.modCmd (s : State) (box seq : Nat) (f : Cmd → Cmd) : State :=
  let b := s.boxes.getD box {}
  { s with boxes := s.boxes.set box { b with qs := b.qs.map (fun q =>
      (q.1, q.2.map (fun c => if c.seq == seq then f c else c))) } }

/-- Takes a command out of its queue. -/
def State.dropCmd (s : State) (box seq : Nat) : State :=
  let b := s.boxes.getD box {}
  { s with boxes := s.boxes.set box { b with qs := b.qs.map (fun q => (q.1, q.2.filter (fun c => c.seq != seq))) } }

/-- A field of the message, and one of the parameter block. -/
def Cmd.op (c : Cmd) (lo n : Nat) : Nat := (c.m.extractLsb' lo n).toNat
def Cmd.par (c : Cmd) (lo n : Nat) : Nat := (c.pb >>> lo) % 2 ^ n

/-- OPC, QUEUE, ASID, CW, BAR and ACK of the header (R164). -/
def Cmd.opc (c : Cmd) : Nat := c.op 0 8
def Cmd.queue (c : Cmd) : Nat := c.op 16 2
def Cmd.asid (c : Cmd) : Nat := c.op 48 16
def Cmd.cw (c : Cmd) : Bool := c.m.getLsbD 9
def Cmd.bar (c : Cmd) : Bool := c.m.getLsbD 10
def Cmd.ack (c : Cmd) : Bool := c.m.getLsbD 11

/-- Fields of the parameter block (R169). -/
def Cmd.srcWord (c : Cmd) : Nat := c.par 0 64
def Cmd.dstWord (c : Cmd) : Nat := c.par 64 64
def Cmd.len (c : Cmd) : Nat := c.par 128 32
def Cmd.ml (c : Cmd) (k : Nat) : Nat := c.par (160 + 3 * k) 3
def Cmd.isOpen (c : Cmd) : Bool := c.par 172 1 == 1
def Cmd.flvl (c : Cmd) : Nat := c.par 173 3
def Cmd.rty (c : Cmd) : Nat := c.par 176 4
def Cmd.ndst (c : Cmd) : Nat := c.par 180 3
def Cmd.auxWord (c : Cmd) : Nat := c.par 192 64
def Cmd.count (c : Cmd) (k : Nat) : Nat := c.par (192 + 64 * k) 32
def Cmd.stride (c : Cmd) (k : Nat) : Int := sgn 32 (c.par (224 + 64 * k) 32)
def Cmd.ubWord (c : Cmd) : Nat := c.par 448 64
def Cmd.dstN (c : Cmd) (k : Nat) : Nat := c.par (512 + 64 * k) 64

/-- The place of an address word, or virtual address 0. -/
def placeOf (w : Nat) : Place := (addrWord w).getD (.virt 0)

/-- KIND 0, 2 or 3. -/
def Place.mem : Place → Bool
  | .virt _ => true
  | .tile _ _ => true
  | .die _ _ => true
  | _ => false

/-- KIND 0. -/
def Place.isVirt : Place → Bool
  | .virt _ => true
  | _ => false

/-- A valid address word of memory. -/
def memWord (w : Nat) : Bool := ((addrWord w).map Place.mem).getD false

/-- The ADDR field of a place. -/
def Place.addr : Place → Nat
  | .virt va => va
  | .tile ck off => ck % 144 * 2 ^ 22 + off
  | .die _ off => off
  | .port box q => q * 2 ^ 16 + box
  | .ring _ off => off

/-- The port that a stream command delivers into, once its block has been read. -/
def Cmd.toPort (c : Cmd) : Option (Nat × Nat) :=
  if c.checked && 1 ≤ c.opc && c.opc ≤ 4 then
    match addrWord c.dstWord with
    | some (.port box q) => some (box, q)
    | _ => none
  else none

/-! ### How a command ends (R171, R176) -/

/-- The payload of a command has ended with a status: the stream still closes with EOF, unless the port takes no further beat
(R170, R171). An UNDER already reached gives way to another failing status (R176), as a failing one does to a CLOSED or NORECV met when that EOF is
placed; one that was known before the block was read stays. (DEDUCED, log 29; DESIGN CHOICE, log 91) -/
def Cmd.stop (c : Cmd) (status faddr : Nat) : Cmd :=
  let keep : Bool := status == 0 || (!c.checked && c.status != 0)
  { c with
    status := if keep then c.status else status
    faddr := if keep then c.faddr else faddr
    phase := if c.toPort.isSome && !c.isOpen && status != 6 && status != 0x0A then 2 else 3 }

/-- The completion word could not be written (R173, R176). -/
def Cmd.noWord (c : Cmd) (status faddr : Nat) : Cmd :=
  { c with phase := 6, status := if c.status = 0 then status else c.status, faddr := if c.status = 0 then faddr else c.faddr }

/-- The address of the page of an address. -/
def pageAddr (va : Nat) : Nat := va / 2 ^ 16 * 2 ^ 16

/-- A translation fault could not be resolved (R173, R175, R176). -/
def Cmd.untranslated (c : Cmd) (va : Nat) : Cmd :=
  if c.phase = 5 then c.noWord 4 va
  else c.stop 4 (if c.opc = 7 ∧ c.fresh ∧ c.checked then pageAddr va else va)

/-! ### Accesses of an engine (R169, R173) -/

/-- The cell at a KIND 2 address: none when it is fused, retired or not loaded, or lacks the scratch ordinal. -/
def State.tileOk (s : State) (die a : Nat) : Bool :=
  let ck := cellKey die (a / 2 ^ 22)
  let k := s.cell ck
  decide (a / 2 ^ 22 < 144) && !s.unusable ck && k.st == 2 && decide (a % 2 ^ 22 / 2 ^ 17 < k.scratch)

/-- What an access of an engine, the sampler, the transport engine or the scheduler finds. -/
inductive Access where
  | home (k : Nat)
  | perm (faddr : Nat)
  | fault (va kind level : Nat)
  | lost

/-- Finds the home of n bytes at an offset from a place, within one 64-byte block (R173). (DEDUCED, log 11 and 29) -/
def State.locate (s : State) (pt : Party) (asid : Nat) (p : Place) (off : Int) (n : Nat) (wr : Bool) : State × Access :=
  let a : Int := (p.addr : Int) + off
  let bad : State × Access := (s, .perm (wrap 64 a))
  if a < 0 then bad
  else
    let a := a.toNat
    match p with
    | .virt _ =>
      if 2 ^ 49 < a + n then bad
      else
        match s.translate pt asid a wr false with
        | (s, .ok pa) => (s, .home (paKey pa))
        | (s, .error e) => (s, .fault a e.1 e.2)
    | .tile ck _ => if s.tileOk (ck / 144) a then (s, .home (tileKey (cellKey (ck / 144) (a / 2 ^ 22)) (a % 2 ^ 22))) else bad
    | .die d _ => if a + n ≤ 2 ^ 24 then (s, .home (dieKey d a)) else bad
    | _ => bad

/-- Continues with the home of an access; a PERM ends the command or its finishing step, a fault enters the fault path of R350. -/
def State.withHome (s : State) (box : Nat) (c : Cmd) (p : Place) (off : Int) (n : Nat) (wr : Bool)
    (bad : Cmd → Nat → Cmd) (k : State → Nat → State) : State :=
  match s.locate (.engine box c.seq) c.asid p off n wr with
  | (s, .home h) => k s h
  | (s, .perm a) => s.modCmd box c.seq (fun c => bad c a)
  | (s, .lost) => s
  | (s, .fault va kind level) =>
    match s.faultBy { party := .engine box c.seq, asid := c.asid, va := va, kind := kind, level := level, wr := wr } with
    | (s, true) => s.modCmd box c.seq (fun c => c.untranslated va)
    | (s, false) => s

/-- How many bytes one access may take at an address: up to the end of its 64-byte block (R129). -/
def blockLeft (p : Place) (off : Int) : Nat := 64 - (wrap 64 ((p.addr : Int) + off)) % 64

/-- The end with PERM (R173). (DEDUCED, log 33) -/
def Cmd.perm (c : Cmd) (a : Nat) : Cmd := c.stop 3 a

/-- Reads at a home for an engine, the sampler or the transport engine: none for an uncorrectable L2 or HBM word, which is counted, repaired
onto a spare row and written zero (R366, R380, R381). (DEDUCED, log 16) -/
def State.agentRead (s : State) (e : Ecc) (h n : Nat) : State × Option (List Byte) :=
  let r := s.fetched h n
  if isHbm h then
    match e with
    | .lost => (s.lostWord h n (homeDie h) (softInfo s.l2Part 0 (homeDie h) 0), none)
    | .corrected => ({ s.health (homeDie h) s.l2Counter with fresh := s.fresh + 1 }, some (s.peek h n))
    | _ => (r.1, some r.2)
  else (r.1, some r.2)

/-- Reads one part, up to n bytes and to the end of its 64-byte block, and continues with its bytes. -/
def State.engineRead (s : State) (box : Nat) (c : Cmd) (e : Ecc) (p : Place) (off : Int) (n : Nat)
    (k : State → List Byte → State) : State :=
  let n := min n (blockLeft p off)
  s.withHome box c p off n false Cmd.perm (fun s h =>
    match s.agentRead e h n with
    | (s, some bs) => k s bs
    | (s, none) => s.modCmd box c.seq (fun c => c.stop 0x14 0))

/-- The range of KIND 0 bytes written (R353). -/
def Cmd.wrote (c : Cmd) (p : Place) (off : Int) (n : Nat) : Cmd :=
  match p with
  | .virt _ =>
    let lo := wrap 64 ((p.addr : Int) + off)
    let hi := lo + n - 1
    { c with dirty := match c.dirty with
        | none => some (c.asid, lo, hi)
        | some d => some (d.1, min d.2.1 lo, max d.2.2 hi) }
  | _ => c

/-- Writes bytes of a command at a home; none while they wait for an operand ring (R142). -/
def State.land (s : State) (h : Nat) (bs : List Byte) : Option State :=
  if homeTag 3 ≤ h ∧ h < homeTag 4 then
    let ck := (h - homeTag 3) / 2 ^ 22
    let off := (h - homeTag 3) % 2 ^ 22
    if s.ringFull ck off bs.length then none else some ((s.write h bs).ringFed ck off bs.length)
  else some (s.stored h bs)

/-- Writes one part of `bs` and counts it as delivered; `f` moves the command's cursor by the bytes written. -/
def State.engineWrite (s : State) (box : Nat) (c : Cmd) (p : Place) (off : Int) (bs : List Byte) (f : Cmd → Nat → Cmd) : State :=
  let n := min bs.length (blockLeft p off)
  s.withHome box c p off n true Cmd.perm (fun s h => match s.land h (bs.take n) with
    | none => s
    | some s => s.modCmd box c.seq (fun c => f ({ c with bytes := c.bytes + n }.wrote p off n) n))

/-! ### Ports as destinations (R154, R158, R170) -/

/-- What an engine finds at a port. -/
inductive PortPut where
  | wait
  | norecv
  | closed
  | done (s : State)

/-- A unit that takes beats. -/
def Ctx.takesBeats (c : Ctx) : Bool := c.life == .live || c.life == .accepted

/-- Places a beat into a port, after the checks that R170 makes before each beat; the beats that a frozen image recorded for the port come first
(R342). -/
def State.portPut (s : State) (box q : Nat) (b : Beat) : PortPut :=
  if s.away box || s.tailBefore box q then .wait
  else
    let y := s.receiver box
    let put : PortPut := match s.arrive box q b with
      | some s => .done s
      | none => .wait
    if q = 1 then (if (s.ctx (s.steered 64 y)).takesBeats then put else .norecv)
    else
      let p := (s.ctx y).port q
      if !(s.ctx y).takesBeats then .norecv
      else if p.kind = 0 then .wait
      else if p.out || p.kind != 1 then .norecv
      else if p.shut then .closed
      else put

/-- Places a beat of a command and counts its bytes; `f` moves the cursor. -/
def State.engineBeat (s : State) (box : Nat) (c : Cmd) (b : Beat) (f : Cmd → Cmd) : State :=
  match c.toPort with
  | none => s
  | some (pbox, q) =>
    match s.portPut pbox q b with
    | .wait => s
    | .norecv => s.modCmd box c.seq (fun c => c.stop 0x0A 0)
    | .closed => s.modCmd box c.seq (fun c => c.stop 6 0)
    | .done s => s.modCmd box c.seq (fun c => f { c with bytes := c.bytes + (b.sb.extractLsb' 0 9).toNat })

/-! ### Checks of the parameter block (R169, R170) -/

/-- Clears fields of a number, each given by its lowest bit and width. -/
def clearFields (x : Nat) (l : List (Nat × Nat)) : Nat := l.foldl (fun x f => putFld x f.1 f.2 0) x

/-- The fields that a command uses (R170). -/
def usedFields (c : Cmd) : List (Nat × Nat) :=
  if c.opc = 1 then [(0, 160), (160, 3), (172, 1)]
  else if c.opc = 2 then [(0, 160), (160, 12), (172, 1), (173, 3), (256, 192), (448, 64)]
  else if c.opc = 3 then [(0, 160), (160, 9), (172, 1), (173, 3), (192, 64), (256, 64), (448, 64)]
  else if c.opc = 4 then [(0, 160), (160, 6), (172, 1), (173, 3), (192, 64), (256, 64), (448, 64)]
  else if c.opc = 5 then [(0, 160), (192, 64), (256, 64)]
  else if c.opc = 6 then [(64, 96), (192, 64)]
  else if c.opc = 7 then [(0, 64), (128, 32), (176, 4), (180, 3), (512, 64 * (c.ndst + 1))]
  else [(0, 64), (128, 32), (192, 64), (256, 64)]

/-- The element size of a reduction; none when RTY is reserved (R175). -/
def reduceSize (rty : Nat) : Option Nat :=
  if rty = 0 then some 1 else if rty = 5 then some 2 else if rty ≤ 6 then some 4 else none

/-- Whether a stream's marks and destination disagree: memory takes no mark level, but for ML0 and ML1, which ERAGGED must give
(R169, R170). (DEDUCED, log 30) -/
def Cmd.dstBad (c : Cmd) : Bool :=
  match addrWord c.dstWord with
  | none => true
  | some (.port _ _) => c.flvl != 0 && !memWord c.ubWord
  | some (.ring _ _) => false
  | some _ => if c.opc = 3 then c.ml 2 != 0 else c.par 160 12 != 0

/-- The parameter block draws BADPARAM (R169, R170, R175). (DEDUCED, log 30) -/
def Cmd.blockBad (c : Cmd) : Bool :=
  let levels := c.ml 0 == 1 && decide (1 < c.ml 1) && (c.ml 2 == 0 || decide (c.ml 1 < c.ml 2))
  clearFields c.pb (usedFields c) != 0 || c.len == 0 ||
    (if c.opc = 1 ∨ c.opc = 2 then !memWord c.srcWord || c.dstBad
     else if c.opc = 3 then !memWord c.srcWord || !memWord c.auxWord || c.dstBad || !levels
     else if c.opc = 4 then !memWord c.srcWord || !memWord c.auxWord || c.dstBad
     else if c.opc = 5 then
       !memWord c.auxWord || !memWord c.dstWord || !(memWord c.srcWord || (match addrWord c.srcWord with
         | some (.port _ q) => q != 1
         | _ => false))
     else if c.opc = 6 then !memWord c.dstWord
     else if c.opc = 7 then
       !memWord c.srcWord || (List.range (c.ndst + 1)).any (fun i => !memWord (c.dstN i)) ||
         (match reduceSize c.rty with
          | none => true
          | some n => c.len % n != 0)
     else !memWord c.srcWord || !memWord c.auxWord || !memWord (c.par 256 64))

/-- The header words that a command uses draw BADPARAM (R164, R169, R176). (DEDUCED, log 33) -/
def Cmd.headerWordsBad (c : Cmd) : Bool :=
  (c.cw && !memWord (c.op 64 64)) || (c.bar && (match addrWord (c.op 192 64) with
    | some (.tile _ _) => false
    | some (.die _ _) => false
    | _ => true))

/-- Reads and checks what a command needs before any byte moves; `some` is the state while it has not passed. The block of a command that fails
for another reason, or was cancelled, is read too: it says which port still gets its EOF (R170, R171). (DEDUCED, log 30 and 33) -/
def State.engineCheck (s : State) (box : Nat) (c : Cmd) (e : Ecc) : Option State :=
  if c.checked then none
  else if c.status = 0 ∧ (c.headerWordsBad ∨ c.op 320 192 ≠ 0) then some (s.modCmd box c.seq (fun c => { c with status := 2 }))
  else
    match addrWord (c.op 256 64) with
    | none => some (s.modCmd box c.seq (fun c => c.stop 2 0))
    | some p =>
      let okKind : Bool := match p with
        | .virt _ => true
        | .die _ _ => true
        | _ => false
      if !okKind || p.addr % 64 != 0 then some (s.modCmd box c.seq (fun c => c.stop 2 0))
      else
        some (s.engineRead box c e p (64 * c.aux : Nat) 64 (fun s bs => s.modCmd box c.seq (fun c =>
          let c := { c with pb := c.pb + ofBytes bs * 2 ^ (512 * c.aux), aux := c.aux + 1 }
          if c.opc = 7 ∧ c.aux < 2 then c
          else
            let c := { c with checked := true, aux := 0 }
            if c.status ≠ 0 then c.stop c.status 0 else if c.blockBad then c.stop 2 0 else c)))

/-- A word of 32 bits of an array, and its continuation. -/
def State.engineWord (s : State) (box : Nat) (c : Cmd) (e : Ecc) (w i : Nat) (k : State → Nat → State) : State :=
  let p := placeOf w
  s.engineRead box c e p (4 * i : Nat) 4 (fun s bs =>
    if bs.length = 4 then k s (ofBytes bs)
    else s.engineRead box c e p (4 * i + bs.length : Nat) (4 - bs.length) (fun s cs => k s (ofBytes (bs ++ cs))))

/-! ### Streams (R170 to R172) -/

/-- The level of run i of an ESTRIDE (R171). -/
def Cmd.strideLevel (c : Cmd) (i1 i2 i3 : Nat) : Nat :=
  if i1 + 1 = c.count 1 then
    let l := max (c.ml 0) (c.ml 1)
    if i2 + 1 = c.count 2 then
      let l := max l (c.ml 2)
      if i3 + 1 = c.count 3 then max l (c.ml 3) else l
    else l
  else c.ml 0

/-- What follows a run: in a ragged command the next row of the group. -/
def Cmd.afterRun (c : Cmd) : Cmd :=
  if c.opc = 3 then { c with cur := none, off := 0, aux := c.aux + 1 } else { c with cur := none, off := 0, run := c.run + 1 }

/-- A run begins (R172): at the head of a filter block its bound is compared with the threshold of the bound row; a dropped block is counted there
and leaves at most a bare mark. -/
def State.beginRun (s : State) (box : Nat) (c : Cmd) (e : Ecc) (base : Int) (lvl len : Nat) : State :=
  let filt : Option (CtxId × Nat × Nat × Nat) := match c.toPort with
    | none => none
    | some (pbox, q) => ((s.ctx (s.receiver pbox)).port q).filt.map (fun f => (s.receiver pbox, q, f.1, f.2))
  let last : Bool := decide (c.flvl ≤ lvl)
  let go (s : State) (drop : Bool) : State :=
    let s := if drop && c.fresh then
        match filt with
        | some (y, q, _, _) => s.modCtx y (fun k => k.setPort q { k.port q with drop :=
            if (k.port q).drop = 0xFFFF then 0xFFFF else (k.port q).drop + 1 })
        | none => s
      else s
    s.modCmd box c.seq (fun c =>
      let c := { c with dropping := drop, fresh := last, blk := if last then c.blk + 1 else c.blk }
      if drop then (if last ∧ c.flvl < lvl then { c with cur := some (0, lvl, 0) } else c.afterRun)
      else { c with cur := some (base, lvl, len) })
  if c.flvl = 0 ∨ c.toPort = none then s.modCmd box c.seq (fun c => { c with cur := some (base, lvl, len) })
  else if c.fresh then
    match filt with
    | none => go s false
    | some (y, _, a, row) => s.engineWord box c e c.ubWord c.blk (fun s ub => go s (f32lt ub (s.committedThreshold y a row)))
  else go s c.dropping

/-- The stream has no further run: a ring takes its record, a port its EOF. -/
def Cmd.streamEnd (c : Cmd) : Cmd :=
  match addrWord c.dstWord with
  | some (.ring _ _) => { c with phase := 1 }
  | _ => c.stop 0 0

/-- Finds the next run of a stream command (R170, R171). `aux` of a ragged command counts the rows of the group that
are done. -/
def State.findRun (s : State) (box : Nat) (c : Cmd) (e : Ecc) : State :=
  let src : Int := (placeOf c.srcWord).addr
  let fin (s : State) : State := s.modCmd box c.seq Cmd.streamEnd
  if c.opc = 1 then
    if c.run = 0 then s.beginRun box c e src (c.ml 0) c.len else fin s
  else if c.opc = 2 then
    let n1 := c.count 1
    let n2 := c.count 2
    if c.run < n1 * n2 * c.count 3 then
      let i1 := c.run % n1
      let i2 := c.run / n1 % n2
      let i3 := c.run / n1 / n2
      s.beginRun box c e (src + i1 * c.stride 1 + i2 * c.stride 2 + i3 * c.stride 3) (c.strideLevel i1 i2 i3) c.len
    else fin s
  else if c.opc = 4 then
    if c.run < c.count 1 then
      s.engineWord box c e c.auxWord c.run (fun s x =>
        s.beginRun box c e (src + x * c.stride 1) (if c.run + 1 = c.count 1 then max (c.ml 0) (c.ml 1) else c.ml 0) c.len)
    else fin s
  else
    if c.run < c.count 1 then
      s.engineWord box c e c.auxWord c.run (fun s lo => s.engineWord box c e c.auxWord (c.run + 1) (fun s hi =>
        let top := if c.run + 1 = c.count 1 then max (c.ml 1) (c.ml 2) else c.ml 1
        let group (c : Cmd) : Cmd := { c with cur := none, off := 0, run := c.run + 1, aux := 0 }
        if hi < lo then s.modCmd box c.seq (fun c => c.stop 2 0)
        else if hi = lo then
          if c.aux = 0 then s.beginRun box c e 0 top 0 else s.modCmd box c.seq group
        else if lo + c.aux < hi then
          s.beginRun box c e (src + (lo + c.aux : Nat) * c.stride 1) (if lo + c.aux + 1 = hi then top else c.ml 0) c.len
        else s.modCmd box c.seq group))
    else fin s

/-- Moves a stream command on by one part or beat (R170, R171). -/
def State.streamStep (s : State) (box : Nat) (c : Cmd) (e : Ecc) : State :=
  match c.cur with
  | none => s.findRun box c e
  | some (base, lvl, len) =>
    let src := placeOf c.srcWord
    -- the run's address replaces that of SRC
    let off : Int := base - src.addr + c.off
    match addrWord c.dstWord with
    | some (.port _ _) =>
      if len = 0 then s.engineBeat box c (bareBeat lvl) Cmd.afterRun
      else
        let n := min 256 (len - c.off)
        if c.held.length < n then
          s.engineRead box c e src (off + c.held.length) (n - c.held.length) (fun s bs =>
            s.modCmd box c.seq (fun c => { c with held := c.held ++ bs }))
        else
          let lastBeat : Bool := c.off + n == len
          s.engineBeat box c (dataBeat c.held.length (if lastBeat then lvl else 0) (BitVec.ofNat 2048 (ofBytes c.held))) (fun c =>
            let c := { c with held := [], off := c.off + n }
            if lastBeat then c.afterRun else c)
    | some (.ring _ _) =>
      if c.off = len then s.modCmd box c.seq Cmd.afterRun
      else
        s.engineRead box c e src off (len - c.off) (fun s bs =>
          s.modCmd box c.seq (fun c => { c with held := c.held ++ bs, off := c.off + bs.length }))
    | _ =>
      if c.off = len then s.modCmd box c.seq Cmd.afterRun
      else if c.held = [] then
        s.engineRead box c e src off (len - c.off) (fun s bs => s.modCmd box c.seq (fun c => { c with held := bs }))
      else
        s.engineWrite box c (placeOf c.dstWord) c.bytes c.held (fun c n =>
          { c with held := c.held.drop n, off := c.off + n })

/-! ### ESCATTER and EFILL (R170) -/

/-- What a unit of the chip finds at an outbound port that it takes beats from. -/
inductive Drain where
  | wait
  | norecv
  | beat (s : State) (b : Beat)

/-- The next beat of an outbound port of a kind (R153, R159): only committed beats leave. A port that is not bound yet, or whose page
is frozen, has none to give. -/
def State.drain (s : State) (box q kind : Nat) : Drain :=
  if s.away box then .wait
  else
    let y := s.receiver box
    let c := s.ctx y
    let p := c.port q
    if p.kind = 0 then (if c.life == .empty then .norecv else .wait)
    else if !p.out || p.kind != kind then .norecv
    else
      match p.fifo with
      | [] => if c.life == .empty then .norecv else .wait
      | b :: r =>
        if p.base < p.ctail ∧ c.frozen = false then
          .beat (s.setCtx y (c.setPort q { p with fifo := r, base := p.base + 1, eof := p.eof || b.sb == 0x1000 })) b
        else .wait

/-- The payload bytes of a beat. -/
def Beat.bytes (b : Beat) : List Byte := (toBytes 256 b.data.toNat).take (b.sb.extractLsb' 0 9).toNat

def State.scatterStep (s : State) (box : Nat) (c : Cmd) (e : Ecc) : State :=
  match c.cur with
  | none =>
    if c.run < c.count 1 then
      s.engineWord box c e c.auxWord c.run (fun s x => s.modCmd box c.seq (fun c =>
        { c with cur := some ((placeOf c.dstWord).addr + x * c.stride 1, 0, c.len) }))
    else s.modCmd box c.seq (fun c => c.stop 0 0)
  | some (base, _, len) =>
    if c.off = len then s.modCmd box c.seq (fun c => { c with cur := none, off := 0, run := c.run + 1 })
    else if c.held = [] then
      match addrWord c.srcWord with
      | some (.port pbox q) =>
        match s.drain pbox q 2 with
        | .wait => s
        | .norecv => s.modCmd box c.seq (fun c => c.stop 0x0A 0)
        | .beat s b =>
          if b.sb = 0x1000 then s.modCmd box c.seq (fun c => c.stop 2 0)
          else s.modCmd box c.seq (fun c => { c with held := b.bytes })
      | _ =>
        s.engineRead box c e (placeOf c.srcWord) (c.run * len + c.off : Nat) (len - c.off) (fun s bs =>
          s.modCmd box c.seq (fun c => { c with held := bs }))
    else
      let dst := placeOf c.dstWord
      s.engineWrite box c dst (base - dst.addr + c.off) (c.held.take (len - c.off)) (fun c n =>
        { c with held := c.held.drop n, off := c.off + n })

def State.fillStep (s : State) (box : Nat) (c : Cmd) : State :=
  if c.off = c.len then s.modCmd box c.seq (fun c => c.stop 0 0)
  else
    let n := min 64 (c.len - c.off)
    s.engineWrite box c (placeOf c.dstWord) c.off (tab n (fun i => byteOf c.auxWord ((c.off + i) % 8)))
      (fun c n => { c with off := c.off + n })

/-! ### EREDUCE (R175) -/

/-- The operation of a reduction on one element. -/
def reduceOp (rty d x : Nat) : Nat :=
  match rty with
  | 1 => (d + x) % 2 ^ 32
  | 2 => f32add d x
  | 3 => fminmax .f32 true d x
  | 4 => fminmax .f32 false d x
  | 5 => faddc .bf16 .rne false d x
  | 6 => if sgn 32 d < sgn 32 x then x else d
  | _ => x

/-- Reads, combines and writes one element at its home in one indivisible step (R175). -/
def State.combine (s : State) (box : Nat) (c : Cmd) (e : Ecc) (p : Place) (off n x : Nat) : State :=
  let n1 := min n (blockLeft p off)
  let lost (s : State) : State := s.modCmd box c.seq (fun c => c.stop 0x14 0)
  let put (s : State) (h1 h2 : Nat) (old : List Byte) : State :=
    let bs := toBytes n (reduceOp c.rty (ofBytes old) x)
    match s.land h1 (bs.take n1) with
    | none => s
    | some t =>
      match (if n1 = n then some t else t.land h2 (bs.drop n1)) with
      | none => s
      | some t => t.modCmd box c.seq (fun c =>
          { c with bytes := c.bytes + n, held := c.held.drop n, off := c.off + n }.wrote p off n)
  let act (s : State) (h1 h2 : Nat) : State :=
    match s.agentRead e h1 n1 with
    | (s, none) => lost s
    | (s, some b1) =>
      if n1 = n then put s h1 h2 b1
      else
        match s.agentRead e h2 (n - n1) with
        | (s, none) => lost s
        | (s, some b2) => put s h1 h2 (b1 ++ b2)
  s.withHome box c p off n1 true Cmd.perm (fun s h1 =>
    if n1 = n then act s h1 0
    else s.withHome box c p (off + n1 : Nat) (n - n1) true Cmd.perm (fun s h2 => act s h1 h2))

/-- EREDUCE: first every destination page is checked, then each destination takes each element in ascending order (R175). (DEDUCED, log 29) -/
def State.reduceStep (s : State) (box : Nat) (c : Cmd) (e : Ecc) : State :=
  if c.fresh then
    if c.ndst < c.aux then s.modCmd box c.seq (fun c => { c with fresh := false, aux := 0, off := 0 })
    else if c.len ≤ c.off then s.modCmd box c.seq (fun c => { c with aux := c.aux + 1, off := 0 })
    else
      let p := placeOf (c.dstN c.aux)
      let n := min (c.len - c.off) (2 ^ 16 - (p.addr + c.off) % 2 ^ 16)
      s.withHome box c p c.off n true (fun c a => c.perm (if p.isVirt then pageAddr a else a)) (fun s _ => s.modCmd box c.seq (fun c => { c with off := c.off + n }))
  else if c.ndst < c.run then s.modCmd box c.seq (fun c => c.stop 0 0)
  else if c.off = c.len then s.modCmd box c.seq (fun c => { c with run := c.run + 1, off := 0, held := [] })
  else
    let size := (reduceSize c.rty).getD 1
    if c.held.length < size then
      s.engineRead box c e (placeOf c.srcWord) (c.off + c.held.length : Nat) (c.len - c.off - c.held.length) (fun s bs =>
        s.modCmd box c.seq (fun c => { c with held := c.held ++ bs }))
    else s.combine box c e (placeOf (c.dstN c.run)) c.off size (ofBytes (c.held.take size))

/-! ### EVERIFY (R170) -/

/-- EVERIFY reads the bytes, the signature and the key, and verifies. -/
def State.verifyStep (s : State) (box : Nat) (c : Cmd) (e : Ecc) : State :=
  if 3 ≤ c.run then
    let sig := (c.held.drop c.len).take 64
    let good := sm2Verify (c.held.drop (c.len + 64)) sig (c.held.take c.len)
    s.modCmd box c.seq (fun c => c.stop (if good then 0 else 8) 0)
  else
    let n := if c.run = 0 then c.len else 64
    if c.off = n then s.modCmd box c.seq (fun c => { c with run := c.run + 1, off := 0 })
    else
      let w := if c.run = 0 then c.srcWord else if c.run = 1 then c.auxWord else c.par 256 64
      s.engineRead box c e (placeOf w) c.off (n - c.off) (fun s bs =>
        s.modCmd box c.seq (fun c => { c with held := c.held ++ bs, off := c.off + bs.length }))

/-! ### Barrier steps (R176, R273) -/

/-- The home of the barrier object of a command; none when the place does not exist (R173). (DEDUCED, log 33) -/
def State.barrierHome (s : State) (c : Cmd) : Option Nat :=
  match addrWord (c.op 192 64) with
  | some (.tile ck off) => if s.tileOk (ck / 144) (ck % 144 * 2 ^ 22 + off) then some (tileKey ck off) else none
  | some (.die d off) => if off + 32 ≤ 2 ^ 24 then some (dieKey d off) else none
  | _ => none

/-- Subtracts the bytes delivered and not yet subtracted; UNDER replaces only OK (R176), and an NGET raises the counter too (R372).
(DESIGN CHOICE, log 31) -/
def State.subtractNow (s : State) (box : Nat) (c : Cmd) : State :=
  match s.barrierHome c with
  | none => s.modCmd box c.seq (fun c =>
      { c with status := if c.status = 0 then 3 else c.status, faddr := if c.status = 0 then c.op 192 49 else c.faddr })
  | some o =>
    let r := s.barSubtract o (c.bytes - c.sub)
    (if r.2 && fld box 15 12 == 6 && c.opc == 0x41 then r.1.netUnder else r.1).modCmd box c.seq (fun c => { c with sub := c.bytes, status := if r.2 && c.status == 0 then 7 else c.status })

/-! ### Commands -/

/-- A message that the firmware of a control core takes: all but the management commands to core 0 (R382). (DESIGN CHOICE, log 20) -/
def firmwareOwn (box : Nat) (m : Msg) : Bool := fld box 15 12 == 1 && !(isManage m && box % 4 == 0)

/-- Whether a command may have a dirty range to deposit: one with a destination of KIND 0 (R353). (DESIGN CHOICE, log 31) -/
def Cmd.mayLog (c : Cmd) : Bool :=
  c.dirty.isSome || (if c.opc = 7 then (List.range (c.ndst + 1)).any (fun i => (placeOf (c.dstN i)).isVirt)
    else decide (1 ≤ c.opc ∧ c.opc ≤ 6) && (placeOf c.dstWord).isVirt)

/-- Moves a started command on: while its payload lasts, by `f`, now and then with a subtraction of what has been delivered, but not ahead of a
deposit (R354); then by the EOF that closes its stream (R170, R171, R176). (DESIGN CHOICE, log 31 and 91) -/
def State.command (s : State) (m : Msg) (f : State → Nat → Cmd → State) : Host.Outcome State Fault Refusal :=
  let box := s.eng.1
  match s.cmd? box s.eng.2 with
  | none => .next s
  | some c =>
    if c.m ≠ m ∨ c.started = false ∨ firmwareOwn box m ∨ s.faulting (.engine box c.seq) then .next s
    else if c.phase = 2 then
      match c.toPort with
      | none => .next (s.modCmd box c.seq (fun c => { c with phase := 3 }))
      | some (pbox, q) =>
        match s.portPut pbox q eofBeat with
        | .wait => .next s
        | .norecv => .next (s.modCmd box c.seq (fun c => c.stop 0x0A 0))
        | .closed => .next (s.modCmd box c.seq (fun c => c.stop 6 0))
        | .done s => .next (s.modCmd box c.seq (fun c => { c with phase := 3 }))
    else if c.phase ≠ 0 then .next s
    else if c.bar && decide (c.sub < c.bytes) && !c.mayLog && Config.freeBit s.fresh then
      .next ({ s with fresh := s.fresh + 1 }.subtractNow box c)
    else .next (f { s with fresh := s.fresh + 1 } box c)

/-- A command with a parameter block: its checks come first. -/
def State.blockCommand (s : State) (m : Msg) (f : State → Nat → Cmd → Ecc → State) : Host.Outcome State Fault Refusal :=
  s.command m (fun s box c => match s.engineCheck box c s.ecc with
    | some t => t
    | none => f s box c s.ecc)

def execEcopy (m : Msg) (s : State) : Host.Outcome State Fault Refusal := s.blockCommand m State.streamStep
def execEstride (m : Msg) (s : State) : Host.Outcome State Fault Refusal := s.blockCommand m State.streamStep
def execEragged (m : Msg) (s : State) : Host.Outcome State Fault Refusal := s.blockCommand m State.streamStep
def execEgather (m : Msg) (s : State) : Host.Outcome State Fault Refusal := s.blockCommand m State.streamStep
def execEscatter (m : Msg) (s : State) : Host.Outcome State Fault Refusal := s.blockCommand m State.scatterStep
def execEfill (m : Msg) (s : State) : Host.Outcome State Fault Refusal := s.blockCommand m (fun s box c _ => s.fillStep box c)
def execEreduce (m : Msg) (s : State) : Host.Outcome State Fault Refusal := s.blockCommand m State.reduceStep
def execEverify (m : Msg) (s : State) : Host.Outcome State Fault Refusal := s.blockCommand m State.verifyStep

/-- Commands that an EJOIN of an engine waits for: those that arrived there before it in the named queues, migrated ones too
(R174). (DEDUCED, log 32) -/
def State.joinWaits (s : State) (box seq mask : Nat) : Bool :=
  s.boxes.any (fun b => b.2.qs.any (fun q => q.2.any (fun c =>
    bit mask c.queue && ((b.1 == box && decide (c.seq < seq)) || (match c.orig with
      | some o => o.1 == box && decide (o.2 < seq)
      | none => false)))))

/-- (DEDUCED, log 32) -/
def execEjoin (m : Msg) (s : State) : Host.Outcome State Fault Refusal :=
  s.command m (fun s box c =>
    if c.headerWordsBad || c.op 260 252 != 0 || c.op 256 4 == 0 then s.modCmd box c.seq (fun c => c.stop 2 0)
    else if s.joinWaits box c.seq (c.op 256 4) then s
    else s.modCmd box c.seq (fun c => c.stop 0 0))

def execEsignal (m : Msg) (s : State) : Host.Outcome State Fault Refusal :=
  s.command m (fun s box c =>
    if c.headerWordsBad || c.op 288 224 != 0 then s.modCmd box c.seq (fun c => c.stop 2 0)
    else s.modCmd box c.seq (fun c => { c with bytes := c.op 256 32 }.stop 0 0))

/-! ### Events of the engines -/

/-- The j-th command of a queue. -/
def State.queued (s : State) (box q j : Nat) : Option Cmd := ((s.boxes.getD box {}).qs.getD q [])[j]?

/-- Whether earlier commands of a queue let a command start (R174, R372): in an engine once their payload has been written and their stream
closed, whatever else of them is still to finish; the transport engine only starts them in order. Both let an EJOIN finish, and other receivers
finish each command. A `.free` command is ordered after nothing. (DEDUCED, log 32) -/
def mayStart (box : Nat) (before : List Cmd) (c : Cmd) : Bool :=
  let kind := fld box 15 12
  c.free || before.all (fun d => d.free ||
    ((kind == 6 || (kind == 2 && decide (3 ≤ d.phase))) && d.started && d.opc != 8))

/-- ENGINE_COMMAND_START (R174). -/
def execEngineCommandStart (box q j : Nat) (s : State) : Host.Outcome State Fault Refusal :=
  match s.queued box q j with
  | none => .next s
  | some c =>
    if c.started = false ∧ firmwareOwn box c.m = false ∧ mayStart box (((s.boxes.getD box {}).qs.getD q []).take j) c then
      .next (s.modCmd box c.seq (fun c => { c with started := true }))
    else .next s

/-- COMMAND_MIGRATION: a `.free` command that has not started moves to an idle engine on the same base die (R174). (DEDUCED, log 32) -/
def execCommandMigration (box q j box2 : Nat) (s : State) : Host.Outcome State Fault Refusal :=
  match s.queued box q j with
  | none => .next s
  | some c =>
    let b := s.boxes.getD box2 {}
    if c.free ∧ c.started = false ∧ c.opc ≠ 8 ∧ box2 ≠ box ∧ fld box 15 12 = 2 ∧ box / 8 = box2 / 8 ∧ b.out = false
        ∧ b.qs.all (fun q => q.2.isEmpty) then
      let s := s.dropCmd box c.seq
      let d := { c with seq := b.seq, orig := some (c.orig.getD (box, c.seq)) }
      .next { s with boxes := s.boxes.set box2 { b with seq := b.seq + 1, qs := b.qs.set c.queue [d] } }
    else .next s

/-- MESSAGE_RING_RECORD: the delivery of a command to a message ring forms one record, with the inbox of the command's sender; while
the ring has no room the command waits (R177). A command without data forms none (R170). -/
def execMessageRingRecord (box q j : Nat) (s : State) : Host.Outcome State Fault Refusal :=
  match s.queued box q j with
  | none => .next s
  | some c =>
    if c.phase ≠ 1 then .next s
    else
      match addrWord c.dstWord with
      | some (.ring d off) =>
        match (if c.held = [] ∧ s.ringOk d off then RingPut.done s else s.ringRecord d off c.src c.held) with
        | .bad => .next (s.modCmd box c.seq (fun c => c.stop 2 0))
        | .reject => .next (s.modCmd box c.seq (fun c => c.stop 5 off))
        | .full => .next s
        | .done s => .next (s.modCmd box c.seq (fun c => { c with bytes := c.held.length, held := [] }.stop 0 0))
      | _ => .next s

/-- What becomes of a completion word. -/
inductive Wrote where
  | done
  | bad (status faddr : Nat)
  | wait

/-- Finds the home of an access of a party for its completion word; `k` continues. -/
def State.wordHome (s : State) (pt : Party) (c : Cmd) (p : Place) (off n : Nat) (k : State → Nat → State × Wrote) : State × Wrote :=
  match s.locate pt c.asid p off n true with
  | (s, .home h) => k s h
  | (s, .perm a) => (s, .bad 3 a)
  | (s, .lost) => (s, .wait)
  | (s, .fault va kind level) =>
    match s.faultBy { party := pt, asid := c.asid, va := va, kind := kind, level := level, wr := true } with
    | (s, true) => (s, .bad 4 va)
    | (s, false) => (s, .wait)

/-- Writes the completion word: every part is translated before any is written (R176). -/
def State.writeWord (s : State) (pt : Party) (c : Cmd) : State × Wrote :=
  let p := placeOf (c.op 64 64)
  let v := toBytes 4 ((c.op 128 32 + (if c.status = 0 then 0 else 0x40000000)) % 2 ^ 32)
  let n := min 4 (blockLeft p 0)
  s.wordHome pt c p 0 n (fun s h1 =>
    if n = 4 then (s.stored h1 v, .done)
    else s.wordHome pt c p n (4 - n) (fun s h2 => ((s.stored h1 (v.take n)).stored h2 (v.drop n), .done)))

/-- The completion word of a sampler or scheduler command, then its reply (R176, R309): the state and whether the command is over.
`fatal` is the address of a fault that was resolved as fatal. -/
def State.closeCmd (s : State) (pt : Party) (box : Nat) (fatal : Option Nat) (c : Cmd) (upd : State → (Cmd → Cmd) → State) :
    State × Bool :=
  if c.phase = 5 then
    if c.cw ∧ memWord (c.op 64 64) then
      match fatal with
      | some va => (upd s (fun c => c.noWord 4 va), false)
      | none =>
        match s.writeWord pt c with
        | (s, .done) => (upd s (fun c => { c with phase := 6 }), false)
        | (s, .bad st a) => (upd s (fun c => c.noWord st a), false)
        | (s, .wait) => (s, false)
    else (upd s (fun c => { c with phase := 6 }), false)
  else (if c.status ≠ 0 ∨ c.ack then s.reply box c.m c.status c.bytes c.faddr c.node else s, true)

/-- The next finishing step of a command: the dirty range (R354), the barrier, the completion word, the reply (R176). -/
def State.finishStep (s : State) (box : Nat) (c : Cmd) : State :=
  let move (s : State) (n : Nat) : State := s.modCmd box c.seq (fun c => { c with phase := n })
  if c.phase = 3 then
    match c.dirty with
    | none => move s 4
    | some d =>
      let die := s.partyDie (.engine box c.seq)
      if s.num (dieKey die (tcb + 16)) 8 = 0 then move s 4
      else
        match s.logRange die box (toBytes 24 (d.1 + box * 2 ^ 16 + d.2.1 * 2 ^ 64 + d.2.2 * 2 ^ 128)) with
        | (s, true) => move s 4
        | (_, false) => s
  else if c.phase = 4 then
    (if c.bar ∧ ((addrWord (c.op 192 64)).map (fun p => match p with
        | .tile _ _ => true
        | .die _ _ => true
        | _ => false)).getD false ∧ (c.bytes = 0 ∨ c.sub ≠ c.bytes) then move (s.subtractNow box c) 5 else move s 5)
  else if c.phase = 5 then
    if c.cw ∧ memWord (c.op 64 64) then
      match s.writeWord (.engine box c.seq) c with
      | (s, .done) => move s 6
      | (s, .bad st a) => s.modCmd box c.seq (fun c => c.noWord st a)
      | (s, .wait) => s
    else move s 6
  else
    let s := s.dropCmd box c.seq
    if c.status ≠ 0 ∨ c.ack then s.reply box c.m c.status c.bytes c.faddr c.node else s

/-- ENGINE_COMMAND_FINISH: one of the finishing steps (R176). (DESIGN CHOICE, log 31) -/
def execEngineCommandFinish (box q j : Nat) (s : State) : Host.Outcome State Fault Refusal :=
  match s.queued box q j with
  | none => .next s
  | some c =>
    if c.phase < 3 ∨ s.faulting (.engine box c.seq) then .next s else .next (s.finishStep box c)

end Sys2Proof.Machine
end

