-- ==== Sys2Proof/Machine/Sampler.lean ====
section
/-!
DEFINITION. The sampler (R282 to R302): sequence blocks, batches and their rows, the logit words, the two laps and Ember. `s.die`
names the sampler whose logit word or command runs.
-/

namespace Sys2Proof.Machine

/-- The sampler of a die. -/
def State.sampler (s : State) (die : Nat) : Sampler := s.samplers.getD die {}

/-- Replaces a sampler. -/
def State.setSampler (s : State) (die : Nat) (b : Sampler) : State := { s with samplers := s.samplers.set die b }

/-- Changes a sampler. -/
def State.modSampler (s : State) (die : Nat) (f : Sampler → Sampler) : State := s.setSampler die (f (s.sampler die))

/-- The inbox of a die's sampler (R282). -/
def samplerBox (die : Nat) : Nat := 0x4000 + die * 2 ^ 10

/-! ### Reading spans (R173, R347) -/

/-- Reads the parts of a span in ascending order; the first access that fails ends it. -/
def State.readParts (pt : Party) (asid : Nat) (p : Place) (e : Ecc) :
    List (Nat × Nat × Nat) → State → List Byte → State × Except Access (List Byte)
  | [], s, acc => (s, .ok acc)
  | (a, n, _) :: r, s, acc =>
    match s.locate pt asid p ((a : Int) - p.addr) n false with
    | (s, .home h) =>
      match s.agentRead e h n with
      | (s, none) => (s, .error .lost)
      | (s, some bs) => State.readParts pt asid p e r s (acc ++ bs)
    | (s, x) => (s, .error x)

/-- Reads n bytes at an offset from an address word. -/
def State.readSpan (s : State) (pt : Party) (asid w off n : Nat) (e : Ecc) : State × Except Access (List Byte) :=
  State.readParts pt asid (placeOf w) e (parts ((placeOf w).addr + off) n) s []

/-- The homes of a span that is to be written. -/
def State.writeHomes (pt : Party) (asid : Nat) (p : Place) :
    List (Nat × Nat × Nat) → State → List (Nat × Nat) → State × Except Access (List (Nat × Nat))
  | [], s, acc => (s, .ok acc)
  | (a, n, _) :: r, s, acc =>
    match s.locate pt asid p ((a : Int) - p.addr) n true with
    | (s, .home h) => State.writeHomes pt asid p r s (acc ++ [(h, n)])
    | (s, x) => (s, .error x)

/-- Finds the homes of n bytes at an offset from an address word, for writing. -/
def State.writeSpan (s : State) (pt : Party) (asid w off n : Nat) : State × Except Access (List (Nat × Nat)) :=
  State.writeHomes pt asid (placeOf w) (parts ((placeOf w).addr + off) n) s []

/-- Writes bytes to the homes of a span, in ascending order. -/
def State.pokeParts : State → List (Nat × Nat) → List Byte → State
  | s, [], _ => s
  | s, (h, n) :: r, bs => State.pokeParts (s.stored h (bs.take n)) r (bs.drop n)

/-- KIND 0 or 3 with an alignment (R284, R286). -/
def tableWord (w al : Nat) : Bool :=
  match addrWord w with
  | some (.virt a) => a % al == 0
  | some (.die _ a) => a % al == 0
  | _ => false

/-! ### Sequence blocks (R284, R285) -/

/-- A header from its bytes. -/
def seqHdr (h : Nat) : SeqHdr :=
  { prog := fld h 63 0, v := fld h 82 64, nbias := fld h 104 96, topk := fld h 118 112, rtemp := fld h 159 128,
    topp := fld h 191 160, seed := fld h 255 192, ndraw := fld h 319 256, vmask := fld h 383 320,
    g := tab 8 (fun i => fld h (415 + 32 * i) (384 + 32 * i)) }

/-- V, NBIAS and TOPK are in range and reserved fields are zero (R284, R285). -/
def hdrOk (h : Nat) : Bool :=
  let v := fld h 82 64
  1 ≤ v && v ≤ 262144 && fld h 104 96 ≤ 256 && 1 ≤ fld h 118 112 && fld h 118 112 ≤ 64
    && fld h 95 83 == 0 && fld h 111 105 == 0 && fld h 127 119 == 0 && h >>> 640 == 0

/-- Where in a sequence block the bias and the count table stand (R284). -/
def biasOff : Nat := 128
def countOff : Nat := 2176

/-- What a sampler works on, as its faults name it: the head of its queue, the completion of its batch, a row of the batch (R351). -/
def headJob : Nat := 0
def batchJob : Nat := 1
/-- (DEDUCED, log 36) -/
def rowJob (r : Nat) : Nat := r + 2

/-- The address of the fatal fault of a job of the sampler (R351). (DEDUCED, log 36) -/
def Sampler.fatalOf (b : Sampler) (job : Nat) : Option Nat := (b.fatal.find? (fun e => e.1 == job)).map (fun e => e.2)

/-- Forgets it. -/
def Sampler.unfault (b : Sampler) (job : Nat) : Sampler := { b with fatal := b.fatal.filter (fun e => e.1 != job) }

/-- What an access that fails does to the sampler: some status ends the work, none waits for its fault (R288, R350, R351). -/
def State.missed (s : State) (die job asid : Nat) (wr : Bool) (x : Access) : State × Option (Nat × Nat) :=
  match x with
  | .fault va kind level =>
    match s.faultBy { party := .sampler die job, asid := asid, va := va, kind := kind, level := level, wr := wr } with
    | (s, true) => (s, some (4, va))
    | (s, false) => (s, none)
  | .perm a => (s, some (3, a))
  | _ => (s, some (0x14, 0))

/-- Takes the first command of a sampler's queue. -/
def State.samplerHead (s : State) (die : Nat) : Option Cmd :=
  if (s.sampler die).batch.isSome then none else (s.sampler die).queue.head?

/-- Changes the first command of a sampler's queue. -/
def State.modHead (s : State) (die : Nat) (f : Cmd → Cmd) : State :=
  s.modSampler die (fun b => { b.unfault headJob with queue := modIdx f b.queue 0 })

/-- SSEQ: checks the header and opens the sequence, then finishes (R285). (DEDUCED, log 34 and 35) -/
def execSseq (m : Msg) (s : State) : Host.Outcome State Fault Refusal :=
  let die := s.die
  match s.samplerHead die with
  | none => .next s
  | some c =>
    if c.m ≠ m ∨ s.faulting (.sampler die headJob) then .next s
    else if c.phase ≠ 0 then
      match s.closeCmd (.sampler die headJob) (samplerBox die) ((s.sampler die).fatalOf headJob) c (fun s f => s.modHead die f) with
      | (s, true) => .next (s.modSampler die (fun b => { b with queue := b.queue.drop 1 }))
      | (s, false) => .next s
    else
      let pt : Party := .sampler die headJob
      let stop (s : State) (st a : Nat) : State := s.modHead die (fun c => { c with phase := 5, status := st, faddr := a })
      let miss (s : State) (wr : Bool) (x : Access) : Host.Outcome State Fault Refusal :=
        match s.missed die headJob c.asid wr x with
        | (s, some e) => .next (stop s e.1 e.2)
        | (s, none) => .next s
      let w := c.op 256 64
      if ((s.sampler die).fatalOf headJob).isSome then .next (stop s 4 (((s.sampler die).fatalOf headJob).getD 0))
      else if !tableWord w 128 || (c.cw && !memWord (c.op 64 64)) then .next (stop s 2 0)
      else
        match s.readSpan pt c.asid w 0 128 s.ecc with
        | (s, .error x) => miss s false x
        | (s, .ok bs) =>
          let h := ofBytes bs
          if !hdrOk h then .next (stop s 2 0)
          else
            match s.writeSpan pt c.asid w 24 16 with
            | (s, .error x) => miss s true x
            | (s, .ok hs) =>
              match (if c.m.getLsbD 321 then s.writeSpan pt c.asid w countOff (2 * fld h 82 64) else (s, .ok [])) with
              | (s, .error x) => miss s true x
              | (s, .ok cs) =>
                let seed := if c.m.getLsbD 320 then fld h 255 192 else Config.entropy s.fresh
                let s := { s with fresh := s.fresh + 1 }
                let s := s.pokeParts hs (toBytes 8 seed ++ toBytes 8 0)
                .next (stop (s.pokeParts cs (List.replicate (2 * fld h 82 64) 0)) 0 0)

/-! ### Logit programs (R289, R290) -/

/-- OP of a logit word. -/
def logitOp (w : BitVec 32) : Nat := (w.extractLsb' 0 8).toNat

/-- Whether a program holds an opcode. -/
def uses (ws : List (BitVec 32)) (op : Nat) : Bool := ws.any (fun w => logitOp w == op)

/-- A logit word as a row's check accepts it (R290): its decoding. -/
def logitOk (w : BitVec 32) : Bool :=
  match decodeLogit w with
  | .ok _ => true
  | .error _ => false

/-- The stages of a program: transforms, selections, draw, count, end (R290). -/
def opStage (op : Nat) : Nat := if op ≤ 7 then 0 else if op ≤ 0x0A then 1 else op - 9

/-- Checks a program up to its LEND (R290): words decode, stages do not fall, selections do not repeat, one draw, at most one count. (DEDUCED, log 34) -/
def progOk (ws : List (BitVec 32)) : Bool :=
  let ops := ws.map logitOp
  let st := ops.map opStage
  ws.all logitOk && ops.getLast? == some 0x0D && (ops.dropLast.all (fun o => o != 0x0D))
    && (st.zip (st.drop 1)).all (fun p => decide (p.1 ≤ p.2)) && ops.count 8 ≤ 1 && ops.count 9 ≤ 1 && ops.count 0x0A ≤ 1
    && ops.count 0x0B == 1 && ops.count 0x0C ≤ 1

/-- The words of a program through its LEND, at most 32. -/
def progWords : Nat → List Byte → List (BitVec 32)
  | 0, _ => []
  | n + 1, bs =>
    let w := BitVec.ofNat 32 (ofBytes (bs.take 4))
    if bs.length < 4 then [] else if logitOp w = 0x0D then [w] else w :: progWords n (bs.drop 4)

/-- f32 comparisons (R61). -/
def f32ge (a b : Nat) : Bool := f32lt b a || f32eq a b

/-- Applies a word to the logit in transit of the current row: it moves on to the next word (R289). -/
def State.onLogit (s : State) (f : Row → Logit → Nat) : Host.Outcome State Fault Refusal :=
  let b := s.sampler s.die
  match b.row, b.cur with
  | some r, some l => .next (s.setSampler s.die { b with cur := some { l with l := f r l, pc := l.pc + 1 } })
  | _, _ => .next s

/-- Applies a selection or draw word of the current row: it sets what lap 2 does. -/
def State.onRow (s : State) (f : Row → Row) : Host.Outcome State Fault Refusal :=
  let b := s.sampler s.die
  match b.row, b.cur with
  | some r, some l => .next (s.setSampler s.die { b with row := some (f r), cur := some { l with pc := l.pc + 1 } })
  | _, _ => .next s

/-- Parameter slot Gi of a row. -/
def Row.slot (r : Row) (i : BitVec 3) : Nat := r.hdr.g.getD i.toNat 0

/-- l − c × Ga, exact before the one rounding (R289). -/
def freqPen (l : Nat) (c : Int) (ga : Nat) : Nat :=
  roundVal .f32 .rne false (FVal.add .rne (FVal.ofCode .f32 l) (FVal.neg (FVal.mul (FVal.ofInt false c 0) (FVal.ofCode .f32 ga))))

/-- Bit i of the vocabulary bitmap (R284). -/
def Row.vbit (r : Row) (i : Nat) : Bool := ((r.bits[i / 8]?).getD 0).getLsbD (i % 8)

def execLbias (s : State) : Host.Outcome State Fault Refusal :=
  s.onLogit (fun r l => (r.hdr.bias.filter (fun e => e.1 == l.id)).foldl (fun x e => f32add x e.2) l.l)
def execLpenRep (a : BitVec 3) (s : State) : Host.Outcome State Fault Refusal :=
  s.onLogit (fun r l =>
    if 0 < l.c then (if f32lt 0 l.l then fdivc .f32 .rne false l.l (r.slot a) else f32mul l.l (r.slot a)) else l.l)
def execLpenFreq (a : BitVec 3) (s : State) : Host.Outcome State Fault Refusal := s.onLogit (fun r l => freqPen l.l l.c (r.slot a))
def execLpenPres (a : BitVec 3) (s : State) : Host.Outcome State Fault Refusal :=
  s.onLogit (fun r l => if 0 < l.c then f32sub l.l (r.slot a) else l.l)
def execLtemp (s : State) : Host.Outcome State Fault Refusal := s.onLogit (fun r l => f32mul l.l r.hdr.rtemp)
def execLclamp (a b : BitVec 3) (s : State) : Host.Outcome State Fault Refusal :=
  s.onLogit (fun r l => fminmax .f32 false (fminmax .f32 true l.l (r.slot a)) (r.slot b))
def execLvmaskAllow (s : State) : Host.Outcome State Fault Refusal :=
  s.onLogit (fun r l => if r.vbit l.id then l.l else f32negInf)
def execLvmaskBan (s : State) : Host.Outcome State Fault Refusal :=
  s.onLogit (fun r l => if r.vbit l.id then f32negInf else l.l)
def execLscale (a : BitVec 3) (s : State) : Host.Outcome State Fault Refusal := s.onLogit (fun r l => f32mul l.l (r.slot a))
def execLaddc (a : BitVec 3) (s : State) : Host.Outcome State Fault Refusal := s.onLogit (fun r l => f32add l.l (r.slot a))
def execLtopk (s : State) : Host.Outcome State Fault Refusal := s.onRow (fun r => { r with topk := true })
def execLtopp (s : State) : Host.Outcome State Fault Refusal := s.onRow (fun r => { r with topp := true })
def execLminp (a : BitVec 3) (s : State) : Host.Outcome State Fault Refusal := s.onRow (fun r => { r with minp := some (r.slot a) })
def execLdraw (s : State) : Host.Outcome State Fault Refusal := s.onRow (fun r => { r with draw := some false })
def execLdrawGreedy (s : State) : Host.Outcome State Fault Refusal := s.onRow (fun r => { r with draw := some true })
def execLcount (s : State) : Host.Outcome State Fault Refusal := s.onRow (fun r => { r with count := true })

/-- What lap 1 does with a transformed logit (R291): NaN becomes −∞, the largest and the ranked list follow, the replay queue takes
it. -/
def Row.take (r : Row) (l : Logit) : Row :=
  let nan := f32nan l.l
  let x := if nan then f32negInf else l.l
  { r with
    n := r.n + 1
    nans := if nan then r.nans + 1 else r.nans
    maxp := fminmax .f32 true r.maxp x
    list := (offer r.hdr.topk r.list (x, l.id)).1
    lap := r.lap ++ [x] }

/-- LEND: the logit in transit leaves lap 1 (R289, R291). -/
def execLend (s : State) : Host.Outcome State Fault Refusal :=
  let b := s.sampler s.die
  match b.row, b.cur with
  | some r, some l => .next (s.setSampler s.die { b with row := some (r.take l), cur := none })
  | _, _ => .next s

/-! ### Batches (R282, R286, R299) -/

/-- Whether the feeder of a batch is on the sampler's die, holds a unit and has the port bound to it (R282). -/
def State.feederOk (s : State) (die src port : Nat) : Bool :=
  let y := s.receiver src
  let c := s.ctx y
  let p := c.port port
  y.die == die && c.life != .empty && p.out && p.kind == 3

/-- BATCH_START: the SBATCH at the head of the queue becomes current, and its feeder is checked (R282); a feeder whose page is frozen is
checked once it is back (R342). -/
def execBatchStart (die : Nat) (s : State) : Host.Outcome State Fault Refusal :=
  let b := s.sampler die
  match s.samplerHead die with
  | none => .next s
  | some c =>
    let box := c.op 336 16
    let src := if box = 0xFFFF then c.src else box
    if c.opc ≠ 0x21 ∨ s.away src then .next s
    else
      let port := c.op 352 4
      let noTable : Bool := !memWord (c.op 256 64) || (c.cw && !memWord (c.op 64 64))
      let bad := !s.feederOk die src port
      .next (s.setSampler die { b with
        queue := b.queue.drop 1, batch := some (if noTable then { c with phase := 5, status := 2 } else c), src := src, port := port,
        next := 0, nrows := c.op 320 16, bad := bad, row := none, lap2 := [], cur := none, pend := [], mark := 0, logits := 0,
        fail := none, ended := bad || noTable, skip := false, cancel := c.cancel })

/-- Checks that end a row before its program runs, in order: status and row. (DEDUCED, log 35) -/
def Row.failed (r : Row) (st : Nat) : Row := if r.status = 0 then { r with status := st } else r

/-- A result record (R287): 32 bytes. -/
structure Drawn where
  id : Nat := 0xFFFFFFFF
  cntd : Bool := false
  csat : Bool := false
  greedy : Bool := false
  kept : Nat := 0
  ubits : Nat := 0
  deriving DecidableEq, Repr, Inhabited

/-- The number in a result record (R287). (DEDUCED, log 35) -/
def Row.result (r : Row) (d : Drawn) : Nat :=
  d.id + r.status * 2 ^ 32 + b2n d.cntd * 2 ^ 40 + b2n d.csat * 2 ^ 41 + b2n d.greedy * 2 ^ 42 + b2n r.replay * 2 ^ 43
    + r.list.length * 2 ^ 48 + d.kept * 2 ^ 56 + r.hdr.seed * 2 ^ 64 + r.hdr.ndraw * 2 ^ 128
    + (if r.ran then r.maxp else 0) * 2 ^ 192 + d.ubits * 2 ^ 224 + min r.nans 255 * 2 ^ 248

/-- Steps of the beginning of a row, each ending it early with `stop`: the entry, the header, the replayed record, the program, the
tables that the program uses. `none` as row means that nothing happens yet. -/
structure Begin where
  s : State
  r : Option Row
  go : Bool

/-- Continues a beginning. -/
def Begin.andThen (b : Begin) (f : State → Row → Begin) : Begin :=
  match b.go, b.r with
  | true, some r => f b.s r
  | _, _ => b

/-- Reads a span for a row. After a fault that was resolved as fatal, a read that fails again ends the row (R288, R351). -/
def beginRead (die : Nat) (c : Cmd) (w off n : Nat) (s : State) (r : Row) (k : State → Row → List Byte → Begin) : Begin :=
  match s.readSpan (.sampler die (rowJob r.r)) c.asid w off n s.ecc with
  | (s, .ok bs) => k s r bs
  | (s, .error x) =>
    if ((s.sampler die).fatalOf (rowJob r.r)).isSome then { s := s, r := some (r.failed 4), go := false }
    else
      match s.missed die (rowJob r.r) c.asid false x with
      | (s, some e) => { s := s, r := some (r.failed (if e.1 = 3 then 2 else e.1)), go := false }
      | (s, none) => { s := s, r := none, go := false }

/-- A row that ends where it stands. -/
def Begin.stop (s : State) (r : Row) (st : Nat) : Begin := { s := s, r := some (r.failed st), go := false }

/-- The home of the first byte at an address word, where the word has one now. -/
def State.homeOf (s : State) (die asid w : Nat) : Option Nat :=
  match (s.locate (.sampler die headJob) asid (placeOf w) 0 1 false).2 with
  | .home h => some h
  | _ => none

/-- Whether two address words name one place: the same word, or two mappings of one home. (DEDUCED, log 36) -/
def State.samePlace (s : State) (die asid v w : Nat) : Bool :=
  v == w || (match s.homeOf die asid v, s.homeOf die asid w with
    | some a, some b => a == b
    | _, _ => false)

/-- Whether an earlier row that is still in the channel uses the block that a row names, or writes the record it replays (R298,
R299). (DEDUCED, log 36) -/
def State.rowBusy (s : State) (die : Nat) (b : Sampler) (asid seq : Nat) (orig : Option Nat) : Bool :=
  b.lap2.any (fun r => s.samePlace die asid r.seq seq || (match orig, r.res with
    | some o, some w => s.samePlace die asid o w
    | _, _ => false))

/-- SEED and N that a row would use, from its block or from the record it replays, where they can be read (R297, R298); else they stay the
free values of the row. (DEDUCED, log 35) -/
def State.seedOf (s : State) (die asid : Nat) (r : Row) (orig : Nat) : Row :=
  let ok := if r.replay then memWord orig && (placeOf orig).addr % 32 == 0 else tableWord r.seq 128
  match ok, (s.readSpan (.sampler die (rowJob r.r)) asid (if r.replay then orig else r.seq) (if r.replay then 8 else 24) 16 .clean).2 with
  | true, .ok bs => { r with hdr := { r.hdr with seed := ofBytes (bs.take 8), ndraw := ofBytes (bs.drop 8) } }
  | _, _ => r

/-- The entry of a row (R286). A misaligned table fails the row, which still writes its record (R287). -/
def beginEntry (die : Nat) (b : Sampler) (c : Cmd) (s : State) (r : Row) : Begin :=
  let w := c.op 256 64
  beginRead die c w (32 * r.r) 32 s r (fun s r bs =>
      let e := ofBytes bs
      let seq := fld e 63 0
      let res := fld e 127 64
      let replay := bit e 128
      let orig := fld e 255 192
      let r := s.seedOf die c.asid { r with seq := seq, replay := replay, res := if tableWord res 32 then some res else none } orig
      if s.rowBusy die b c.asid seq (if replay then some orig else none) then { s := s, r := none, go := false }
      else if (placeOf w).addr % 32 ≠ 0 || !tableWord seq 128 || !tableWord res 32 || fld e 191 130 != 0
          || (!replay && (bit e 129 || orig != 0)) || (replay && !(memWord orig && (placeOf orig).addr % 32 == 0)) then Begin.stop s r 2
      else
        -- `undoId` holds UNDO and `lap` ORIG until the record has been read
        { s := s, r := some { r with undoId := if bit e 129 then some 0 else none, lap := [orig] }, go := true })

/-- The header of a row's block (R284). (DEDUCED, log 34) -/
def beginHeader (die : Nat) (c : Cmd) (s : State) (r : Row) : Begin :=
  beginRead die c r.seq 0 128 s r (fun s r bs =>
    let h := ofBytes bs
    let r := { r with hdr := if r.replay then { seqHdr h with seed := r.hdr.seed, ndraw := r.hdr.ndraw } else seqHdr h }
    if !hdrOk h || !tableWord r.hdr.prog 1 || (r.hdr.vmask != 0 && !memWord r.hdr.vmask) then Begin.stop s r 2
    else { s := s, r := some r, go := true })

/-- The record that a replay repeats (R298). -/
def beginReplay (die : Nat) (c : Cmd) (s : State) (r : Row) : Begin :=
  let orig := r.lap.headD 0
  let clean : Row := { r with lap := [], undoId := none }
  if !r.replay then { s := s, r := some clean, go := true }
  else
    beginRead die c orig 0 32 s clean (fun s q bs =>
      let o := ofBytes bs
      let q := { q with hdr := { q.hdr with seed := fld o 127 64, ndraw := fld o 191 128 } }
      if fld o 39 32 ≠ 0 ∨ fld o 43 42 ≠ 0 then Begin.stop s q 2
      else
        { s := s, go := true, r := some { q with
            undoId := if r.undoId.isSome && bit o 40 then some (fld o 31 0) else none } })

/-- The program and the tables it uses (R290, R299). (DEDUCED, log 34) -/
def beginProgram (die : Nat) (c : Cmd) (s : State) (r : Row) : Begin :=
  -- words are read up to LEND; the walk reads one at a time
  let rec go : Nat → State → Row → List Byte → Begin
    | 0, s, r, acc => { s := s, r := some { r with words := progWords 32 acc }, go := true }
    | n + 1, s, r, acc =>
      beginRead die c r.hdr.prog acc.length 4 s r (fun s r bs =>
        if logitOp (BitVec.ofNat 32 (ofBytes bs)) = 0x0D then { s := s, r := some { r with words := progWords 32 (acc ++ bs) }, go := true }
        else go n s r (acc ++ bs))
  (go 32 s r []).andThen (fun s r =>
    if !progOk r.words then Begin.stop s r 0x0B
    else if (uses r.words 5 && r.hdr.vmask == 0) || (uses r.words 9 && !(f32lt 0 r.hdr.topp && f32ge f32one r.hdr.topp)) then Begin.stop s r 2
    else
      let withBias : Begin :=
        if uses r.words 1 then
          beginRead die c r.seq biasOff (8 * r.hdr.nbias) s r (fun s r bs =>
            let x := ofBytes bs
            { s := s, go := true, r := some { r with
                hdr := { r.hdr with bias := tab r.hdr.nbias (fun k => (elem 32 x (2 * k), elem 32 x (2 * k + 1))) } } })
        else { s := s, r := some r, go := true }
      withBias.andThen (fun s r =>
        if uses r.words 5 then
          beginRead die c r.hdr.vmask 0 ((r.hdr.v + 7) / 8) s r (fun s r bs => { s := s, r := some { r with bits := bs }, go := true })
        else { s := s, r := some r, go := true }))

/-- SBATCH: the next row of the current batch begins: its entry, header, bias table, program and bitmap are read and checked (R282,
R286, R290, R299). A row that cannot take beats goes straight to lap 2. (DEDUCED, log 35 and 36) -/
def execSbatch (m : Msg) (s : State) : Host.Outcome State Fault Refusal :=
  let die := s.die
  let b := s.sampler die
  match b.batch with
  | none => .next s
  | some c =>
    if c.m ≠ m ∨ c.phase ≠ 0 ∨ b.row.isSome ∨ b.nrows ≤ b.next ∨ 8 ≤ b.lap2.length ∨ s.faulting (.sampler die (rowJob b.next)) then .next s
    else
      -- where the seed and index of the row cannot be read, they are free values
      let r0 : Row := { r := b.next, hdr := { seed := Config.freeNat s.fresh % 2 ^ 64, ndraw := Config.freeNat (s.fresh + 1) % 2 ^ 64 } }
      let e := beginEntry die b c { s with fresh := s.fresh + 2 } r0
      let e := (e.andThen (beginHeader die c)).andThen (beginReplay die c)
      let e := e.andThen (fun s r =>
        if b.bad || b.cancel then { s := s, r := some r, go := false } else beginProgram die c s r)
      match e.r with
      | none => .next e.s
      | some r =>
        let r := if b.bad then { r with status := 2 } else if b.cancel then { r with status := 9 }
          else if (b.fatalOf (rowJob b.next)).isSome then { r with status := 4 } else r
        let r := if b.ended then r.failed 0x0D else r
        let r := { r with lap := [] }
        .next (e.s.modSampler die (fun k =>
          let k := { k.unfault (rowJob b.next) with next := k.next + 1, skip := k.skip || b.cancel }
          if b.bad || b.cancel || b.ended then { k with lap2 := k.lap2 ++ [r] } else { k with row := some r }))

/-! ### Lap 1 (R283, R288, R291) -/

/-- Closes the row in lap 1: it must have carried exactly V logits (R288). (DEDUCED, log 36) -/
def Sampler.closeRow (b : Sampler) : Sampler :=
  match b.row with
  | none => b
  | some r => { b with row := none, lap2 := b.lap2 ++ [if r.n = r.hdr.v then r else r.failed 0x0D] }

/-- The mark of the beat taken last: the row closes at 1 or more, the batch ends at 2 or more, and after the last row the remaining
beats are discarded (R283, R288). -/
def Sampler.applyMark (b : Sampler) : Sampler :=
  let b' := { b with mark := 0 }
  if b.mark = 0 then b'
  else
    let b' := b'.closeRow
    if 2 ≤ b.mark then { b' with ended := true } else { b' with skip := b'.skip || b'.next == b'.nrows }

/-- The count of an id as its logit passes (R284, R298). -/
def State.readCount (s : State) (die : Nat) (c : Cmd) (r : Row) : State × Except Access (List Byte) :=
  if uses r.words 2 then s.readSpan (.sampler die (rowJob r.r)) c.asid r.seq (countOff + 2 * r.n) 2 .clean else (s, .ok [])

/-- LAP_1: the next logit of the row enters the channel, or the next beat of the feeder is taken (R283, R288, R291). -/
def execLap1 (die : Nat) (s : State) : Host.Outcome State Fault Refusal :=
  let b := s.sampler die
  match b.batch with
  | none => .next s
  | some c =>
    if b.cur.isSome ∨ b.row.any (fun r => s.faulting (.sampler die (rowJob r.r))) then .next s
    else
      match b.pend, b.row with
      | l :: rest, some r =>
        if r.status ≠ 0 then .next (s.setSampler die { b with pend := rest })
        else if r.hdr.v ≤ r.n then .next (s.setSampler die { b with pend := rest, row := some (r.failed 0x0D) })
        else if (b.fatalOf (rowJob r.r)).isSome then .next (s.setSampler die { b.unfault (rowJob r.r) with row := some (r.failed 4) })
        else
          match s.readCount die c r with
          | (s, .ok bs) =>
            let n : Int := (ofBytes bs : Nat)
            let n := if r.undoId = some r.n then n - 1 else n
            .next (s.setSampler die { s.sampler die with pend := rest, cur := some { id := r.n, l := l, c := n, pc := 0 } })
          | (s, .error x) =>
            match s.missed die (rowJob r.r) c.asid false x with
            | (s, some e) => .next (s.modSampler die (fun b => { b with row := some (r.failed (if e.1 = 3 then 2 else e.1)) }))
            | (s, none) => .next s
      | _ :: _, none => .next (s.setSampler die { b with pend := [] })
      | [], _ =>
        if b.mark ≠ 0 then .next (s.setSampler die b.applyMark)
        else if b.ended ∨ c.phase ≠ 0 ∧ b.skip = false then .next s
        else
          match s.drain b.src b.port 3 with
          | .beat t beat =>
            let bare := beat.sb.getLsbD 12
            let mk := (beat.sb.extractLsb' 9 3).toNat
            let vc := (beat.sb.extractLsb' 0 9).toNat
            if beat.sb = 0x1000 then
              .next (t.setSampler die { (match b.row with
                | none => b
                | some r => { b with row := none, lap2 := b.lap2 ++ [r.failed 0x0D] }) with ended := true })
            else
              match b.row with
              | some r =>
                let r := if !bare && vc % 4 != 0 then r.failed 0x0D else r
                let ls := if bare then [] else elems 32 (vc / 4) beat.data.toNat
                .next (t.setSampler die { b with row := some { r with ran := r.ran || r.status == 0 }, pend := ls, mark := mk,
                                                 logits := b.logits + ls.length })
              | none => if b.skip then .next (t.setSampler die { b with ended := decide (2 ≤ mk) }) else .next s
          | _ => .next s

/-- SAMPLER_EOF_DISCARD: an EOF at the head of a port whose batch is not current is taken and discarded (R283). -/
def execSamplerEofDiscard (x : CtxId) (port : Nat) (s : State) : Host.Outcome State Fault Refusal :=
  let b := s.sampler x.die
  let named : Bool := b.batch.isSome && !b.ended && s.receiver b.src == x && b.port == port
  let p := (s.ctx x).port port
  match p.fifo with
  | beat :: r =>
    if named = false ∧ p.out ∧ p.kind = 3 ∧ p.base < p.ctail ∧ (s.ctx x).frozen = false ∧ beat.sb = 0x1000 then
      .next (s.modCtx x (fun c => c.setPort port { p with fifo := r, base := p.base + 1, eof := true }))
    else .next s
  | [] => .next s

/-! ### Lap 2 (R292 to R298) -/

/-- The weight of a transformed logit (R292). -/
def weight (maxp l : Nat) : Nat :=
  if maxp = f32posInf then (if l = f32posInf then f32one else 0) else e2c (f32sub l maxp)

/-- A sum in order, each step rounded (R292). -/
def sumUp (ws : List Nat) : Nat := ws.foldl f32add 0

/-- The first index whose running sum passes a test. -/
def passing (test : Nat → Bool) : List Nat → Nat → Nat → Option Nat
  | [], _, _ => none
  | w :: r, i, acc =>
    let a := f32add acc w
    if test a then some i else passing test r (i + 1) a

/-- The largest index that meets a test. -/
def lastIdx (test : Nat → Bool) (l : List Nat) : Option Nat :=
  (((l.zip (List.range l.length)).filter (fun e => test e.1)).getLast?).map (fun e => e.2)

/-- Ember: z[63:40] of draw n of seed S (R296). -/
def ember (seed n : Nat) : Nat :=
  let z : BitVec 64 := BitVec.ofNat 64 seed + BitVec.ofNat 64 (n + 1) * 0xC3A59E176D2B48F1
  let z := z ^^^ (z >>> 31)
  let z := z ^^^ (z <<< 17)
  let z := z ^^^ (z >>> 23)
  (z.extractLsb' 40 24).toNat

/-- A vocabulary draw (R293). -/
def vocabDraw (maxp u : Nat) (lap : List Nat) : Nat :=
  let ws := lap.map (weight maxp)
  let t := f32mul u (sumUp ws)
  match passing (fun c => f32lt t c) ws 0 0 with
  | some i => i
  | none => (lastIdx (fun w => f32lt 0 w) ws).getD 0

/-- A list draw (R294): the id and how many entries were kept. -/
def listDraw (r : Row) (u : Nat) : Nat × Nat :=
  let pairs := r.list.map (fun (e : Nat × Nat) => (weight r.maxp e.1, e.2))
  let kept := match r.minp with
    | none => pairs
    | some g => pairs.take 1 ++ (pairs.drop 1).filter (fun (e : Nat × Nat) => f32ge e.1 g)
  let kept := if r.topp then
      let ws := kept.map (fun (e : Nat × Nat) => e.1)
      let th := f32mul r.hdr.topp (sumUp ws)
      kept.take ((passing (fun c => f32ge c th) ws 0 0).getD (kept.length - 1) + 1)
    else kept
  let ws := kept.map (fun (e : Nat × Nat) => e.1)
  let t := f32mul u (sumUp ws)
  let i := (passing (fun c => f32lt t c) ws 0 0).getD (kept.length - 1)
  (((kept[i]?).map (fun (e : Nat × Nat) => e.2)).getD 0, kept.length)

/-- The draw of a row (R293 to R296). -/
def Row.drawn (r : Row) : Drawn :=
  if r.draw = some true then { id := ((r.list.head?).map (fun (e : Nat × Nat) => e.2)).getD 0, greedy := true, kept := 1 }
  else
    let ub := ember r.hdr.seed r.hdr.ndraw
    let u := roundVal .f32 .rne false (FVal.ofInt false ub (-24))
    if r.topk || r.topp || r.minp.isSome then
      let d := listDraw r u
      { id := d.1, kept := d.2, ubits := ub }
    else { id := vocabDraw r.maxp u r.lap, ubits := ub }

/-- The row leaves lap 2 (R287, R288). -/
def State.rowDone (s : State) (die : Nat) (r : Row) : State :=
  s.modSampler die (fun b =>
    { b.unfault (rowJob r.r) with
             lap2 := b.lap2.drop 1
             fail := if b.fail.isNone && r.status != 0 then some (r.r, r.status) else b.fail })

/-- Writes the result record of a row and retires it; a record that cannot be written fails the row (R287, R288). (DEDUCED, log 34) -/
def State.writeResult (s : State) (die : Nat) (c : Cmd) (r : Row) (d : Drawn) : State :=
  match r.res with
  | none => s.rowDone die r
  | some w =>
    match s.writeSpan (.sampler die (rowJob r.r)) c.asid w 0 32 with
    | (s, .ok hs) => (s.pokeParts hs (toBytes 32 (r.result d))).rowDone die r
    | (s, .error x) =>
      if ((s.sampler die).fatalOf (rowJob r.r)).isSome then s.rowDone die r
      else
        match s.missed die (rowJob r.r) c.asid true x with
        | (s, some e) => s.rowDone die (r.failed (if e.1 = 3 then 2 else e.1))
        | (s, none) => s

/-- LAP_2: the oldest row draws, raises its count, advances NDRAW and writes its record (R292 to R298). Every address is translated
before anything is written. (DEDUCED, log 34) -/
def execLap2 (die : Nat) (s : State) : Host.Outcome State Fault Refusal :=
  let b := s.sampler die
  match b.batch, b.lap2 with
  | some c, r :: rest =>
    let job := rowJob r.r
    if s.faulting (.sampler die job) then .next s
    else
      let setHead (s : State) (r : Row) : State := s.modSampler die (fun b => { b.unfault job with lap2 := r :: rest })
      if r.status ≠ 0 then .next (s.writeResult die c r {})
      else if (b.fatalOf job).isSome then .next (setHead s { r with status := 4 })
      else if r.maxp = f32negInf then .next (setHead s { r with status := 0x0C })
      else
        let d := r.drawn
        if r.replay then .next (s.writeResult die c r d)
        else
          let miss (s : State) (x : Access) : State :=
            match s.missed die job c.asid true x with
            | (s, some e) => setHead s (r.failed (if e.1 = 3 then 2 else e.1))
            | (s, none) => s
          match (if r.count then s.writeSpan (.sampler die job) c.asid r.seq (countOff + 2 * d.id) 2 else (s, .ok [])) with
          | (s, .error x) => .next (miss s x)
          | (s, .ok ch) =>
            match (if d.greedy then (s, .ok []) else s.writeSpan (.sampler die job) c.asid r.seq 32 8) with
            | (s, .error x) => .next (miss s x)
            | (s, .ok nh) =>
              match s.writeSpan (.sampler die job) c.asid (r.res.getD 0) 0 32 with
              | (s, .error x) => .next (miss s x)
              | (s, .ok _) =>
                match (if r.count then s.readSpan (.sampler die job) c.asid r.seq (countOff + 2 * d.id) 2 s.ecc else (s, .ok [])) with
                | (s, .error x) => .next (miss s x)
                | (s, .ok bs) =>
                  let old := ofBytes bs
                  let sat := old == 0xFFFF
                  let d := { d with cntd := r.count && !sat, csat := r.count && sat }
                  let s := if r.count && !sat then s.pokeParts ch (toBytes 2 (old + 1)) else s
                  let s := if d.greedy then s else s.pokeParts nh (toBytes 8 (r.hdr.ndraw + 1))
                  .next (s.writeResult die c r d)
  | _, _ => .next s

/-- BATCH_COMPLETION: once every row has written its record, the completion word and the reply follow; the batch is over when its end
mark has been taken too (R288, R300). (DEDUCED, log 36) -/
def execBatchCompletion (die : Nat) (s : State) : Host.Outcome State Fault Refusal :=
  let b := s.sampler die
  match b.batch with
  | none => .next s
  | some c =>
    let rows : Bool := c.phase != 0 || (b.next == b.nrows && b.row.isNone && b.lap2.isEmpty)
    let upd (s : State) (f : Cmd → Cmd) : State := s.modSampler die (fun b => { b.unfault batchJob with batch := b.batch.map f })
    if rows = false ∨ s.faulting (.sampler die batchJob) then .next s
    else if c.phase = 0 then
      let f := b.fail.getD (0, 0)
      .next (upd s (fun c => { c with phase := 5, status := f.2, faddr := f.1, bytes := 4 * b.logits }))
    else if c.phase = 7 then (if b.ended then .next (s.setSampler die { b with batch := none }) else .next s)
    else
      match s.closeCmd (.sampler die batchJob) (samplerBox die) (b.fatalOf batchJob) c upd with
      | (s, true) => .next (upd s (fun c => { c with phase := 7 }))
      | (s, false) => .next s

end Sys2Proof.Machine
end

