-- ==== Sys2Proof/Machine/Image.lean ====
section
/-!
DEFINITION. Kernel images and their placement: the layout of an image (R329, R330), windows (R331, R332), the words that a page load
writes (R333, R334), the units of a page (R395) and their start (R241).
-/

namespace Sys2Proof.Machine

/-! ### Images (R329) -/

/-- A rectangle of page positions. -/
structure Rect where
  page : Nat := 0
  row : Nat := 0
  col : Nat := 0
  rows : Nat := 1
  cols : Nat := 1
  deriving DecidableEq, Repr, Inhabited

/-- A pattern: its data items as region, word offset and value, its CRC, the tiles it needs, its rectangles. -/
structure Pattern where
  items : List (Nat × Nat × Word) := []
  crc : Nat := 0
  tiles : Nat := 5
  rects : List Rect := []
  deriving DecidableEq, Repr, Inhabited

/-- An image: its pages and patterns. -/
structure Image where
  npage : Nat := 1
  pats : List Pattern := []
  deriving DecidableEq, Repr, Inhabited

/-- What a read for the scheduler finds: the value, none when the layout is broken or the bytes cannot be read, or a fault. -/
inductive Found (α : Type) where
  | ok (a : α)
  | bad
  | fault (va kind level : Nat)
  deriving Repr

/-- Reads bytes for a scheduler's job. -/
def State.schedRead (s : State) (die job asid w off n : Nat) : State × Found (List Byte) :=
  if (addrWord w).isNone then (s, .bad)
  else
    match s.readSpan (.sched die job) asid w off n .clean with
    | (s, .ok bs) => (s, .ok bs)
    | (s, .error (.fault va kind level)) => (s, .fault va kind level)
    | (s, .error _) => (s, .bad)

/-- Splits bytes into numbers of n bytes. -/
def chunks (n : Nat) : Nat → List Byte → List Nat
  | 0, _ => []
  | f + 1, l => if l.length < n then [] else ofBytes (l.take n) :: chunks n f (l.drop n)

/-- Reads `count` records of n bytes. -/
def State.readTable (s : State) (die job asid w off n count : Nat) : State × Found (List Nat) :=
  if count = 0 then (s, .ok [])
  else
    match s.schedRead die job asid w off (n * count) with
    | (s, .ok bs) => (s, .ok (chunks n count bs))
    | (s, .bad) => (s, .bad)
    | (s, .fault a b c) => (s, .fault a b c)

/-- A data item (R329): its Kiln address names a region and a word of it, with CELL and DIE zero. -/
def itemOf (n : Nat) : Option (Nat × Nat × Word) :=
  let a := n % 2 ^ 64
  if a % 2 ^ 12 = 0 ∧ kilnOk a then some (fld a 15 12, fld a 39 16, BitVec.ofNat 64 (n / 2 ^ 64)) else none

/-- A rectangle (R329). -/
def rectOf (npage n : Nat) : Option Rect :=
  let r : Rect := { page := fld n 15 0, row := fld n 17 16, col := fld n 19 18, rows := fld n 21 20 + 1, cols := fld n 23 22 + 1 }
  if fld n 31 24 = 0 ∧ r.page < npage ∧ r.row + r.rows ≤ 4 ∧ r.col + r.cols ≤ 4 then some r else none

/-- Whether a rectangle covers a position. (DEDUCED, log 39) -/
def Rect.covers (r : Rect) (page idx : Nat) : Bool :=
  r.page == page && decide (r.row ≤ idx / 4) && decide (idx / 4 < r.row + r.rows) && decide (r.col ≤ idx % 4)
    && decide (idx % 4 < r.col + r.cols)

/-- Whether two rectangles share a position. -/
def Rect.meets (a b : Rect) : Bool :=
  a.page == b.page && decide (a.row < b.row + b.rows) && decide (b.row < a.row + a.rows) && decide (a.col < b.col + b.cols)
    && decide (b.col < a.col + a.cols)

/-- No rectangle meets a later one. -/
def apart : List Rect → Bool
  | [] => true
  | r :: l => l.all (fun q => !r.meets q) && apart l

/-- All values of a list of options, or none. -/
def allSome {α : Type} : List (Option α) → Option (List α)
  | [] => some []
  | none :: _ => none
  | some a :: r => (allSome r).map (fun l => a :: l)

/-- The word that a pattern loads at a place: the last item written there. -/
def Pattern.word (p : Pattern) (region woff : Nat) : Nat :=
  ((p.items.reverse.find? (fun e => e.1 == region && e.2.1 == woff)).map (fun e => e.2.2.toNat)).getD 0

/-- The tiles that a role word assigns: scratch, FIFO and cache (R258, R330). -/
def roleTiles (w : Nat) : Nat := fld w 4 0 + fld w 9 5 + fld w 14 10

/-- The role map of a pattern is one that Marten accepts (R258). (DEDUCED, log 39) -/
def Pattern.roleOk (p : Pattern) : Bool :=
  let w := p.word 4 0
  decide (1 ≤ fld w 9 5) && decide (4 ≤ fld w 14 10) && decide (fld w 14 10 ≤ 16)

/-- The tiles that a cell must offer for a pattern (R238, R258, R331). -/
def Pattern.need (p : Pattern) : Nat := max p.tiles (roleTiles (p.word 4 0))

/-- Whether a table of n bytes lies behind the header and before the signature of an image of `size` bytes (R329). (DEDUCED, log 39) -/
def inImage (size off n : Nat) : Bool := n == 0 || (decide (128 ≤ off) && decide (off + n + 64 ≤ size))

/-- Reads the patterns of a table, entry by entry. -/
def State.readPatterns (die job asid w npage size : Nat) : List Nat → State → List Pattern → State × Found (List Pattern)
  | [], s, acc => (s, .ok acc)
  | e :: r, s, acc =>
    if fld e 127 101 ≠ 0 ∨ fld e 159 144 ≠ 0 ∨ fld e 255 192 ≠ 0 ∨ fld e 100 96 < 5 ∨ 24 < fld e 100 96
        ∨ inImage size (fld e 31 0) (16 * fld e 63 32) = false ∨ inImage size (fld e 191 160) (4 * fld e 143 128) = false then (s, .bad)
    else
      match s.readTable die job asid w (fld e 31 0) 16 (fld e 63 32) with
      | (s, .fault a b c) => (s, .fault a b c)
      | (s, .bad) => (s, .bad)
      | (s, .ok items) =>
        match s.readTable die job asid w (fld e 191 160) 4 (fld e 143 128) with
        | (s, .fault a b c) => (s, .fault a b c)
        | (s, .bad) => (s, .bad)
        | (s, .ok rects) =>
          match allSome (items.map itemOf), allSome (rects.map (rectOf npage)) with
          | some is, some rs =>
            State.readPatterns die job asid w npage size r s
              (acc ++ [{ items := is, crc := fld e 95 64, tiles := fld e 100 96, rects := rs }])
          | _, _ => (s, .bad)

/-- Reads the image at an address word (R329). (DEDUCED, log 39) -/
def State.readImage (s : State) (die job asid w : Nat) : State × Found Image :=
  match s.schedRead die job asid w 0 128 with
  | (s, .fault a b c) => (s, .fault a b c)
  | (s, .bad) => (s, .bad)
  | (s, .ok bs) =>
    let h := ofBytes bs
    let npage := fld h 31 16
    let npat := fld h 47 32
    let size := fld h 95 64
    if fld h 15 0 ≠ 1 ∨ npage = 0 ∨ 4096 < npage ∨ npat = 0 ∨ fld h 63 48 ≠ 0 ∨ h >>> 128 ≠ 0
        ∨ inImage size (fld h 127 96) (32 * npat) = false then (s, .bad)
    else
      match s.readTable die job asid w (fld h 127 96) 32 npat with
      | (s, .fault a b c) => (s, .fault a b c)
      | (s, .bad) => (s, .bad)
      | (s, .ok es) =>
        match State.readPatterns die job asid w npage size es s [] with
        | (s, .ok ps) => if apart (ps.flatMap (fun p => p.rects)) && ps.all Pattern.roleOk then (s, .ok { npage := npage, pats := ps }) else (s, .bad)
        | (s, .bad) => (s, .bad)
        | (s, .fault a b c) => (s, .fault a b c)

/-- The pattern of a page position; none leaves the cell empty. -/
def Image.at? (i : Image) (page idx : Nat) : Option Pattern := i.pats.find? (fun p => p.rects.any (fun r => r.covers page idx))

/-- The contexts that a pattern uses (R330). -/
def Pattern.used (p : Pattern) : List Nat := (List.range 4).filter (fun c => bit (p.word 5 (8 * c)) 0)

/-- The contexts that an image uses, by page, cell in page and context (R395). -/
def Image.slots (i : Image) : List (Nat × Nat × Nat) :=
  (List.range i.npage).flatMap (fun g => (List.range 16).flatMap (fun c =>
    ((i.at? g c).map (fun p => p.used.map (fun x => (g, c, x)))).getD []))

/-- The accumulators that a pattern's contexts declare together (R16). -/
def Pattern.nacc (p : Pattern) : Nat := (p.used.map (fun c => fld (p.word 5 (8 * c)) 4 1)).foldl (· + ·) 0

/-- Whether every cell of a page has accumulators enough for the contexts that it is to hold (R16). -/
def Image.accsOk (i : Image) (page : Nat) : Bool :=
  (List.range 16).all (fun j => ((i.at? page j).map (fun p => decide (p.nacc ≤ 8))).getD true)

/-- The positions of a page that a pattern fills. -/
def Pattern.fills (p : Pattern) (page : Nat) : List Nat := (List.range 16).filter (fun j => p.rects.any (fun r => r.covers page j))

/-- The positions of a page that some pattern fills; the others are empty cells (R329). -/
def Image.filled (i : Image) (page : Nat) : List Nat := (List.range 16).filter (fun j => (i.at? page j).isSome)

/-- Whether an image declares a handoff receiver (R213). -/
def Image.hands (i : Image) : Bool := i.pats.any (fun p => !p.rects.isEmpty && p.used.any (fun c => bit (p.word 5 (8 * c)) 6))

/-! ### The words of step 3 (R333, R334) -/

/-- AMAP words on an empty cell: accumulators are numbered upward in context order. -/
def Pattern.amaps (p : Pattern) : List Nat → Nat → List (Nat × Nat × Word)
  | [], _ => []
  | c :: r, base =>
    let n := fld (p.word 5 (8 * c)) 4 1
    let v := (tab n (fun i => (base + i) % 8 * 2 ^ (3 * i))).foldl (· + ·) 0
    (5, 8 * c + 1, BitVec.ofNat 64 (v % 2 ^ 24)) :: Pattern.amaps p r (base + n)

/-- A PEER of kind 9 made absolute for a window (R334). -/
def absPeer (die : Nat) (cells : List Nat) (peer : Nat) : Nat := die * 2 ^ 10 + cells.getD (fld peer 5 2) 0 * 4 + peer % 4

/-- The BIND words whose PEER is of kind 9, made absolute. -/
def Pattern.binds (p : Pattern) (die : Nat) (cells : List Nat) : List (Nat × Nat × Word) :=
  (tab 64 (fun i => (16 + i, p.word 4 (16 + i)))).filterMap (fun e =>
    if fld e.2 19 10 = 0x240 then some (4, e.1, BitVec.ofNat 64 (putFld e.2 4 16 (absPeer die cells (fld e.2 19 4)))) else none)

/-- The words that Marten computes for a pattern on a window. -/
def Pattern.patch (p : Pattern) (die : Nat) (cells : List Nat) : List (Nat × Nat × Word) :=
  p.amaps p.used 0 ++ p.binds die cells

/-- The CRC that the cell holds after the items and those words. -/
def Pattern.sealCrc (p : Pattern) (die : Nat) (cells : List Nat) : Nat :=
  (p.patch die cells).foldl (fun c e => crcMore c (toBytes 8 e.2.2.toNat)) p.crc

/-! ### Windows (R331, R332) -/

/-- A window: its number, its 16 cells by page index, and the usable cells of a shadow line. -/
structure Site where
  num : Nat := 0
  cells : List Nat := []
  shadow : List Nat := []
  deriving DecidableEq, Repr, Inhabited

/-- The 81 plain windows in row-major order of origin. -/
def plainWindows : List Site :=
  tab 81 (fun i => { num := i, cells := tab 16 (fun j => (i / 9 + j / 4) * 12 + i % 9 + j % 4) })

/-- The detour window of a shape and origin: exactly one of its cells is unusable (R332). -/
def State.detour (s : State) (die : Nat) (wide : Bool) (i : Nat) : Option Site :=
  let ro := if wide then i / 8 else i / 9
  let co := if wide then i % 8 else i % 9
  let rows := if wide then 4 else 5
  let cols := if wide then 5 else 4
  let all := (List.range rows).flatMap (fun r => tab cols (fun c => (r, c)))
  let cellAt (e : Nat × Nat) : Nat := (ro + e.1) * 12 + co + e.2
  match all.filter (fun e => s.unusable (cellKey die (cellAt e))) with
  | [b] =>
    let off (x line : Nat) : Nat := if x < line then x else x + 1
    let pageCell (j : Nat) : Nat := if wide then cellAt (j / 4, off (j % 4) b.2) else cellAt (off (j / 4) b.1, j % 4)
    let line := all.filter (fun e => if wide then e.2 == b.2 else e.1 == b.1)
    some { num := (if wide then 81 else 153) + i, cells := tab 16 pageCell, shadow := (line.filter (fun e => e != b)).map cellAt }
  | _ => none

/-- The detour windows: 4 × 5 before 5 × 4. -/
def State.detours (s : State) (die : Nat) : List Site :=
  (List.range 72).filterMap (s.detour die true) ++ (List.range 72).filterMap (s.detour die false)

/-- Whether a cell is free for placement (R331, R332): no placed page holds it. -/
def State.cellFree (s : State) (die cell need : Nat) : Bool :=
  let ck := cellKey die cell
  let k := s.cell ck
  !s.unusable ck && !k.busy && decide (need ≤ k.tiles)
    && !s.pages.any (fun p => p.die == die && (p.cells.contains cell || p.shadow.contains cell))

/-- Whether a page with these tile counts can stand on a window (R331). -/
def State.usable (s : State) (die : Nat) (needs : List Nat) (w : Site) : Bool :=
  (w.cells.zip needs).all (fun e => s.cellFree die e.1 e.2) && w.shadow.all (fun c => s.cellFree die c 0)

/-- The window of a page: the first usable one whose cells are loaded already, the first usable one, the first usable detour (R331). -/
def State.pickWindow (s : State) (die : Nat) (needs barred : List Nat) (loaded : Site → Bool) : Option (Site × Bool) :=
  let ok (w : Site) : Bool := !barred.contains w.num && s.usable die needs w
  let l := plainWindows.filter ok
  match l.find? loaded with
  | some w => some (w, true)
  | none =>
    match l.head? with
    | some w => some (w, false)
    | none => ((s.detours die).find? ok).map (fun w => (w, false))

/-- Whether the cells of a window hold a page's patterns as R333 would seal them (R331 choice 1). -/
def State.holdsPage (s : State) (die : Nat) (i : Image) (page : Nat) (w : Site) : Bool :=
  (List.range 16).all (fun j =>
    match i.at? page j with
    | none => true
    | some p =>
      let k := s.cell (cellKey die (w.cells.getD j 0))
      k.st == 2 && k.rcrc.toNat == p.sealCrc die w.cells)

/-- The tile counts that a page needs. -/
def Image.needs (i : Image) (page : Nat) : List Nat := tab 16 (fun j => ((i.at? page j).map Pattern.need).getD 0)

/-- The window of a page of an image; none while no cells could hold it (R16, R331). -/
def State.windowFor (s : State) (die : Nat) (i : Image) (page : Nat) (barred : List Nat) : Option (Site × Bool) :=
  if i.accsOk page then s.pickWindow die (i.needs page) barred (s.holdsPage die i page) else none

/-! ### Loading a page (R333) -/

/-- A word that Marten writes to the cells of a pattern. -/
inductive KilnOp where
  | start
  | item (region woff : Nat) (v : Word)
  | seal (crc : BitVec 32)
  deriving DecidableEq, Repr, Inhabited

/-- The words of a pattern in their order: begin, the items, the words of step 3, seal. -/
def Pattern.ops (p : Pattern) (die : Nat) (cells : List Nat) : List KilnOp :=
  .start :: ((p.items ++ p.patch die cells).map (fun e => .item e.1 e.2.1 e.2.2) ++ [.seal (BitVec.ofNat 32 (p.sealCrc die cells))])

/-- The words of a page's load, pattern by pattern, each with the cells that its rectangles bring it to. (DEDUCED, log 46) -/
def Image.loadOps (i : Image) (p : Page) : List (List Nat × KilnOp) :=
  i.pats.flatMap (fun q =>
    let l := (q.fills p.ord).map (fun j => cellKey p.die (p.cells.getD j 0))
    if l = [] then [] else (q.ops p.die p.cells).map (fun o => (l, o)))

/-- One such word at one cell. (DEDUCED, log 46) -/
def State.kilnOp (s : State) (ck : Nat) : KilnOp → State
  | .start => s.kilnBegin ck
  | .item region woff v => s.kilnWrite ck region woff v
  | .seal crc => s.kilnSeal ck crc

/-- Clears the cells of a page (R209). -/
def State.clearCells (s : State) (p : Page) : State := p.cells.foldl (fun s c => s.kilnClear (cellKey p.die c)) s

/-- A cell whose load is skipped: its scratch holds what the image loads and zero elsewhere, its L1 nothing (R259, R331). (DEDUCED, log 46) -/
def State.freshScratch (s : State) (ck : Nat) (p : Pattern) : State :=
  let s := (s.zero (tileKey ck 0) (2 ^ 22)).modCell ck (fun k => { k with l1 := [] })
  (p.items.filter (fun e => e.1 == 7)).foldl (fun s e => s.putNum (tileKey ck (8 * e.2.1)) 8 e.2.2.toNat) s

/-! ### Units (R395) -/

/-- How many contexts the image of a launch uses. -/
def Launch.width (l : Launch) : Nat := l.slots.length

/-- The units of a page of a copy: ordinal, cell in page, context. -/
def Launch.units (l : Launch) (copy page : Nat) : List (Nat × Nat × Nat) :=
  ((l.slots.zip (List.range l.width)).filter (fun e => e.1.1 == page)).filterMap (fun e =>
    if copy * l.width + e.2 < l.nunit then some (copy * l.width + e.2, e.1.2.1, e.1.2.2) else none)

/-- The units of the current instance from the page at the cursor on. -/
def Launch.rest (l : Launch) : Nat :=
  ((l.slots.zip (List.range l.width)).filter (fun e => decide (l.page ≤ e.1.1) && decide (l.copy * l.width + e.2 < l.nunit))).length
    + (l.nunit - (l.copy + 1) * l.width)

/-- Moves the cursor past a page. -/
def Launch.onward (l : Launch) : Launch :=
  let l := { l with barred := [], tries := 0 }
  if l.page + 1 < l.npage then { l with page := l.page + 1 }
  else if (l.copy + 1) * l.width < l.nunit then { l with page := 0, copy := l.copy + 1 }
  else { l with page := 0, copy := 0, inst := l.inst + 1 }

/-- Whether regions 4 and 5 hold a nonzero reserved bit for a context (R330). (DEDUCED, log 48) -/
def Cell.reservedBits (k : Cell) (c : Nat) : Bool :=
  let w4 (i : Nat) : Nat := (k.word 4 i).toNat
  let w5 (i : Nat) : Nat := (k.word 5 (8 * c + i)).toNat
  w4 0 >>> 15 != 0 || (List.range 15).any (fun i => w4 (i + 1) != 0)
    || (List.range 16).any (fun q => w4 (16 + 16 * c + q) >>> 24 != 0) || w4 (17 + 16 * c) != 0
    || (List.range 8).any (fun r => w4 (80 + 8 * c + r) >>> 40 != 0)
    || (List.range 16).any (fun q => fld (w4 (112 + 4 * c + q / 4)) (16 * (q % 4) + 15) (16 * (q % 4) + 10) != 0)
    || fld (w4 (112 + 4 * c)) 31 16 != 0
    || fld (w5 0) 31 22 != 0 || w5 0 >>> 51 != 0 || w5 1 >>> 24 != 0 || (List.range 6).any (fun i => w5 (i + 2) != 0)

/-- The ports that a cell's image declares for a context (R330). -/
def Cell.imagePorts (k : Cell) (c : Nat) : SMap Port :=
  ((List.range 16).filter (fun q => q != 1)).filterMap (fun q =>
    let b := (k.word 4 (16 + 16 * c + q)).toNat
    let d := fld (k.word 4 (112 + 4 * c + q / 4)).toNat (16 * (q % 4) + 9) (16 * (q % 4))
    if b = 0 ∧ d = 0 then none else some (q, { bind := BitVec.ofNat 24 b, depth := d }))

/-- The rings that a cell's image declares for a context (R330). -/
def Cell.imageRings (k : Cell) (c : Nat) : SMap Ring :=
  (List.range 8).filterMap (fun r =>
    let w := (k.word 4 (80 + 8 * c + r)).toNat
    if bit w 0 then some (r, { declared := true, fed := bit w 1, sz := fld w 5 2, n := fld w 17 6 + 1, base := fld w 39 18 }) else none)

/-- The constants of a context: image defaults, overlay, then the tile record (R15, R213, R214). -/
def Cell.constants (k : Cell) (c : Nat) (l : Launch) (t : Inst) : SMap Word :=
  let base := (k.cfg.filter (fun e => decide (3 * 2 ^ 24 + 256 * c ≤ e.1) && decide (e.1 < 3 * 2 ^ 24 + 256 * c + 256))).map
    (fun e => (e.1 - (3 * 2 ^ 24 + 256 * c), e.2))
  let m : SMap Word := l.ovl.foldl (fun m e => m.set e.1 e.2) base
  if t.tiled then (m.set 254 t.w0).set 255 t.w1 else m

/-- What a context's declaration and its launch give its unit (R330, R395). (DEDUCED, log 48) -/
def Cell.unitInfo (k : Cell) (c : Nat) (l : Launch) (p : Page) (u : Nat) : UnitInfo :=
  let w := (k.word 5 (8 * c)).toNat
  let a := (k.word 5 (8 * c + 1)).toNat
  { sdie := p.sdie, lkey := p.lkey, inst := p.inst, page := p.key, launch := l.id, unit := BitVec.ofNat 32 u,
    nunit := BitVec.ofNat 32 l.nunit, pageOrd := BitVec.ofNat 32 (p.copy * l.npage + p.ord), domain := l.domain, rlvl := l.rlvl,
    sys := l.sys, seof := l.seof, ts0 := l.ts0, nacc := fld w 4 1, amap := tab 8 (fun i => fld a (3 * i + 2) (3 * i)),
    island := bit w 5, hrecv := bit w 6, trapw := if bit w 7 then some (fld w 21 8) else none, gbase := fld w 47 32,
    bad := k.reservedBits c }

/-- Starts a unit in a context (R13, R241). (DEDUCED, log 47) -/
def State.startUnit (s : State) (l : Launch) (p : Page) (t : Inst) (x : CtxId) (u : Nat) : State :=
  let k := s.cell x.ck
  let info := k.unitInfo x.ctx l p u
  let start := (k.gram info.gbase).start
  let ports := k.imagePorts x.ctx
  let q0 : Port := ports.getD 0 {}
  let c : Ctx :=
    { life := .live
      info := info
      arch := { sym := some start, asid := BitVec.ofNat 16 l.asid, prio := BitVec.ofNat 3 (l.prioSet.getD l.level) }
      ports := if l.seof then ports.set 0 { q0 with fifo := [eofBeat] } else ports
      rings := k.imageRings x.ctx
      c := k.constants x.ctx l t }
  let s := (s.setCtx x c).modCell x.ck (fun k =>
    { k with arb := { k.arb with wait := modIdx (fun _ => 0) k.arb.wait x.ctx }
             undo := { k.undo with wait := modIdx (fun _ => 0) k.undo.wait x.ctx }
             island := if info.island then { holder := some x.ctx, stores := k.island.stores } else k.island })
  s.openRound x l.ts0 none

/-- Starts the units of a page (R241, R313). -/
def State.startPage (s : State) (l : Launch) (p : Page) : State :=
  let t := (l.insts[p.inst]?).getD {}
  let s := (l.units p.copy p.ord).foldl (fun s e =>
    s.startUnit l p t { die := p.die, cell := p.cells.getD e.2.1 0, ctx := e.2.2 } e.1) s
  { s with pages := s.pages.map (fun g => if g.key == p.key then { g with loading := false, started := true } else g) }

/-! ### Placed pages -/

/-- Changes the page with a key. -/
def State.modPage (s : State) (key : Nat) (f : Page → Page) : State :=
  { s with pages := s.pages.map (fun p => if p.key == key then f p else p) }

/-- Takes a page off its cells. -/
def State.dropPage (s : State) (p : Page) : State :=
  State.retireAll { s with
    pages := s.pages.filter (fun g => g.key != p.key)
    cells := s.cells.map (fun e => if (e.2.page.map (fun g => g.1)) == some p.key then (e.1, { e.2 with page := none }) else e) }
    (p.cells.map (fun c => cellKey p.die c))

/-- Gives up a page that is being loaded: the cells that it has begun to write are cleared. (DEDUCED, log 46) -/
def State.giveUp (s : State) (p : Page) : State := (if p.skip || p.done == 0 then s else s.clearCells p).dropPage p

/-- Puts a page on a window. -/
def State.putPage (s : State) (p : Page) (w : Site) : State :=
  let p := { p with cells := w.cells, shadow := w.shadow, window := w.num }
  let s := { s with pages := s.pages ++ [p] }
  (w.cells.zip (List.range 16)).foldl (fun s e => s.modCell (cellKey p.die e.1) (fun k => { k with page := some (p.key, e.2) })) s

/-- A page whose units have all ended, or that held none and whose launch is over, stands on its cells no more. -/
def State.sweepPages (s : State) : State :=
  (s.pages.filter (fun p =>
    !p.loading && p.freeze != .wave && p.cells.all (fun c => !(s.cell (cellKey p.die c)).busy)
      && ((s.launch? p.sdie p.lkey).map (fun l => l.ended || !(l.units p.copy p.ord).isEmpty)).getD true)).foldl State.dropPage s

/-! ### Ending what has not started (R321, R322, R333) -/

/-- The scheduler's numbers for its jobs: a launch, a node, a graph. -/
def launchJob (key : Nat) : Nat := 4 * key + 1
def nodeJob (gk i : Nat) : Nat := 4 * (gk * 1024 + i) + 2
def graphJob (gk : Nat) : Nat := 4 * gk + 3

/-- Counts every unit of a launch that has not started: pages not placed, pages being loaded, frozen pages that never started. The launch
places nothing more. -/
def State.endWaiting (s : State) (die key : Nat) (e : Ending) (cause finfo : Nat) : State :=
  match s.launch? die key with
  | none => s
  | some l =>
    let mine (p : Page) : Bool := p.sdie == die && p.lkey == key
    let load := s.pages.filter (fun p => p.loading && !p.thaw && mine p)
    let gone := ((s.frozen.filter (fun f => f.st != 0 && mine f.page)).map (fun f => f.page)) ++ load.filter (fun p => p.again)
    let s := load.foldl State.giveUp s
    let counts := (List.range l.insts.length).filterMap (fun i =>
      if i < l.inst then none else some (i, if i = l.inst then l.rest else l.nunit))
    let s := { s with frozen := s.frozen.filter (fun f => !(f.st != 0 && mine f.page)) }
    let s := s.modLaunch die key (fun l => { l with inst := l.insts.length, copy := 0, page := 0 })
    let s := counts.foldl (fun s c => s.countUnits die key c.1 c.2 e cause 0xFFFFFFFF finfo) s
    gone.foldl (fun s p => s.countUnits die key p.inst (l.units p.copy p.ord).length e cause 0xFFFFFFFF finfo) s

end Sys2Proof.Machine
end

