-- ==== Sys2Proof/Machine/Scheduler.lean ====
section
/-!
DEFINITION. The schedulers (R306 to R322): admission of launches and graphs, records opened, cancels, ready entries and their dispatch,
replies of nodes, the pool's grants and faults. `s.die` names the scheduler whose command runs.
-/

namespace Sys2Proof.Machine

/-- The home of a completion record: a valid KIND 3 word that names 32 bytes (R216). -/
def recordOf (w : Nat) : Option Nat :=
  match addrWord w with
  | some (.die d off) => if off + 32 ≤ 2 ^ 24 then some (dieKey d off) else none
  | _ => none

/-- Writes a whole record (R216). -/
def State.putRecord (s : State) (rec expect : Nat) (level status : Nat) (f : First) : State :=
  s.write rec (toBytes 4 expect ++ toBytes 12 0 ++ toBytes 1 f.cause ++ toBytes 1 level ++ toBytes 1 status ++ toBytes 1 0
    ++ toBytes 4 f.funit ++ toBytes 8 f.finfo)

/-- Changes the open phases and jobs of a record. -/
def State.modOpened (s : State) (rec : Nat) (f : Opened → Opened) : State :=
  { s with scheds := s.scheds.map (fun (e : Nat × Sched) =>
      (e.1, { e.2 with opened := e.2.opened.map (fun (o : Opened) => if o.crec == rec then f o else o) })) }

/-- No unit or child is named. -/
def noUnit : Nat := 0xFFFFFFFF

/-! ### Faults of a scheduler's reads (R213, R350) -/

/-- The fatal fault of a job. -/
def Sched.fatalOf (d : Sched) (job : Nat) : Option FaultWait := (d.fatal.find? (fun e => e.1 == job)).map (fun e => e.2)

/-- Forgets the fatal fault of a job. -/
def State.clearFatal (s : State) (die job : Nat) : State :=
  s.modSched die (fun d => { d with fatal := d.fatal.filter (fun e => e.1 != job) })

/-- A read of a scheduler's job faults: it waits for the fault, which is fatal at once when there is no handler. -/
def State.schedFault (s : State) (die job asid va kind level : Nat) : State :=
  let f : FaultWait := { party := .sched die job, asid := asid, va := va, kind := kind, level := level }
  match s.faultBy f with
  | (s, true) => s.modSched die (fun d => { d with fatal := d.fatal ++ [(job, f)] })
  | (s, false) => s

/-! ### Launches (R213, R214, R262, R314) -/

/-- What is to be admitted: the descriptor's word, the ASID, the sender's privilege, the entries, the launch whose unit sent it, and for a
node its graph, its level, its age and its graph's arrival. -/
structure Admit where
  word : Nat := 0
  asid : Nat := 0
  priv : Bool := false
  reserve : Nat := 0
  lg : Option LGrant := none
  issuer : Option (Nat × Nat) := none
  node : Option (Nat × Nat) := none
  level : Option Nat := none
  since : Nat := 0
  rank : Option Nat := none
  deriving DecidableEq, Repr, Inhabited

/-- How an admission ends: it waits for a fault, the launch is admitted, or it has failed whole with a status and an address. -/
inductive Admitted where
  | wait
  | ok
  | failed (status faddr : Nat)
  deriving DecidableEq, Repr, Inhabited

/-- A launch fails whole (R213): its record when it has one, its entries, its parent. -/
def State.failWhole (s : State) (die : Nat) (a : Admit) (rec : Option Nat) (parent : Nat) (f : First) : State :=
  let s := match rec with
    | some r => s.putRecord r 0 1 2 f
    | none => s
  match a.node with
  | some (gk, i) => s.nodeEnd die gk i .failed (some { f with funit := i })
  | none =>
    let adm := s.serial
    let d := s.sched die
    let g := a.lg.getD {}
    let l : Launch := { key := d.keys + 1, id := BitVec.ofNat 32 g.id, crec := rec.getD 0, parent := parent, adm := adm, ended := true }
    let s := { s.setSched die { d with keys := d.keys + 1, launches := d.launches ++ [l] } with serial := s.serial + 1 }
    let s := s.giveBack die (some (g.ldie, g.lkey)) g.res (g.res + g.pool)
    match recordOf parent with
    | none => s
    | some p => s.rollUp p .failed 1 (some { f with funit := if rec.isSome then s.childIndex p adm else noUnit })

/-- The overlay entries, or the lowest offending bit of the first bad one (R213). -/
def overlayOf : List Nat → Nat → Except Nat (List (Nat × Word))
  | [], _ => .ok []
  | e :: r, i =>
    match lowBit 56 8 (fld e 63 8) with
    | some b => .error (128 * i + b)
    | none =>
      match overlayOf r (i + 1) with
      | .ok l => .ok ((e % 2 ^ 8, BitVec.ofNat 64 (e / 2 ^ 64)) :: l)
      | .error b => .error b

/-- The lowest offending bit of a descriptor, given what its tables and image answered (R213). (DEDUCED, log 39) -/
def descFlaw (d : Nat) (priv : Bool) (img ovl trec : Bool) (hands : Bool) : Option Nat :=
  let parent := fld d 511 448
  let nunit := fld d 95 64
  let tests : List (Bool × Nat) :=
    [(!img, 0), (nunit == 0 || decide (65536 < nunit), 64), (fld d 117 115 == 0, 115), (bit d 119 && !priv, 119), (bit d 120 && hands, 120),
     (fld d 127 121 != 0, 121), (decide (256 < fld d 175 160), 160), (fld d 191 176 != 0, 176), (!ovl, 192),
     (fld d 287 256 != 0 && !bit d 118, 256), (fld d 319 288 != 0, 288), (!trec, 320), ((recordOf (fld d 447 384)).isNone, 384),
     (parent != 0 && (recordOf parent).isNone, 448)]
  (tests.find? (fun t => t.1)).map (fun t => t.2)

/-- The runnable instances of a tile-record table (R214). -/
def tileInsts (nunit : Nat) : List Nat → Nat → List Inst
  | [], _ => []
  | t :: r, i =>
    let rows := fld t 71 64
    if rows = 0 ∨ 32 < rows ∨ t / 2 ^ 72 ≠ 0 then tileInsts nunit r (i + 1)
    else { rc := i, w0 := BitVec.ofNat 64 t, w1 := BitVec.ofNat 64 (t / 2 ^ 64), tiled := true, left := nunit } :: tileInsts nunit r (i + 1)

/-- Counts the records that start nothing, in record order: done, or failed when they are bad (R214, R314 step 6). -/
def State.tileCounts (rec : Nat) : List Nat → Nat → State → State
  | [], _, s => s
  | t :: r, i, s =>
    let s := if 32 < fld t 71 64 ∨ t / 2 ^ 72 ≠ 0 then s.raise rec .failed 1 (some { cause := 1, funit := i, finfo := i })
      else if fld t 71 64 = 0 then s.raise rec .done 1 none else s
    State.tileCounts rec r (i + 1) s

/-- Admits a launch whose descriptor, image, overlay and records have been read and checked (R314): its record, its units, and its entries,
which a LAUNCH and a node hold already. (DESIGN CHOICE, log 6) -/
def State.enter (s : State) (die : Nat) (a : Admit) (d : Nat) (img : Image) (ovl : List (Nat × Word)) (recs : List Nat) (rec : Nat) : State :=
  let tiled := bit d 118
  let nunit := fld d 95 64
  let k := s.sched die
  let insts := if tiled then tileInsts nunit recs 0 else [{ left := nunit }]
  let l : Launch :=
    { key := k.keys + 1, id := BitVec.ofNat 32 ((a.lg.map (fun g => g.id)).getD (launchId die k.ids)), asid := a.asid, image := fld d 63 0, nunit := nunit,
      domain := BitVec.ofNat 16 (fld d 111 96), rlvl := fld d 117 115, sys := bit d 119, seof := bit d 120,
      ts0 := BitVec.ofNat 32 (fld d 159 128), ovl := ovl, crec := rec, parent := fld d 511 448, level := a.level.getD (fld d 114 112),
      since := a.since, adm := s.serial, rank := a.rank.getD s.serial, reserve := a.reserve, fromRes := (a.lg.map (fun g => g.res)).getD 0,
      issuer := a.issuer, node := a.node, npage := img.npage, slots := img.slots,
      insts := insts, noted := recs.any (fun t => decide (32 < fld t 71 64) || t / 2 ^ 72 != 0) }
  let s := s.putRecord rec (if tiled then recs.length else nunit) 1 0 {}
  let s := { s.setSched die { k with keys := k.keys + 1, ids := if a.lg.isSome then k.ids else k.ids + 1, launches := k.launches ++ [l],
                                     pool := if a.lg.isSome || a.node.isSome then k.pool else k.pool - (1 + a.reserve),
                                     progress := s.clk.toNat } with serial := s.serial + 1 }
  State.settleUp chain (State.tileCounts rec (if tiled then recs else []) 0 s) rec

/-- Reads and checks what a descriptor names, then admits the launch or fails it whole (R213, R262, R314). -/
def State.admitFrom (s : State) (die job : Nat) (a : Admit) (d : Nat) : State × Admitted :=
  let rec' := recordOf (fld d 447 384)
  let parent := fld d 511 448
  let novl := fld d 175 160
  let nrec := fld d 287 256
  let wait (s : State) (va kind level : Nat) : State × Admitted := (s.schedFault die job a.asid va kind level, .wait)
  let fail (s : State) (f : First) : State × Admitted := (s.failWhole die a rec' parent f, .failed 2 0)
  match s.readImage die job a.asid (fld d 63 0) with
  | (s, .fault va k l) => wait s va k l
  | (s, img) =>
    match (if novl = 0 ∨ 256 < novl then (s, Found.ok []) else s.readTable die job a.asid (fld d 255 192) 0 16 novl) with
    | (s, .fault va k l) => wait s va k l
    | (s, ovl) =>
      match (if bit d 118 then s.readTable die job a.asid (fld d 383 320) 0 16 nrec else (s, Found.ok [])) with
      | (s, .fault va k l) => wait s va k l
      | (s, trec) =>
        let image : Option Image := match img with
          | .ok i => if i.slots.isEmpty then none else some i
          | _ => none
        let good (x : Found (List Nat)) : Option (List Nat) := match x with
          | .ok l => some l
          | _ => none
        match descFlaw d a.priv image.isSome (good ovl).isSome (good trec).isSome ((image.map Image.hands).getD false) with
        | some b => fail s { cause := if b = 119 ∧ rec'.isSome then 0x0C else 1, funit := noUnit, finfo := b }
        | none =>
          match overlayOf ((good ovl).getD []) 0, image, rec' with
          | .error b, _, _ => fail s { cause := 1, funit := 0xFFFFFFFE, finfo := b }
          | .ok o, some i, some r =>
            let dom : BitVec 16 := BitVec.ofNat 16 (fld d 111 96)
            let ts0 := fld d 159 128
            if dom ≠ 0 ∧ ts0 < (s.horizon dom).toNat then
              fail s { cause := 5, funit := noUnit, finfo := ts0 + (s.horizon dom).toNat * 2 ^ 32 }
            else (s.enter die a d i o ((good trec).getD []) r, .ok)
          | _, _, _ => fail s { cause := 1, funit := noUnit, finfo := 0 }

/-- Admission of a launch: the descriptor is read first; a fatal fault of any of its reads fails it whole (R213). -/
def State.admitting (s : State) (die job : Nat) (a : Admit) : State × Admitted :=
  let none' (s : State) (f : First) (st fa : Nat) : State × Admitted := (s.failWhole die a none 0 f, .failed st fa)
  match (if tableWord a.word 64 then s.schedRead die job a.asid a.word 0 64 else (s, .bad)), (s.sched die).fatalOf job with
  | (s, .ok bs), some f =>
    let d := ofBytes bs
    (s.clearFatal die job |>.failWhole die a (recordOf (fld d 447 384)) (fld d 511 448)
      { cause := 6, funit := noUnit, finfo := (xlateInfo f).toNat }, .failed 4 f.va)
  | (s, _), some f => none' (s.clearFatal die job) { cause := 6, funit := noUnit, finfo := (xlateInfo f).toNat } 4 f.va
  | (s, .ok bs), none => s.admitFrom die job a (ofBytes bs)
  | (s, .bad), none => none' s { cause := 1, funit := noUnit } 2 0
  | (s, .fault va k l), none => (s.schedFault die job a.asid va k l, .wait)

/-! ### Commands at the head of a scheduler's queue (R309) -/

/-- Changes the command at the head of a scheduler's queue. -/
def State.modSchedHead (s : State) (die : Nat) (f : Cmd → Cmd) : State :=
  (s.modSched die (fun d => { d with queue := modIdx f d.queue 0 })).clearFatal die 0

/-- The command at the head has had its effect: its completion word and reply follow (R309). -/
def State.answer (s : State) (die status faddr : Nat) : State :=
  s.modSchedHead die (fun c => { c with phase := 5, status := status, faddr := faddr })

/-- Drops the command at the head. -/
def State.dropHead (s : State) (die : Nat) : State := s.modSched die (fun d => { d with queue := d.queue.drop 1 })

/-- Runs a command at the head of the queue of `s.die`: its effect, then its completion word, then its reply (R176, R309). -/
def State.atHead (s : State) (m : Msg) (body : State → Nat → Cmd → State) : Host.Outcome State Fault Refusal :=
  let die := s.die
  match (s.sched die).queue.head? with
  | none => .next s
  | some c =>
    if c.m ≠ m ∨ s.faulting (.sched die 0) then .next s
    else if c.phase = 0 then
      .next (if c.cw && !memWord (c.op 64 64) then
          (match c.lg with
            | some g => s.giveBack die (some (g.ldie, g.lkey)) g.res (g.res + g.pool)
            | none => s).answer die 2 0
        else body s die c)
    else
      match s.closeCmd (.sched die 0) (schedBox die) (((s.sched die).fatalOf 0).map (fun f => f.va)) c (fun s f => s.modSchedHead die f) with
      | (s, true) => .next (s.dropHead die)
      | (s, false) => .next s

/-- SLAUNCH: the launch is admitted or fails whole (R213, R309, R314). -/
def execSlaunch (m : Msg) (s : State) : Host.Outcome State Fault Refusal :=
  s.atHead m (fun s die c =>
    let a : Admit := { word := c.op 256 64, asid := c.asid, priv := c.priv, reserve := c.op 320 12, lg := c.lg, issuer := c.launch,
                       since := s.clk.toNat }
    match s.admitting die 0 a with
    | (s, .wait) => s
    | (s, .ok) => s.answer die 0 0
    | (s, .failed st fa) => s.answer die st fa)

/-- Whether the bytes at a record's home are those of a record whose STATUS is 0: a level of R216 and STATUS 0. (DEDUCED, log 44) -/
def State.openRecord (s : State) (rec : Nat) : Bool :=
  decide (1 ≤ s.recLevel rec) && decide (s.recLevel rec ≤ 4) && s.recStatus rec == 0

/-- SOPEN writes the record of a phase or job (R310). (DEDUCED, log 44) -/
def execSopen (m : Msg) (s : State) : Host.Outcome State Fault Refusal :=
  s.atHead m (fun s die c =>
    let parent := c.op 384 64
    match recordOf (c.op 256 64) with
    | none => s.answer die 2 0
    | some r =>
      if s.openRecord r || (parent != 0 && (recordOf parent).isNone) then s.answer die 2 0
      else
        let o : Opened := { crec := r, level := c.op 320 3, parent := parent, adm := s.serial }
        let s := s.putRecord r (c.op 352 32) o.level 0 {}
        let s := { s.modOpened r (fun q => { q with crec := 0 }) with serial := s.serial + 1 }
        (s.modSched die (fun d => { d with opened := d.opened ++ [o] })).answer die 0 0)

/-! ### Graphs (R316 to R320) -/

/-- The open phase that a record's home names. -/
def State.phaseAt (s : State) (rec : Nat) : Option Opened :=
  ((s.scheds.flatMap (fun e => e.2.opened)).find? (fun o => o.crec == rec && o.level == 3))

/-- SGRAPH: the graph is taken, to be admitted at its turn (R309, R317, R320). -/
def execSgraph (m : Msg) (s : State) : Host.Outcome State Fault Refusal :=
  s.atHead m (fun s die c =>
    let phase := c.op 384 64
    let take (s : State) (r : Nat) : State :=
      let d := s.sched die
      let g : Graph := { key := d.keys + 1, asid := c.asid, crec := r, phase := phase, priv := c.priv, adm := s.serial, cmd := c }
      { (s.setSched die { d with keys := d.keys + 1, graphs := d.graphs ++ [g] }).dropHead die with serial := s.serial + 1 }
    match recordOf (c.op 320 64) with
    | none => s.answer die 2 0
    | some r =>
      if tableWord (c.op 256 64) 128 = false then s.answer die 2 0
      else if phase = 0 then take s r
      else
        match (recordOf phase).bind s.phaseAt with
        | none => s.answer die 2 0
        | some o =>
          if s.recStatus o.crec ≠ 0 ∨ s.num o.crec 4 ≤ o.graphs then s.answer die 2 0
          else
            let s := s.modOpened o.crec (fun q => { q with graphs := q.graphs + 1 })
            take s r)

/-- RANGE n of a node: its address word, length and W (R316). -/
def rangeOf (d n : Nat) : Nat × Nat × Bool := (fld d (319 + 128 * n) (256 + 128 * n), fld d (351 + 128 * n) (320 + 128 * n), bit d (352 + 128 * n))

/-- Whether two ranges overlap, one of them written (R318). -/
def rangesMeet (x y : Nat × Nat × Bool) : Bool :=
  x.2.1 != 0 && y.2.1 != 0 && fld x.1 53 49 == fld y.1 53 49 && decide (fld x.1 48 0 < fld y.1 48 0 + y.2.1)
    && decide (fld y.1 48 0 < fld x.1 48 0 + x.2.1) && (x.2.2 || y.2.2)

/-- The lowest offending bit of node i (R316, R317). (DEDUCED, log 39 and 40) -/
def nodeFlaw (d i : Nat) : Option Nat :=
  let k := fld d 7 0
  let target := fld d 47 32
  let ncmd := fld d 30 24
  let targetOk : Bool := if k = 3 then
      (fld target 15 12 == 2 && fld target 9 5 == 0 && decide (fld target 4 3 < 3)) || target == 0x6000
    else fld target 15 12 == 1 && fld target 9 2 == 0
  -- a field that must be zero, with its lowest bit that is not
  let zero (lo n : Nat) : Bool × Nat := match lowBit n lo (fld d (lo + n - 1) lo) with
    | some b => (true, b)
    | none => (false, lo)
  let pays : Bool := k == 1 || memWord (fld d 127 64)
  let preds : List (Bool × Nat) := tab 4 (fun j =>
    let p := fld d (143 + 16 * j) (128 + 16 * j)
    (p != 0xFFFF && decide (i ≤ p), 128 + 16 * j))
  let ranges : List (Bool × Nat) := (List.range 4).flatMap (fun j =>
    [((addrWord (rangeOf d j).1).isNone, 256 + 128 * j), zero (353 + 128 * j) 31])
  let tests : List (Bool × Nat) :=
    [(k == 0 || decide (4 < k), 0), (bit d 11, 11), (if k = 1 then (false, 0) else zero 12 12),
     (if k = 3 then (ncmd == 0 || decide (64 < ncmd), 24) else zero 24 7), (bit d 31, 31),
     (if k = 3 ∨ k = 4 then (!targetOk, 32) else zero 32 16), zero 48 16, (!pays, 64)]
      ++ preds ++ [zero 192 64] ++ ranges ++ [zero 768 256]
  (tests.find? (fun t => t.1)).map (fun t => t.2)

/-- What the check of a graph table finds: nothing wrong, a fault, or a failure at a node and bit (R317). -/
inductive Checked where
  | ok
  | fault (va kind level : Nat)
  | bad (node b : Nat)

/-- The lower of two offending bits. (DEDUCED, log 40) -/
def lowest (a b : Option Nat) : Option Nat :=
  match a, b with
  | some x, some y => some (min x y)
  | some x, none => some x
  | none, y => y

/-- Checks the nodes of a table in order; the payload of a kind-2 node is read for its SRCBOX (R317). `sum` is what nodes before hold; a sum that is
too high offends in RESERVE. (DEDUCED, log 40) -/
def State.checkNodes (die job asid : Nat) : List Nat → Nat → Nat → State → State × Checked
  | [], _, _, s => (s, .ok)
  | d :: r, i, sum, s =>
    let sum := sum + 1 + fld d 23 12
    let flaw := lowest (nodeFlaw d i) (if 4096 < sum then some 12 else none)
    let looks : Bool := fld d 7 0 == 2 && ((flaw.map (fun b => decide (64 < b))).getD true)
    match (if looks then s.schedRead die job asid (fld d 127 64) 0 64 else (s, Found.ok [])) with
    | (s, .fault va k l) => (s, .fault va k l)
    | (s, x) =>
      let src : Option Nat := match x with
        | .ok bs => if looks && fld (ofBytes bs) 351 336 == 0xFFFF then some 64 else none
        | _ => some 64
      match lowest src flaw with
      | some b => (s, .bad i b)
      | none => State.checkNodes die job asid r (i + 1) sum s

/-- The nodes of a table with their predecessors: those named, and every earlier node whose ranges meet (R318). -/
def nodesOf (tbl : List Nat) : List Node :=
  (tbl.zip (List.range tbl.length)).map (fun e =>
    let d := e.1
    let named := (tab 4 (fun j => fld d (143 + 16 * j) (128 + 16 * j))).filter (fun p => p != 0xFFFF)
    let met := (List.range e.2).filter (fun i =>
      (List.range 4).any (fun a => (List.range 4).any (fun b => rangesMeet (rangeOf (tbl.getD i 0) a) (rangeOf d b))))
    { kind := fld d 7 0, level := fld d 10 8, reserve := fld d 23 12, ncmd := if fld d 7 0 = 3 then fld d 30 24 else 1,
      target := fld d 47 32, payload := fld d 127 64, preds := named ++ met })

/-- Whether every graph submitted earlier to a graph's phase has completed, and whether one of them failed or was cancelled (R320). -/
def State.earlier (s : State) (g : Graph) : Bool × Bool :=
  match recordOf g.phase with
  | none => (true, false)
  | some p =>
    let before := (s.scheds.flatMap (fun e => e.2.graphs)).filter (fun q =>
      recordOf q.phase == some p && decide (q.adm < g.adm) && decide (s.madeAt p ≤ q.adm))
    (before.all (fun q => q.ended), before.any (fun q => q.ended && q.how != 1))

/-- Counts a graph of a phase without admission: cancelled (R320, R322). -/
def State.graphLost (s : State) (die : Nat) (g : Graph) : State :=
  let s := s.modGraph die g.key (fun g => { g with ended := true, how := 3, pwait := false, cmd := { g.cmd with phase := 7 } })
  match recordOf g.phase with
  | some p => (s.progress die).rollUp p .cancelled 1 none
  | none => s

/-- A graph fails whole (R317): its record, its phase, its SGRAPH's completion. (DEDUCED, log 40) -/
def State.graphFails (s : State) (die : Nat) (g : Graph) (f : First) (status faddr : Nat) : State :=
  let s := s.putRecord g.crec 0 2 2 f
  let s := s.modGraph die g.key (fun g =>
    { g with ended := true, how := 2, pwait := false, cmd := { g.cmd with phase := 5, status := status, faddr := faddr } })
  match recordOf g.phase with
  | some p => (s.progress die).rollUp p .failed 1 (some { f with funit := s.childIndex p g.adm })
  | none => s

/-- Every node of a graph is admitted at once (R317, R319). -/
def State.graphEnters (s : State) (die : Nat) (g : Graph) (tbl : List Nat) (total : Nat) : State :=
  let s := s.putRecord g.crec tbl.length 2 0 {}
  let g1 := { g with nodes := nodesOf tbl, admitted := true, pwait := false, cmd := { g.cmd with phase := 5, status := 0 } }
  let (g2, _, _) := Graph.sweep s.clk.toNat g1.nodes.length 0 g1 (0, 0)
  ((s.modGraph die g.key (fun _ => g2)).modSched die (fun d => { d with pool := d.pool - total })).progress die

/-- Reads, checks and admits a graph at its turn (R317, R320). -/
def State.graphTurn (s : State) (die : Nat) (g : Graph) : State :=
  let job := graphJob g.key
  let fault (s : State) (va k l : Nat) : State := s.schedFault die job g.asid va k l
  match (s.sched die).fatalOf job with
  | some f => (s.clearFatal die job).graphFails die g { cause := 6, funit := noUnit, finfo := (xlateInfo f).toNat } 4 f.va
  | none =>
    match s.readTable die job g.asid (g.cmd.op 256 64) 0 128 (g.cmd.op 448 10 + 1) with
    | (s, .fault va k l) => fault s va k l
    | (s, .bad) => s.graphFails die g { cause := 1, funit := noUnit } 2 0
    | (s, .ok tbl) =>
      match State.checkNodes die job g.asid tbl 0 0 s with
      | (s, .fault va k l) => fault s va k l
      | (s, .bad i b) => s.graphFails die g { cause := 1, funit := i, finfo := b } 2 0
      | (s, .ok) =>
        let total := (tbl.map (fun d => 1 + fld d 23 12)).foldl (· + ·) 0
        let d := s.sched die
        if d.room < total ∨ !d.waits.isEmpty ∨ d.graphs.any (fun q => q.pwait && decide (q.adm < g.adm)) then s.modGraph die g.key (fun g => { g with pwait := true })
        else s.graphEnters die g tbl total

/-- GRAPH_ADMISSION: a graph at its turn is admitted, fails, or is counted cancelled; then its SGRAPH completes (R309, R317, R320). (DEDUCED, log 38) -/
def execGraphAdmission (die k : Nat) (s : State) : Host.Outcome State Fault Refusal :=
  match (s.sched die).graphs[k]? with
  | none => .next s
  | some g =>
    if s.faulting (.sched die (graphJob g.key)) then .next s
    else if g.cmd.phase = 5 ∨ g.cmd.phase = 6 then
      let upd (s : State) (f : Cmd → Cmd) : State := s.modGraph die g.key (fun g => { g with cmd := f g.cmd })
      match s.closeCmd (.sched die (graphJob g.key)) (schedBox die) (((s.sched die).fatalOf (graphJob g.key)).map (fun f => f.va)) g.cmd upd with
      | (s, true) => .next (upd s (fun c => { c with phase := 7 }))
      | (s, false) => .next (if ((s.sched die).fatalOf (graphJob g.key)).isSome then s.clearFatal die (graphJob g.key) else s)
    else if g.ended || g.admitted then .next s
    else
      match s.earlier g with
      | (_, true) => .next (s.graphLost die g)
      | (false, false) => .next s
      | (true, false) => .next (s.graphTurn die g)

/-! ### Ready entries (R312, R313) -/

/-- An entry's rank: whether its dispatch has begun, its level, its age, its node index, its arrival. -/
structure Rank where
  begun : Bool := false
  level : Nat := 0
  since : Nat := 0
  idx : Nat := 0
  adm : Nat := 0
  deriving DecidableEq, Repr, Inhabited

/-- Whether an entry goes before another (R312, R313). (DEDUCED, log 42) -/
def Rank.before (a b : Rank) : Bool :=
  if a.begun != b.begun then a.begun
  else if a.level != b.level then decide (b.level < a.level)
  else if a.since != b.since then decide (a.since < b.since)
  else if a.idx != b.idx then decide (a.idx < b.idx)
  else decide (a.adm < b.adm)

/-- The highest-ranked entry of a list. (DEDUCED, log 42) -/
def topEntry : List (Rank × Ready) → Option (Rank × Ready)
  | [] => none
  | x :: r =>
    match topEntry r with
    | none => some x
    | some y => if y.1.before x.1 then some y else some x

/-- The top entry of the cells class finds no window; the clocks count from the first time that it did (R335). -/
def State.stuckAt (s : State) (die : Nat) (e : Ready) : State :=
  s.modSched die (fun d => { d with blocked := match d.blocked with
    | some (r, t) => if r == e then some (r, t) else some (e, s.clk.toNat)
    | none => some (e, s.clk.toNat) })

/-- The nodes of a die that a test picks, as entries. -/
def State.nodeEntries (s : State) (die : Nat) (p : Node → Bool) : List (Rank × Ready) :=
  ((s.sched die).graphs.filter (fun g => g.admitted && !g.ended)).flatMap (fun g =>
    (g.nodes.zip (List.range g.nodes.length)).filterMap (fun e =>
      if p e.1 then some ({ begun := e.1.st == 2, level := e.1.level, since := e.1.since, idx := e.2, adm := g.adm }, .node g.key e.2) else none))

/-- The launches of a die with pages to place, as entries. -/
def State.launchEntries (s : State) (die : Nat) : List (Rank × Ready) :=
  ((s.sched die).launches.filter (fun l => l.pending)).map (fun l =>
    ({ begun := l.prioSet.isSome, level := l.level, since := l.since, idx := (l.node.map (fun n => n.2)).getD 0, adm := l.rank }, .launch l.key))

/-- The frozen pages of a die, as entries (R341). -/
def State.frozenEntries (s : State) (die : Nat) : List (Rank × Ready) :=
  (s.frozen.filter (fun f => f.die == die && !s.pages.any (fun p => p.key == f.page.key))).map (fun f => ({ level := f.level, since := f.since, adm := f.page.adm }, .frozen f.page.key))

/-- The cells class (R313). -/
def State.cellsClass (s : State) (die : Nat) : List (Rank × Ready) :=
  s.launchEntries die ++ s.nodeEntries die (fun n => n.kind == 1 && n.st == 1) ++ s.frozenEntries die

/-- A node waits to be sent, or has messages left to send. -/
def Node.sends (n : Node) : Bool := n.kind != 1 && (n.st == 1 || (n.st == 2 && !n.msgs.isEmpty))

/-- The entries of a target class (R313). -/
def State.classOf (s : State) (die : Nat) : Target → List (Rank × Ready)
  | .cells => s.cellsClass die
  | .sampler => s.nodeEntries die (fun n => n.sends && n.kind == 2)
  | .engine box => s.nodeEntries die (fun n => n.sends && n.kind == 3 && n.target == box)
  | .core c => s.nodeEntries die (fun n => n.sends && n.kind == 4 && n.target == c)

/-- Changes a node. -/
def State.modNode (s : State) (die gk i : Nat) (f : Node → Node) : State :=
  s.modGraph die gk (fun g => { g with nodes := modIdx f g.nodes i })

/-- A first failure that the manual leaves open: a node without a record (R307, R319). (DESIGN CHOICE, log 41) -/
def State.openFirst (s : State) (i : Nat) : State × First :=
  ({ s with fresh := s.fresh + 2 }, { cause := Config.freeNat s.fresh % 2 ^ 8, funit := i, finfo := Config.freeNat (s.fresh + 1) % 2 ^ 64 })

/-- Reads the messages of a node: each names the scheduler for its reply, asks for it, and carries the graph's ASID (R164, R319). -/
def State.loadNode (s : State) (die : Nat) (g : Graph) (i : Nat) (n : Node) : State :=
  let job := nodeJob g.key i
  let fail (s : State) : State :=
    let (s, f) := s.openFirst i
    s.nodeEnd die g.key i .failed (some f)
  if ((s.sched die).fatalOf job).isSome then fail (s.clearFatal die job)
  else
    match s.readTable die job g.asid n.payload 0 64 n.ncmd with
    | (s, .fault va k l) => s.schedFault die job g.asid va k l
    | (s, .bad) => fail s
    | (s, .ok l) =>
      let send (v : Nat) : Msg := BitVec.ofNat 512 (putFld (putFld (putFld v 24 16 (schedBox die)) 11 1 1) 48 16 g.asid)
      s.modNode die g.key i (fun n => { n with loaded := true, msgs := l.map send })

/-- Sends the next message of a node, when its target accepts it (R313, R319). -/
def State.sendNode (s : State) (die : Nat) (g : Graph) (i : Nat) (n : Node) : State :=
  match n.msgs with
  | [] => s
  | m :: r =>
    let box := if n.kind = 2 then samplerBox die else n.target
    match s.deliver { src := schedBox die, priv := false, box := box, m := m, node := some (die, g.key, i) } with
    | none => s
    | some s =>
      (s.modNode die g.key i (fun n => { n with st := 2, msgs := r, outs := n.outs ++ [(box, (m.extractLsb' 0 64).toNat)] })).progress die

/-- Places the next page of a launch (R313, R331): its window is loaded next. (DEDUCED, log 46) -/
def State.placeNext (s : State) (die : Nat) (l : Launch) : State :=
  let job := launchJob l.key
  let lost (s : State) (cause finfo : Nat) : State := s.endWaiting die l.key .failed cause finfo
  match (s.sched die).fatalOf job with
  | some f => lost (s.clearFatal die job) 6 (xlateInfo f).toNat
  | none =>
    match s.readImage die job l.asid l.image with
    | (s, .fault va k lv) => s.schedFault die job l.asid va k lv
    | (s, .bad) => lost s 1 0
    | (s, .ok i) =>
      match s.windowFor die i l.page l.barred with
      | none => s.stuckAt die (.launch l.key)
      | some (w, skip) =>
        let p : Page := { key := s.serial, die := die, sdie := die, lkey := l.key, inst := l.inst, copy := l.copy, ord := l.page, sys := l.sys,
                          loading := true, skip := skip, filled := i.filled l.page, tries := l.tries, barred := l.barred, adm := l.rank }
        let s := { s with serial := s.serial + 1 }
        let s := s.modLaunch die l.key (fun l => { l with prioSet := some (l.prioSet.getD l.level) })
        ((s.putPage p w).modSched die (fun d => { d with blocked := none })).progress die

/-- Takes the top entry of the cells class: a node becomes a launch, a launch gets its next page; a frozen page waits for its RESTORE. -/
def State.dispatchCells (s : State) (die : Nat) : State :=
  let s := s.sweepPages
  match topEntry (s.cellsClass die) with
  | some (_, .node gk i) =>
    match (s.sched die).graphs.find? (fun g => g.key == gk) with
    | some g =>
      let n := (g.nodes[i]?).getD {}
      if s.faulting (.sched die (nodeJob gk i)) then s
      else
        let a : Admit := { word := n.payload, asid := g.asid, priv := g.priv, reserve := n.reserve, node := some (gk, i),
                           level := some n.level, since := n.since, rank := some g.adm }
        match s.admitting die (nodeJob gk i) a with
        | (s, .ok) => s.modNode die gk i (fun n => { n with st := max n.st 2 })
        | (s, _) => s
    | none => s
  | some (_, .launch key) =>
    match s.launch? die key with
    | some l =>
      if s.faulting (.sched die (launchJob key)) || s.pages.any (fun p => p.loading && !p.thaw && p.sdie == die && p.lkey == key) then s
      else s.placeNext die l
    | none => s
  | _ => s

/-- DISPATCH: the top entry of a class goes, if its target accepts it (R313). (DEDUCED, log 42) -/
def execDispatch (die : Nat) (cls : Target) (s : State) : Host.Outcome State Fault Refusal :=
  if (s.sched die).out then .next s
  else
    match cls with
    | .cells => .next (s.dispatchCells die)
    | cls =>
      match topEntry (s.classOf die cls) with
      | some (_, .node gk i) =>
        match (s.sched die).graphs.find? (fun g => g.key == gk) with
        | some g =>
          let n := (g.nodes[i]?).getD {}
          if s.faulting (.sched die (nodeJob gk i)) then .next s
          else if n.loaded then .next (s.sendNode die g i n) else .next (s.loadNode die g i n)
        | none => .next s
      | _ => .next s

/-- ENTRY_AGEING: 2^16 clocks ready and not dispatched raise an entry by one level, up to 7 (R312). (DEDUCED, log 42) -/
def execEntryAgeing (die k : Nat) (s : State) : Host.Outcome State Fault Refusal :=
  let all := s.launchEntries die ++ s.nodeEntries die (fun n => n.st == 1) ++ s.frozenEntries die
  match all[k]? with
  | none => .next s
  | some (r, e) =>
    if r.begun ∨ 7 ≤ r.level ∨ s.clk.toNat < r.since + 2 ^ 16 then .next s
    else
      match e with
      | .launch key => .next (s.modLaunch die key (fun l => { l with level := l.level + 1, since := s.clk.toNat }))
      | .node gk i => .next (s.modNode die gk i (fun n => { n with level := n.level + 1, since := s.clk.toNat }))
      | .frozen p => .next { s with frozen := s.frozen.map (fun f =>
          if f.page.key == p then { f with level := f.level + 1, since := s.clk.toNat } else f) }

/-! ### Replies (R319) -/

/-- A node whose messages are all sent and answered ends (R319, R322). -/
def State.nodeOver (s : State) (die gk i : Nat) : State :=
  match ((s.sched die).graphs.find? (fun g => g.key == gk)).bind (fun g => g.nodes[i]?) with
  | none => s
  | some n =>
    if n.st ≠ 2 ∨ n.kind = 1 ∨ !n.msgs.isEmpty ∨ !n.outs.isEmpty then s
    else if n.cancel then s.nodeEnd die gk i .cancelled none
    else if n.bad then
      (let (s, f) := s.openFirst i
       s.nodeEnd die gk i .failed (some f))
    else s.nodeEnd die gk i .done none

/-- Takes a reply to a scheduler: it answers a message of the node that sent it; one that answers none is dropped (R319). (DESIGN CHOICE, log 41) -/
def State.nodeReply (s : State) (k : Nat) (t : Transit) : State :=
  let s := { s with transit := dropIdx s.transit k }
  match t.node with
  | none => s
  | some (die, gk, i) =>
    let s := s.modNode die gk i (fun n => { n with outs := n.outs.drop 1, bad := n.bad || (t.m.extractLsb' 8 8 != 0) })
    s.nodeOver die gk i

/-- NODE_REPLY: a reply to a scheduler arrives, those of one sender in order (R166, R319); those of a host window have an event of their
own. (DESIGN CHOICE, log 41) -/
def execNodeReply (k : Nat) (s : State) : Host.Outcome State Fault Refusal :=
  match s.transit[k]? with
  | none => .next s
  | some t =>
    if fld t.box 15 12 ≠ 3 ∨ fld t.src 15 12 = 7 ∨ msgOpc t.m ≠ 0x7F ∨ (s.transit.take k).any (s.sameWay t) then
      .next s
    else .next (s.nodeReply k t)

/-! ### The pool (R215, R311, R321) -/

/-- The context that holds a unit: on its cell, or in a frozen image under its old id (R215, R340). -/
def State.unitAt (s : State) (x : CtxId) : Option (Ctx × Cell) :=
  match s.frozen.findSome? (fun f =>
      if f.page.die == x.die && f.st == 0 then
        f.cells.findSome? (fun k => if f.page.cells[k.idx]? == some x.cell then (k.ctxs.get? x.ctx).map (fun c => (c, ({ cfg := k.cfg } : Cell))) else none)
      else none) with
  | some r => some r
  | none => if (s.ctx x).life = .live then some (s.ctx x, s.cell x.ck) else none

/-- Replaces that context. -/
def State.setUnit (s : State) (x : CtxId) (c : Ctx) : State :=
  if s.frozen.any (fun f => f.page.die == x.die && f.st == 0 && f.cells.any (fun k => f.page.cells[k.idx]? == some x.cell && (k.ctxs.get? x.ctx).isSome)) then
    { s with frozen := s.frozen.map (fun f =>
        if f.page.die == x.die && f.st == 0 then
          { f with cells := f.cells.map (fun k =>
              if f.page.cells[k.idx]? == some x.cell && (k.ctxs.get? x.ctx).isSome then { k with ctxs := k.ctxs.set x.ctx c } else k) }
        else f) }
  else s.setCtx x c

/-- The fields of the LAUNCH that a descheduled context waits at. -/
def Ctx.waitingLaunch (c : Ctx) (k : Cell) : Option Fields :=
  match c.arch.pos with
  | .word pc _ _ =>
    match decodeWord c.info.nacc (k.action pc) with
    | .ok (.launch w) => some w
    | _ => none
  | .step => none

/-- What the reserve of a unit's launch gives to a LAUNCH that needs n entries of a die (R215, R311). -/
def State.reserveFor (s : State) (die : Nat) (c : Ctx) (n : Nat) : Nat :=
  let own := (s.launch? c.info.sdie c.info.lkey).filter (fun (l : Launch) => c.info.sdie == die && !l.ended)
  min n ((own.map (fun l => l.reserve)).getD 0)

/-- The descheduled LAUNCH that is granted next: the oldest, or, while that one is short of pool entries, the oldest that the reserve of its own
launch covers (R215, R311). One whose unit is gone goes like one that is covered. (DEDUCED, log 38) -/
def State.nextGrant (s : State) (die : Nat) : Option PoolWait :=
  let d := s.sched die
  let own (v : PoolWait) : Nat := ((s.unitAt v.x).map (fun u => s.reserveFor die u.1 v.need)).getD v.need
  match d.waits with
  | [] => none
  | v :: r => if v.need - own v ≤ d.room then some v else r.find? (fun w => w.need ≤ own w)

/-- POOL_GRANT: a descheduled LAUNCH gets its entries and is done (R215, R311). (DESIGN CHOICE, log 6) -/
def execPoolGrant (die : Nat) (s : State) : Host.Outcome State Fault Refusal :=
  match s.nextGrant die with
  | none => .next s
  | some v =>
    let drop (s : State) : State := s.modSched die (fun d => { d with waits := d.waits.erase v })
    match s.unitAt v.x with
    | none => .next (drop s)
    | some (c, k) =>
      match c.waitingLaunch k with
      | none => .next (drop s)
      | some w =>
        let d := s.sched die
        let res := s.reserveFor die c v.need
        if 1024 ≤ c.opn.used then
          -- the word issues again and traps with a full store buffer
          .next ((drop s).setUnit v.x { c with arch := c.arch.fill (.s w.d.idx.toNat) id, wait := .none })
        else
          let g : LGrant := { id := launchId die d.ids, res := res, pool := v.need - res, ldie := c.info.sdie, lkey := c.info.lkey }
          let s := drop (if res = 0 then s else s.modLaunch die c.info.lkey (fun l => { l with reserve := l.reserve - res }))
          let s := s.modSched die (fun d => { d with pool := d.pool - (v.need - res), ids := d.ids + 1, progress := s.clk.toNat })
          let m := stamp c.arch.asid (launchMsg (c.raw w w.a).toNat (c.raw w w.b).toNat)
          let c := { c with
            arch := (c.arch.ws w.d.idx.toNat (BitVec.ofNat 64 g.id)).advance
            yieldTo := if w.y then max c.yieldTo (s.clk.toNat + 2) else c.yieldTo
            opn := { c.opn with msgs := c.opn.msgs ++ [Buffered.launch g (schedBox v.x.die) m] }
            wait := .none }
          .next (s.setUnit v.x c)

/-! ### Descendants (R308) -/

/-- One step of the descent: records and launches that hang under those found. (DEDUCED, log 43) -/
def State.descend (s : State) (f : List Nat × List (Nat × Nat)) : List Nat × List (Nat × Nat) :=
  let under (w a : Nat) : Bool := match recordOf w with
    | some r => f.1.contains r && decide (s.madeAt r ≤ a)
    | none => false
  let recs := (s.scheds.flatMap (fun e => (e.2.opened.filter (fun o => under o.parent o.adm)).map (fun o => o.crec)))
    ++ (s.scheds.flatMap (fun e => (e.2.graphs.filter (fun g => under g.phase g.adm)).map (fun g => g.crec)))
  let ls := s.scheds.flatMap (fun e => (e.2.launches.filter (fun l =>
    (match l.node with
      | some (gk, _) => e.2.graphs.any (fun g => g.key == gk && f.1.contains g.crec && decide (s.madeAt g.crec ≤ g.adm))
      | none => under l.parent l.adm)
      || ((l.issuer.map (fun k => f.2.contains k)).getD false)
      || (f.1.contains l.crec && decide (s.madeAt l.crec ≤ l.adm)))).map (fun l => (e.1, l.key)))
  let more := (s.scheds.flatMap (fun e => (e.2.launches.filter (fun l => ls.contains (e.1, l.key))).map (fun l => l.crec)))
  ((f.1 ++ recs ++ more).eraseDups, (f.2 ++ ls).eraseDups)

/-- Some records and launches with every descendant. (DEDUCED, log 43) -/
def State.under (s : State) (f : List Nat × List (Nat × Nat)) : List Nat × List (Nat × Nat) :=
  let n := (s.scheds.map (fun (e : Nat × Sched) => e.2.launches.length + e.2.graphs.length + e.2.opened.length)).foldl (· + ·) 1
  Nat.repeat s.descend n f

/-- A record with every descendant: the records and the launches. (DEDUCED, log 43) -/
def State.family (s : State) (rec : Nat) : List Nat × List (Nat × Nat) := s.under ([rec], [])

/-- The record of an item, while it is still that item's. -/
def State.ownRecord (s : State) (rec adm : Nat) : List Nat := if rec = 0 ∨ adm < s.madeAt rec then [] else [rec]

/-- Every running unit of a launch: its contexts. -/
def State.unitsOf (s : State) (die key : Nat) : List CtxId :=
  (s.allCtxs.filter (fun e => e.2.life == .live && e.2.info.sdie == die && e.2.info.lkey == key)).map (fun e => e.1)

/-- Changes the contexts of a launch that stand in frozen images. -/
def State.modFrozen (s : State) (die key : Nat) (f : Ctx → Ctx) (g : Frozen → Frozen) : State :=
  { s with frozen := s.frozen.map (fun z =>
      if z.st == 0 && z.page.sdie == die && z.page.lkey == key then
        g { z with cells := z.cells.map (fun k => { k with ctxs := k.ctxs.map (fun e => (e.1, if e.2.life == .live then f e.2 else e.2)) }) }
      else z) }

/-- Cancels a launch (R322): what has not started is counted, running units stop at their next point. (DEDUCED, log 43) -/
def State.cancelLaunch (s : State) (die key : Nat) : State :=
  match s.launch? die key with
  | none => s
  | some l =>
    if l.ended then s
    else
      let s := (s.modLaunch die key (fun l => { l with cancel := true })).endWaiting die key .cancelled 0 0
      let s := (s.unitsOf die key).foldl (fun s x => s.modCtx x (fun c => { c with cancel := true })) s
      s.modFrozen die key (fun c => { c with cancel := true }) (fun z => { z with level := 7 })

/-- Cancels the batch that a node sent to the sampler (R301). -/
def State.cancelBatch (s : State) (die gk i : Nat) : State :=
  s.modSampler die (fun b =>
    let mine (c : Cmd) : Bool := c.node == some (die, gk, i)
    { b with queue := b.queue.map (fun c => if mine c then { c with cancel := true } else c)
             cancel := b.cancel || ((b.batch.map mine).getD false) })

/-- Stops the nodes of a graph that have not ended: those not dispatched are counted cancelled (R321, R322). A cancel (`flag`) drops unsent
commands too, and sent messages finish; a fault of the job lets dispatched nodes go on. -/
def State.stopNodes (die gk : Nat) (flag : Bool) : Nat → State → State
  | 0, s => s
  | n + 1, s =>
    let s := State.stopNodes die gk flag n s
    match ((s.sched die).graphs.find? (fun g => g.key == gk)).bind (fun g => g.nodes[n]?) with
    | none => s
    | some x =>
      if x.st ≤ 1 then s.nodeEnd die gk n .cancelled none
      else if x.st = 2 ∧ x.kind ≠ 1 ∧ flag then
        let s := s.modNode die gk n (fun x => { x with msgs := [], cancel := true })
        let s := if x.kind = 2 then s.cancelBatch die gk n else s
        s.nodeOver die gk n
      else s

/-- Cancels a graph (R320, R322). -/
def State.cancelGraph (s : State) (die : Nat) (g : Graph) : State :=
  if g.ended then s
  else if g.admitted then State.stopNodes die g.key true g.nodes.length s
  else s.graphLost die g

/-- SCANCEL: the record and every descendant are cancelled, unless the record is complete or of another level (R218, R322). (DEDUCED, log 43) -/
def execScancel (m : Msg) (s : State) : Host.Outcome State Fault Refusal :=
  s.atHead m (fun s die c =>
    match recordOf (c.op 256 64) with
    | none => s.answer die 2 0
    | some r =>
      if s.recLevel r ≠ c.op 320 3 ∨ s.recStatus r ≠ 0 then s.answer die 0 0
      else
        let f := s.family r
        let gs := s.scheds.flatMap (fun e => (e.2.graphs.filter (fun g => f.1.contains g.crec && !g.ended)).map (fun g => (e.1, g)))
        let s := gs.foldl (fun s e => s.cancelGraph e.1 e.2) s
        (f.2.foldl (fun s e => s.cancelLaunch e.1 e.2) s).answer die 0 0)

/-- A launch of a faulted job (R321): what has not started is counted cancelled, running units fail with POOL. -/
def State.faultLaunch (s : State) (die key : Nat) : State :=
  match s.launch? die key with
  | none => s
  | some l =>
    if l.ended then s
    else
      let s := s.endWaiting die key .cancelled 0 0
      let s := (s.unitsOf die key).foldl (fun s x => s.failUnit x 0x0B 4) s
      s.modFrozen die key (fun c => { c with poolFault := true }) id

/-- A job as R321 ranks it: the number of its opening or admission, and its record; a launch or graph with its die and key. -/
inductive Job where
  | opened (adm rec : Nat)
  | launch (die adm key rec : Nat)
  | graph (die adm key rec : Nat)
  deriving DecidableEq, Repr, Inhabited

/-- The rank of a job. -/
def Job.adm : Job → Nat
  | .opened a _ => a
  | .launch _ a _ _ => a
  | .graph _ a _ _ => a

/-- A job with every descendant: the records and the launches (R308, R321). (DEDUCED, log 45) -/
def State.jobFamily (s : State) : Job → List Nat × List (Nat × Nat)
  | .opened _ r => s.family r
  | .launch die a key r => s.under (s.ownRecord r a, [(die, key)])
  | .graph _ a _ r => s.under (s.ownRecord r a, [])

/-- Whether a launch or graph is among the descendants of another item. -/
def Job.within (j : Job) (f : List Nat × List (Nat × Nat)) : Bool :=
  match j with
  | .opened _ _ => false
  | .launch die _ key _ => f.2.contains (die, key)
  | .graph _ _ _ r => f.1.contains r

/-- The jobs of the package: open jobs, and launches and graphs with no job above them (R321). (DEDUCED, log 45) -/
def State.allJobs (s : State) : List Job :=
  let tops := (s.scheds.flatMap (fun e => e.2.opened)).filter (fun o => o.level == 4 && o.crec != 0 && s.recStatus o.crec == 0)
  let items : List Job := tops.map (fun o => .opened o.adm o.crec)
    ++ s.scheds.flatMap (fun e => (e.2.launches.filter (fun l => !l.ended)).map (fun l => .launch e.1 l.adm l.key l.crec))
    ++ s.scheds.flatMap (fun e => (e.2.graphs.filter (fun g => !g.ended)).map (fun g => .graph e.1 g.adm g.key g.crec))
  items.filter (fun j => !items.any (fun i => i != j && j.within (s.jobFamily i)))

/-- The jobs with live work on a die (R321). (DEDUCED, log 45) -/
def State.jobs (s : State) (die : Nat) : List Job :=
  let d := s.sched die
  s.allJobs.filter (fun j =>
    let f := s.jobFamily j
    d.launches.any (fun l => !l.ended && f.2.contains (die, l.key)) || d.graphs.any (fun g => !g.ended && f.1.contains g.crec))

/-- The youngest of some jobs. (DEDUCED, log 45) -/
def youngest : List Job → Option Job
  | [] => none
  | j :: r =>
    match youngest r with
    | none => some j
    | some k => if j.adm < k.adm then some k else some j

/-- Marks a job's record as faulted at once (R321). -/
def State.markFaulted (s : State) (j : Job) : State :=
  let first : First := { cause := 0x0B, funit := noUnit, finfo := 4 }
  match j with
  | .launch die _ key r => (s.modLaunch die key (fun l => { l with fault := true })).putFirst r first
  | .graph die _ key r => (s.modGraph die key (fun g => { g with fault := true })).putFirst r first
  | .opened _ r => (s.modOpened r (fun o => { o with fault := true })).putFirst r first

/-- Faults a job: its record is marked at once, then its work and that of its descendants ends (R308, R321). (DEDUCED, log 45) -/
def State.faultJob (s : State) (j : Job) : State :=
  let f := s.jobFamily j
  let s := s.markFaulted j
  let mine (e : Nat × Graph) : Bool := f.1.contains e.2.crec || (match j with
    | .graph die _ key _ => e.1 == die && e.2.key == key
    | _ => false)
  let gs := (s.scheds.flatMap (fun e => (e.2.graphs.filter (fun g => !g.ended)).map (fun g => (e.1, g)))).filter mine
  let s := gs.foldl (fun s (e : Nat × Graph) =>
    if e.2.admitted then State.stopNodes e.1 e.2.key false e.2.nodes.length s else s.graphLost e.1 e.2) s
  f.2.foldl (fun s e => s.faultLaunch e.1 e.2) s

/-- POOL_FAULT: the pool is full, a LAUNCH is descheduled, and 2^20 clocks passed without progress (R321). (DEDUCED, log 45) -/
def execPoolFault (die : Nat) (s : State) : Host.Outcome State Fault Refusal :=
  let d := s.sched die
  if d.waits.isEmpty ∨ (s.nextGrant die).isSome ∨ s.clk.toNat < d.progress + 2 ^ 20 then .next s
  else
    match youngest (s.jobs die) with
    | none => .next s
    | some j => .next ((s.faultJob j).progress die)

end Sys2Proof.Machine
end

