-- ==== Sys2Proof/Machine/Faults.lean ====
section
/-!
DEFINITION. The resolution of translation faults (R351, R352).
-/

namespace Sys2Proof.Machine

/-- Whether a waiting party can act on its slot: not a context that a freeze has stopped or taken away, nor one that a cancel is to stop
(R322, R351). -/
def State.canResolve (s : State) (f : FaultWait) : Bool :=
  match f.party with
  | .ctx x => f.gone || (f.away.isNone && (s.ctx x).life != .empty && !(s.ctx x).frozen && !(s.ctx x).cancel)
  | _ => true

/-- The party resumes: its access is made again (R351). A context that waits on another slot as well is not ready yet. -/
def State.retryFault (s : State) (f : FaultWait) : State :=
  match f.party with
  | .ctx x => if s.faulting f.party then s else s.modCtx x (fun c => { c with wait := if c.wait = .fault then .none else c.wait })
  | _ => s

/-- The fault is fatal for its party (R205, R213, R288, R351). -/
def State.fatalFault (s : State) (f : FaultWait) : State :=
  match f.party with
  | .ctx x => s.failUnit x 6 (xlateInfo f)
  | .engine box seq => s.modCmd box seq (fun c => c.untranslated f.va)
  | .sampler die job => s.modSampler die (fun b => { b with fatal := b.fatal ++ [(job, f.va)] })
  | .sched die job => s.modSched die (fun d => { d with fatal := d.fatal ++ [(job, f)] })

/-- A freed slot goes to the first party that waits for one on its die (R350). -/
def State.nextSlot (s : State) (die : Nat) : State :=
  match s.faults.find? (fun f => f.die == die && f.slot.isNone && !f.gone), s.freeSlot die with
  | some f, some i => ({ s with faults := s.faults.filter (fun g => g != f) }).takeSlot f i
  | _, _ => s

/-- FAULT_RESOLUTION: the device acts on the first nonzero RES of a slot and zeroes the slot (R351). -/
def execFaultResolution (die slot : Nat) (s : State) : Host.Outcome State Fault Refusal :=
  let k := slotKey die slot
  match s.faults.find? (fun f => f.die == die && f.slot == some slot) with
  | none => .next s
  | some f =>
    let r := if f.res = 0 then s.num k 1 % 4 else f.res
    if r = 0 ∨ 64 ≤ slot ∨ s.canResolve f = false then .next s
    else
      let s := ({ s with faults := s.faults.filter (fun g => !(g.die == die && g.slot == some slot)) }).poke k (toBytes 16 0)
      let s := if f.gone then s else if r = 1 then s.retryFault f else s.fatalFault f
      .next (s.nextSlot die)

end Sys2Proof.Machine
end

