-- ==== Sys2Proof/Machine/HostLink.lean ====
section
/-!
DEFINITION. The host link (R361 to R367): inbox windows, receive rings, BAR 2, requests to host memory, registers that the host and the
control cores write.
-/

namespace Sys2Proof.Machine

/-- A host window (R363). -/
def State.window (s : State) (n : Nat) : Window := s.host.wins.getD n {}

/-- Changes a host window. -/
def State.modWindow (s : State) (n : Nat) (f : Window → Window) : State :=
  { s with host := { s.host with wins := s.host.wins.set n (f (s.window n)) } }

/-- The inbox id of a host window (R163). -/
def windowBox (n : Nat) : Nat := 0x7000 + n

/-- EN, PRIV, TARGET, ASID, VEC and INTEN of a CTL (R363). -/
def ctlEn (c : BitVec 46) : Bool := c.getLsbD 32
def ctlPriv (c : BitVec 46) : Bool := c.getLsbD 33
def ctlTarget (c : BitVec 46) : Nat := (c.extractLsb' 0 16).toNat
def ctlAsid (c : BitVec 46) : BitVec 16 := c.extractLsb' 16 16
def ctlVec (c : BitVec 46) : Nat := (c.extractLsb' 34 11).toNat
def ctlInten (c : BitVec 46) : Bool := c.getLsbD 45

/-- The index of the message of a window that is on its way. (DEDUCED, log 51) -/
def State.windowTransit (s : State) (n : Nat) : Option Nat := firstIdx (fun t => t.src == windowBox n) s.transit 0

/-- Collects the bytes of a host write (R364). -/
def collect (off : Nat) : Nat → List Byte → Window → Window
  | _, [], w => w
  | i, b :: r, w =>
    if 64 ≤ off + i then w
    else
      let k := off + i
      collect off (i + 1) r { w with msg := BitVec.ofNat 512 (putFld w.msg.toNat (8 * k) 8 b.toNat),
                                     valid := w.valid ||| BitVec.ofNat 64 (2 ^ k) }

/-- A complete message: queued, or discarded (R364, R377). (DEDUCED, log 51) -/
def State.complete (s : State) (n : Nat) (w : Window) : State :=
  let held := w.queue.length + (if (s.windowTransit n).isSome then 1 else 0)
  let bad : Bool := !ctlEn w.ctl || decide (7 ≤ fld (ctlTarget w.ctl) 15 12) || decide (64 ≤ held) || !s.sys.started
  let w := { w with valid := 0 }
  s.modWindow n (fun _ => if bad then { w with err := w.err + 1 } else { w with queue := w.queue ++ [(stamp (ctlAsid w.ctl) w.msg, w.ctl)] })

/-- HOST_MSG_WRITE: a host write to MSG bytes (R363, R364). -/
def execHostMsgWrite (win off : Nat) (bytes : List Byte) (s : State) : Host.Outcome State Fault Refusal :=
  if 4096 ≤ win then .next s
  else
    let w := collect off 0 bytes (s.window win)
    if w.valid = BitVec.allOnes 64 then .next (s.complete win w) else .next (s.modWindow win (fun _ => w))

/-- WINDOW_HANDOVER: the oldest message of a window sets out for TARGET, then is handed over there and SENT rises (R166, R364). A reply that
a host sends to a scheduler answers no node's message and is dropped there (R319). (DESIGN CHOICE, log 41) -/
def execWindowHandover (win : Nat) (s : State) : Host.Outcome State Fault Refusal :=
  let sent (s : State) : State := s.modWindow win (fun w => { w with sent := w.sent + 1 })
  let reply (t : Transit) : Bool := fld t.box 15 12 == 3 && msgOpc t.m == 0x7F
  match s.windowTransit win with
  | some k =>
    match s.transit[k]? with
    | none => .next s
    | some t =>
      if reply t then .next (sent { s with transit := dropIdx s.transit k })
      else
        match s.tryDeliver k t with
        | (s, true) => .next (sent s)
        | (s, false) => .next s
  | none =>
    match (s.window win).queue with
    | [] => .next s
    | (m, ctl) :: r =>
      let t : Transit := { src := windowBox win, priv := ctlPriv ctl, box := ctlTarget ctl, m := m }
      let s := s.modWindow win (fun w => { w with queue := r })
      .next { s with transit := s.transit ++ [t] }

/-- CTL_WRITE: a partly collected message is discarded, and CTL holds for the messages completed after (R363). -/
def execCtlWrite (win : Nat) (val : BitVec 64) (s : State) : Host.Outcome State Fault Refusal :=
  if 4096 ≤ win ∨ !s.sys.started then .next s
  else .next (s.modWindow win (fun w => { w with valid := 0, ctl := val.setWidth 46 }))

/-- The MSI-X message of a vector, from its table entry (R362). (PRESUMED, log 84) -/
def HostLink.message (h : HostLink) (v : Nat) : Word × BitVec 32 := h.table.getD v (0, 0)

/-- Raises an MSI-X vector: the message goes, or its pending bit is set while it is masked (R365). (DEDUCED, log 51; PRESUMED, log 84) -/
def State.interrupt (s : State) (v : Nat) : State :=
  if s.host.unmasked.contains v then { s with host := { s.host with msix := s.host.msix ++ [s.host.message v] } }
  else if s.host.pend.contains v then s
  else { s with host := { s.host with pend := s.host.pend ++ [v] } }

/-- HOST_RING_WRITE: a message to a host window is written to its receive ring, RTAIL rises, and MSI-X may follow (R365, R367). (DEDUCED, log 51) -/
def execHostRingWrite (k : Nat) (s : State) : Host.Outcome State Fault Refusal :=
  match s.transit[k]? with
  | none => .next s
  | some t =>
    if fld t.box 15 12 ≠ 7 ∨ (s.transit.take k).any (s.sameWay t) then .next s
    else
      let n := fld t.box 11 0
      let w := s.window n
      let size := w.rsize.toNat
      let out : State := { s with transit := dropIdx s.transit k }
      if size = 0 then .next (out.noReceiver t)
      else if size < (w.rtail - w.rhead).toNat + 64 then .next s
      else
        let at' := w.rbase.toNat / 64 * 64 + w.rtail.toNat % size
        let s := out.poke (hostKey at') (toBytes 64 t.m.toNat)
        let s := s.modWindow n (fun w => { w with rtail := w.rtail + 64 })
        .next (if ctlInten w.ctl then s.interrupt (ctlVec w.ctl) else s)

/-- HOST_HBM_ACCESS: an access through BAR 2, or Unsupported Request when a byte of it names no HBM (R362, R267). (DEDUCED, log 51) -/
def execHostHbmAccess (addr len : Nat) (data : Option (List Byte)) (s : State) : Host.Outcome State Fault Refusal :=
  let pa := s.host.hboff.toNat + addr
  let n := match data with
    | some d => d.length
    | none => len
  let bad : Bool := (List.range n).any (fun i => decide (0x9000000000 ≤ pa + i) || !s.paOk (pa + i))
  let reply (s : State) (a : Option (List Byte)) : State := { s with host := { s.host with answer := a } }
  if 2 ^ s.host.barLg < addr + n then .next s
  else if bad then .next (reply s none)
  else
    match data with
    | some d => .next (reply (s.poke (hbmKey pa) d) (some []))
    | none => .next (reply s (some (s.peek (hbmKey pa) n)))

/-- All ones, but for bytes forwarded from the context's own buffer (R135, R366). -/
def Piece.ones (p : Piece) : List Byte := mergeFwd p.fwd (List.replicate p.len 0xFF)

/-- The next part of a load, from host memory: its data arrive, or all ones (R366). -/
def State.hostPart (s : State) (x : CtxId) (p : Prod) (bad : Bool) : State :=
  match p.kind with
  | .load ty vec (q :: todo) got =>
    if bad then s.modCtx x (fun c => c.modProd p.id (fun p => { p with kind := .load ty vec todo (got ++ offBytes q.off q.ones) }))
    else s.performNext x p
  | _ => s

/-- HOST_REQUEST_COMPLETION: a request to host memory completes with data, or in error with all ones (R366); a part waits for an earlier load of
the same bytes (R135). (DEDUCED, log 71) -/
def execHostRequestCompletion (k : Nat) (bad : Bool) (s : State) : Host.Outcome State Fault Refusal :=
  let drop (s : State) : State := { s with host := { s.host with reqs := dropIdx s.host.reqs k } }
  match s.host.reqs[k]? with
  | none => .next s
  | some (.load x id) =>
    match (s.ctx x).prods.find? (fun p => p.id == id) with
    | none => .next (drop s)
    | some p =>
      match p.kind with
      | .load _ _ (q :: todo) _ =>
        if isHostKey q.home ∧ ((s.ctx x).prods.takeWhile (fun o => o.id != id)).any (fun o => o.readsAlso q) then .next s
        else if isHostKey q.home then .next (((drop s).hostPart x p bad).fillLoad x id)
        else if todo.any (fun q => isHostKey q.home) then .next s
        else .next (drop s)
      | _ => .next (drop s)
  | some (.atomic x id op ty home a b) =>
    let n := tyBits ty / 8
    let s := s.settleLoads x home n
    let old := if bad then 2 ^ (8 * n) - 1 else s.num home n
    let s := drop s
    let s := match (if bad then none else atomicNew op ty old a.toNat b.toNat) with
      | some v => s.putNum home n v
      | none => s
    match (s.ctx x).prods.find? (fun p => p.id == id) with
    | none => .next s
    | some p =>
      let s := match p.acq with
        | some sc => s.acquire x sc
        | none => s
      .next (s.modCtx x (fun c => c.deliver p (fun _ => (extTy ty old).toNat)))

/-! ### Registers (R7, R362, R363) -/

/-- What the host reads of a byte of a window: MSG and the reserved bytes read zero (R7, R363). -/
def Window.byte (w : Window) (off : Nat) : Byte :=
  if off < 64 then 0
  else if off < 72 then byteOf w.ctl.toNat (off - 64)
  else if off < 80 then byteOf (w.rbase.toNat / 64 * 64) (off - 72)
  else if off < 84 then byteOf w.rsize.toNat (off - 80)
  else if off < 88 then byteOf w.rtail.toNat (off - 84)
  else if off < 92 then byteOf w.rhead.toNat (off - 88)
  else if off < 96 then byteOf w.sent.toNat (off - 92)
  else if off < 100 then byteOf w.err.toNat (off - 96)
  else 0

/-- What the host reads of a byte of the link control page (R362, R377). -/
def State.linkPage (s : State) (off : Nat) : Byte :=
  if off < 8 then byteOf s.host.hboff.toNat off
  else if s.sys.broken.isSome ∧ 64 ≤ off ∧ off < 200 then s.sys.draft.getD (off - 64) 0 else 0

/-- What the host reads of a byte of BAR 0: the windows, while the module has started, then the link control page (R362, R377). -/
def State.bar0 (s : State) (off : Nat) : Byte :=
  if off < 2 ^ 24 then (if s.sys.started then (s.window (off / 4096)).byte (off % 4096) else 0)
  else if off < 2 ^ 24 + 4096 then s.linkPage (off - 2 ^ 24) else 0

/-- What the host reads of a byte of BAR 4: the MSI-X table of 16 bytes a vector, then the pending bits (R362). (PRESUMED, log 84) -/
def HostLink.bar4 (h : HostLink) (off : Nat) : Byte :=
  let v := off / 16
  let m := h.message v
  if off < 0x8000 then
    (if off % 16 < 8 then byteOf m.1.toNat (off % 16) else if off % 16 < 12 then byteOf m.2.toNat (off % 16 - 8)
     else if off % 16 = 12 then BitVec.ofNat 8 (b2n (!h.unmasked.contains v)) else 0)
  else if off < 0x8100 then
    BitVec.ofNat 8 ((List.range 8).foldl (fun x j => x + b2n (h.pend.contains (8 * (off - 0x8000) + j)) * 2 ^ j) 0)
  else 0

/-- A write of RSIZE: no ring, or a multiple of 64 up to 2^24; other values read back as 0 (R363). -/
def rsizeOf (v : BitVec 64) : BitVec 32 := if v.toNat % 64 = 0 ∧ v.toNat ≤ 2 ^ 24 then v.setWidth 32 else 0

/-- REGISTER_WRITE: a register or field without a behaviour of its own takes its RW bits (R7, R362, R363, R365). (DESIGN CHOICE, log 20; PRESUMED, log 84) -/
def execRegisterWrite (reg : HostReg) (val : BitVec 64) (s : State) : Host.Outcome State Fault Refusal :=
  let window (n : Nat) (f : Window → Window) : Host.Outcome State Fault Refusal :=
    if 4096 ≤ n ∨ !s.sys.started then .next s else .next (s.modWindow n f)
  match reg with
  | .hbOff => .next { s with host := { s.host with hboff := val >>> s.host.barLg <<< s.host.barLg } }
  | .barSize =>
    let n := val.toNat
    if 30 ≤ n ∧ n ≤ 40 then .next { s with host := { s.host with barLg := n, hboff := s.host.hboff >>> n <<< n } } else .next s
  | .rbase n => window n (fun w => { w with rbase := val })
  | .rsize n => window n (fun w => { w with rsize := rsizeOf val })
  | .rhead n => window n (fun w => { w with rhead := val.setWidth 32 })
  | .vectorAddr v =>
    if 2048 ≤ v then .next s else .next { s with host := { s.host with table := s.host.table.set v (val, (s.host.message v).2) } }
  | .vectorData v =>
    if 2048 ≤ v then .next s
    else .next { s with host := { s.host with table := s.host.table.set v ((s.host.message v).1, val.setWidth 32) } }
  | .vectorMask v =>
    if 2048 ≤ v then .next s
    else if val.getLsbD 0 then .next { s with host := { s.host with unmasked := s.host.unmasked.filter (fun u => u != v) } }
    else
      let s := { s with host := { s.host with unmasked := if s.host.unmasked.contains v then s.host.unmasked else s.host.unmasked ++ [v] } }
      if s.host.pend.contains v then
        .next ({ s with host := { s.host with pend := s.host.pend.filter (fun u => u != v) } }.interrupt v)
      else .next s
  | .readOnly _ => .next s
  | .block die off => if die < 4 ∧ off % 8 = 0 ∧ off + 8 ≤ 2 ^ 24 then .next (s.writeNum (dieKey die off) 8 val.toNat) else .next s

end Sys2Proof.Machine
end

