-- ==== Sys2Proof/Machine/Pager.lean ====
section
/-!
DEFINITION. The Marten pager: page loads and the start of units (R333), the freeze wave and the frozen image (R335 to R340), restore (R341,
R342), and the beat budgets at page inputs (R343, R387).
-/

namespace Sys2Proof

/-- The bytes of a section of a frozen image's cell record: what each section holds is given, its layout is not (R340). (DESIGN CHOICE, log 22) -/
opaque Config.sectionBytes : Machine.Section → List (BitVec 8)

end Sys2Proof

namespace Sys2Proof.Machine

/-! ### Page loads (R333, R339) -/

/-- The physical cells of a page that receive a pattern. -/
def Image.cellsOf (i : Image) (p : Page) : List (Nat × Pattern) :=
  (p.cells.zip (List.range 16)).filterMap (fun e => (i.at? p.ord e.2).map (fun q => (cellKey p.die e.1, q)))

/-- FINFO of a launch whose page was rejected three times: the physical cell and the die, as a Kiln address names them (R208, R333). (DEDUCED, log 45) -/
def rejectInfo (ck : Nat) : Nat := ck % 144 + ck / 144 * 2 ^ 8

/-- Filler up to the next multiple of 64 bytes. -/
def pad64 (l : List Byte) : List Byte := l ++ tab (ceilTo 64 l.length - l.length) Config.frozenGap

/-- A cell record (R340): the directory of its sections, each a type, a context and its bytes, ended by TYPE 0; then the sections, aligned. -/
def cellRecord (l : List (Nat × Nat × List Byte)) : List Byte :=
  l.foldl (fun acc e => pad64 acc ++ e.2.2)
    (l.flatMap (fun e => toBytes 8 (e.1 + e.2.1 * 2 ^ 8 + e.2.2.length * 2 ^ 32)) ++ toBytes 8 0)

/-- The words of regions 0 to 5 that a frozen cell's configuration sets: region, offset, value (R208). -/
def FrozenCell.words (f : FrozenCell) : List (Nat × Nat × Word) := f.cfg.map (fun e => (e.1 / 2 ^ 24, e.1 % 2 ^ 24, e.2))

/-- Section 1: those words as data items of a kernel image (R329, R340). (DESIGN CHOICE, log 22) -/
def FrozenCell.section1 (f : FrozenCell) : List Byte :=
  f.words.flatMap (fun e => toBytes 8 (e.1 * 2 ^ 12 + e.2.1 * 2 ^ 16) ++ toBytes 8 e.2.2.toNat)

/-- The sections of a context, TYPE 2 to 8, with the beats of its route tails (R340). (DESIGN CHOICE, log 22) -/
def FrozenCell.contextSections (f : FrozenCell) (i : Nat) (c : Ctx) (tail : List Flight) : List (Nat × Section) :=
  let a := c.arch
  let held (g : Island) : Option Island := if g.holder = some i then some g else none
  let rounds := c.opn :: c.closed.toList
  [(2, .registers a c.c c.rseq c.cause c.finfo c.tepc c.prods), (3, .sequencing a.stack a.sym a.tok a.closePend a.pushn), (4, .rounds c.opn c.closed),
   (5, .buffers (rounds.map (fun r => (r.ents, r.msgs)))), (6, .ports c.ports tail), (7, .rings c.rings),
   (8, .island ((List.range (32 * c.info.nacc)).map (fun n => f.accs.getD (32 * c.acc (n / 32) + n % 32) 0))
     (tab c.info.nacc (fun n => f.lists.getD (c.acc n) 0)) (rounds.map (fun r => r.journal)) (held f.island))]

/-- The sections of a cell: its configuration, its contexts, then its scratch tiles and lane slices as they are (R340). (DESIGN CHOICE, log 22) -/
def State.sections (s : State) (f : Frozen) (k : FrozenCell) : List (Nat × Nat × List Byte) :=
  let ck := cellKey f.page.die (f.page.cells.getD k.idx 0)
  let tail (c : Nat) : List Flight := f.flights.filter (fun g => g.box == (ctxAt ck c).box)
  (1, 0, k.section1) :: k.ctxs.flatMap (fun e => (k.contextSections e.1 e.2 (tail e.1)).map (fun q => (q.1, e.1, Config.sectionBytes q.2)))
    ++ [(9, 0, s.peek (tileKey ck 0) (fld (k.cfg.getD (4 * 2 ^ 24) 0).toNat 4 0 * 2 ^ 17) ++ s.peek (laneKey ck 0 0) (2 ^ 18))]

/-- The cell records of a frozen page, one for each position that a pattern fills. (DESIGN CHOICE, log 22) -/
def State.records (s : State) (f : Frozen) : List (Nat × List Byte) := f.cells.map (fun k => (k.idx, cellRecord (s.sections f k)))

/-- Puts the records behind the header, each at the next multiple of 64: the bytes, and the offset of every record. -/
def frozenBody (recs : List (Nat × List Byte)) : List Byte × List (Nat × Nat) :=
  recs.foldl (fun b r => let l := pad64 b.1; (l ++ r.2, b.2 ++ [(r.1, l.length)])) (List.replicate 128 0, [])

/-- Writes a frozen image to the freeze area in HBM (R338, R340): FSIZE and COFF follow from the records. (DESIGN CHOICE, log 22) -/
def State.frozenImage (s : State) (f : Frozen) (recs : List (Nat × List Byte)) : State :=
  match s.launch? f.page.sdie f.page.lkey with
  | none => s
  | some l =>
    let body := frozenBody recs
    let coff := tab 16 (fun i => ((body.2.find? (fun e => e.1 == i)).map (fun e => e.2)).getD 0)
    let header := toBytes 4 (1 + f.st * 2 ^ 16) ++ toBytes 4 body.1.length ++ toBytes 8 l.image ++ toBytes 4 f.page.ord ++ toBytes 4 l.id.toNat
      ++ toBytes 8 s.clk.toNat ++ toBytes 32 0 ++ coff.flatMap (toBytes 4)
    { s with fresh := s.fresh + 1024 }.poke (hbmKey (Config.freezeArea f.die f.page.key)) (header ++ body.1.drop 128)

/-- The contexts of a page have left their cells, and L1 and the island hold nothing (R338). -/
def State.emptyCells (s : State) (p : Page) : State :=
  { s with cells := s.cells.map (fun (e : Nat × Cell) =>
      if p.cells.any (fun c => cellKey p.die c == e.1) then (e.1, { e.2 with ctxs := [], l1 := [], island := {} }) else e) }

/-- Takes a page off its cells into the frozen images: an entry at its launch's level, or at 7 when a cancel has reached one of its units
(R338, R339, R341). (DESIGN CHOICE, log 22) -/
def State.freezeAs (s : State) (p : Page) (f : Frozen) : State :=
  let l := ((s.launch? p.sdie p.lkey).map (fun l => l.level)).getD 0
  let l := if f.cells.any (fun k => k.ctxs.any (fun e => e.2.cancel)) then 7 else l
  let p' : Page := { p with loading := false, freeze := .no, done := 0, tries := 0, barred := [] }
  let f := { f with page := p', die := p.toDie, level := l, since := s.clk.toNat }
  let s := s.frozenImage f (if f.st = 0 then s.records f else [])
  let s := if f.st = 0 then s.emptyCells p else s
  let s := (s.clearCells p).dropPage p
  { s with frozen := s.frozen ++ [f] }

/-- Copies a frozen image to the freeze area of another die (R384). (DEDUCED, log 58) -/
def State.frozenCopy (s : State) (f : Frozen) (die : Nat) : State :=
  let old := hbmKey (Config.freezeArea f.die f.page.key)
  s.poke (hbmKey (Config.freezeArea die f.page.key)) (s.peek old (s.num (old + 4) 4))

/-- The cursor of a page's launch moves past it, unless the page came from a frozen image. -/
def State.pagePlaced (s : State) (p : Page) : State :=
  if p.again then s else s.modLaunch p.sdie p.lkey Launch.onward

/-- A cell has rejected its words (R333, R339). (DEDUCED, log 45) -/
def State.pageRejected (s : State) (p : Page) (l : Launch) (ck : Nat) : State :=
  if p.freeze ≠ .no then (s.freezeAs p { st := 2 }).pagePlaced p
  else
    let s := (s.clearCells p).dropPage p
    let p := { p with loading := false, done := 0, tries := p.tries + 1, barred := p.window :: p.barred }
    let s := if p.again then
        { s with frozen := s.frozen ++ [{ page := p, die := p.die, st := 2, level := l.level, since := s.clk.toNat }] }
      else s.modLaunch p.sdie l.key (fun l => { l with tries := p.tries, barred := p.barred })
    if 3 ≤ p.tries then s.endWaiting p.sdie l.key .failed 1 (rejectInfo ck) else s

/-! ### Freezing (R335 to R338) -/

/-- The contexts of a page's cells. -/
def State.pageCtxs (s : State) (p : Page) : List (CtxId × Ctx) := p.cells.flatMap (fun c => s.cellCtxs (cellKey p.die c))

/-- Every live unit of a page is descheduled by LAUNCH, and one is (R335). -/
def State.descheduled (s : State) (p : Page) : Bool :=
  let l := (s.pageCtxs p).filter (fun e => e.2.life != .empty)
  let waits (c : Ctx) : Bool := match c.wait with
    | .pool _ => true
    | _ => false
  !p.loading && !l.isEmpty && l.all (fun e => e.2.life == .live && waits e.2)

/-- The level of a page's launch. -/
def State.pageLevel (s : State) (p : Page) : Nat := ((s.launch? p.sdie p.lkey).map (fun l => l.level)).getD 0

/-- Whether a page is frozen before another for pre-emption: descheduled first, then the lower level, then the younger admission. -/
def State.freezeFirst (s : State) (a b : Page) : Bool :=
  if s.descheduled a != s.descheduled b then s.descheduled a
  else if s.pageLevel a != s.pageLevel b then decide (s.pageLevel a < s.pageLevel b)
  else decide (b.adm < a.adm)

/-- The page that pre-emption takes, among those of a lower level (R335). -/
def State.victim (s : State) : List Page → Option Page
  | [] => none
  | p :: r =>
    match s.victim r with
    | none => some p
    | some q => if s.freezeFirst p q then some p else some q

/-- Whether a page's cells hold one that is to be retired (R382). -/
def Page.holds (p : Page) (ck : Nat) : Bool := p.cells.any (fun c => cellKey p.die c == ck)

/-- PREEMPT_FREEZE: a descheduled page is frozen; or, when the top entry of the cells class could not place for 4,096 clocks, one page of a
launch of lower level (R335). -/
def execPreemptFreeze (die : Nat) (s : State) : Host.Outcome State Fault Refusal :=
  let mine := s.pages.filter (fun p => p.die == die)
  let ask (p : Page) : Host.Outcome State Fault Refusal := .next (s.modPage p.key (fun p => { p with freeze := .asked, toDie := die }))
  match mine.find? (fun p => p.freeze == .no && s.descheduled p) with
  | some p => ask p
  | none =>
    match topEntry (s.cellsClass die), (s.sched die).blocked with
    | some (r, e), some (b, t) =>
      if b ≠ e ∨ s.clk.toNat < t + 4096 ∨ mine.any (fun p => p.freeze != .no) then .next s
      else
        match s.victim (mine.filter (fun p => !p.sys && decide (s.pageLevel p < r.level) && (p.loading || (s.pageCtxs p).any (fun e => e.2.life != .empty)))) with
        | some p => ask p
        | none => .next s
    | _, _ => .next s

/-- FREEZE_WAVE: the wave reaches the cells of a page that is not being loaded (R336, R339). -/
def execFreezeWave (k : Nat) (s : State) : Host.Outcome State Fault Refusal :=
  match s.pages[k]? with
  | none => .next s
  | some p =>
    if p.freeze = .asked ∧ p.loading = false then .next (s.modPage p.key (fun p => { p with freeze := .wave })) else .next s

/-- CONTEXT_STOP: a context of a page under the wave stops; a grant that it holds goes back (R253, R337). -/
def execContextStop (x : CtxId) (s : State) : Host.Outcome State Fault Refusal :=
  let c := s.ctx x
  if s.waved x.ck ∧ c.frozen = false ∧ c.life ≠ .empty ∧ (c.atStop ∨ (s.nextWait x).isSome) then
    .next ((s.modCtx x (fun c => { c with frozen := true })).modCell x.ck (fun k =>
      k.ungrant x.ctx))
  else .next s

/-- Whether a producer is recorded as pending and issued again at restore (R337). -/
def Prod.reissued (p : Prod) : Bool :=
  match p.kind with
  | .waitw .. => true
  | .cstat _ _ w => w
  | .look _ => true
  | _ => false

/-- Whether a producer waits for an operation of the closing unit. -/
def Prod.closing (p : Prod) : Bool := p.kind == .closing || p.kind == .settle

/-- Whether every producer of a stopped context that must return has returned (R336): one of the closing unit that waits for unfired rows
stays with them in the image. (DEDUCED, log 49) -/
def State.quiet (s : State) (x : CtxId) (c : Ctx) : Bool :=
  c.prods.all (fun p => p.reissued || (p.closing && s.closeHeld x.ck))

/-- A BIND word back in its image form: a PEER on the page's own cells is page-relative (R334, R340). -/
def relWord (p : Page) (v : Word) : Word :=
  let peer := fld v.toNat 19 4
  let cell := fld peer 9 2
  match firstIdx (fun c => c == cell) p.cells 0 with
  | some i =>
    if bit v.toNat 0 ∧ fld v.toNat 3 1 = 1 ∧ fld peer 15 10 = p.die then
      BitVec.ofNat 64 (putFld v.toNat 4 16 (0x9000 + i * 4 + peer % 4))
    else v
  | none => v

/-- Whether a configuration key is a BIND word. -/
def isBind (k : Nat) : Bool := decide (4 * 2 ^ 24 + 16 ≤ k) && decide (k < 4 * 2 ^ 24 + 80)

/-- A unit that has ended and whose last beats have not left yet (R205, R244). -/
def Ctx.leaving (c : Ctx) : Bool := c.ports.any (fun p => p.2.out && !p.2.fifo.isEmpty)

/-- Whether a configuration key is the AMAP word of a context in use (R330, R333). -/
def Cell.isAmap (k : Cell) (n : Nat) : Bool :=
  (List.range 4).any (fun c => n == 5 * 2 ^ 24 + 8 * c + 1 && bit (k.word 5 (8 * c)).toNat 0)

/-- A cell of a page as the image holds it, its BIND and AMAP words in their image form (R334, R340). (DESIGN CHOICE, log 22) -/
def State.freezeCell (s : State) (p : Page) (i ck : Nat) : FrozenCell :=
  let k := s.cell ck
  { idx := i
    cfg := (k.cfg.filter (fun e => !k.isAmap e.1)).map (fun e => if isBind e.1 then (e.1, relWord p e.2) else e)
    ctxs := k.ctxs.filter (fun e => e.2.life != .empty || e.2.leaving)
    accs := k.accs
    lists := k.lists
    island := k.island
    scratch := memSlice s.mem (tileKey ck 0) (tileKey ck (2 ^ 22))
    lanes := memSlice s.mem (laneKey ck 0 0) (laneKey ck 256 0) }

/-- Whether a home stands in the scratch of a page's cells. -/
def Page.homes (p : Page) (k : Nat) : Bool := p.cells.any (fun c =>
  decide (tileKey (cellKey p.die c) 0 ≤ k) && decide (k < tileKey (cellKey p.die c) (2 ^ 22)))

/-- Renames the objects of barrier messages and release lists. -/
def State.renameObjects (s : State) (f : Nat → Nat) : State :=
  { s with
    barMsgs := s.barMsgs.map (fun (m : BarMsg) => match m with
      | .arrival c q w => .arrival (f c) (f q) w
      | .release o => .release (f o))
    releases := s.releases.map (fun r => (f r.1, f r.2)) }

/-- An object in a page's scratch while its page is frozen: the page, the index of its cell, its offset. (DEDUCED, log 49) -/
def Page.iced (p : Page) (k : Nat) : Nat :=
  match firstIdx (fun c => decide (tileKey (cellKey p.die c) 0 ≤ k) && decide (k < tileKey (cellKey p.die c) (2 ^ 22))) p.cells 0 with
  | some i => 2 ^ 80 + (16 * p.key + i) * 2 ^ 22 + k % 2 ^ 22
  | none => k

/-- The object where its page stands again (R342). (DEDUCED, log 49) -/
def Page.thawed (p : Page) (k : Nat) : Nat :=
  let n := (k - 2 ^ 80) / 2 ^ 22
  if 2 ^ 80 ≤ k ∧ n / 16 = p.key then tileKey (cellKey p.die (p.cells.getD (n % 16) 0)) (k % 2 ^ 22) else k


/-- IMAGE_READOUT: every context has stopped and every producer has returned; the image is read out and the cells are cleared (R338,
R340). -/
def execImageReadout (k : Nat) (s : State) : Host.Outcome State Fault Refusal :=
  match s.pages[k]? with
  | none => .next s
  | some p =>
    let l := (s.pageCtxs p).filter (fun e => e.2.life != .empty)
    if p.freeze ≠ .wave ∨ l.any (fun e => !e.2.frozen || !s.quiet e.1 e.2)
        ∨ p.cells.any (fun c => !(s.cell (cellKey p.die c)).queue.isEmpty) then .next s
    else
      let mine (x : CtxId) : Bool := l.any (fun e => e.1 == x)
      let cells := p.filled.map (fun i => s.freezeCell p i (cellKey p.die (p.cells.getD i 0)))
      let sent (x : CtxId) : Bool := p.holds x.ck
      let flights := s.flights.map (fun (f : Flight) => if sent (boxCtx (f.src / 16)) ∧ f.via.isNone then { f with via := some p.key } else f)
      let inward (f : Flight) : Bool := p.holds (s.receiver f.box).ck
      let f : Frozen :=
        { cells := cells, watches := s.watches.filter (fun w => mine w.x)
          flights := (flights.filter inward).map (fun f => { f with box := (s.receiver f.box).box, tail := true }) }
      let s := s.freezeAs p f
      let s := { s with
        flights := flights.filter (fun f => !inward f)
        transit := s.transit.map (fun (t : Transit) => if fld t.src 15 12 = 0 ∧ sent (boxCtx t.src) ∧ t.via.isNone then { t with via := some p.key } else t)
        faults := s.faults.map (fun (f : FaultWait) => match f.party with
          | .ctx x => if mine x ∧ f.gone = false ∧ f.away.isNone then { f with away := some p.key } else f
          | _ => f)
        watches := s.watches.filter (fun w => !mine w.x)
        barWaits := s.barWaits.filter (fun w => !mine w.x)
        walks := s.walks.filter (fun w => !mine w.x) }
      .next (s.renameObjects p.iced)

/-! ### Restore (R341, R342) -/

/-- The cell key that an old cell key becomes. -/
def movedCell (m : List (Nat × Nat)) (ck : Nat) : Nat := ((m.find? (fun e => e.1 == ck)).map (fun e => e.2)).getD ck

/-- A home in cell scratch follows its cell. (DEDUCED, log 49) -/
def movedHome (m : List (Nat × Nat)) (k : Nat) : Nat :=
  if homeTag 3 ≤ k ∧ k < homeTag 4 then tileKey (movedCell m ((k - homeTag 3) / 2 ^ 22)) (k % 2 ^ 22) else k

/-- A context id follows its cell. -/
def movedCtx (m : List (Nat × Nat)) (x : CtxId) : CtxId := ctxAt (movedCell m x.ck) x.ctx

/-- The base of an entry or range follows its cell, for the spaces that are based on one. (DEDUCED, log 49) -/
def movedBase (m : List (Nat × Nat)) (sp : Space) (b : Nat) : Nat :=
  match sp with
  | .g => b
  | .d => b
  | _ => movedCell m b

/-- A round's entries and ranges follow their cells. -/
def Round.moved (m : List (Nat × Nat)) (r : Round) : Round :=
  { r with
    ents := r.ents.map (fun e => { e with base := movedBase m e.sp e.base })
    ranges := r.ranges.map (fun q => { q with base := movedBase m q.sp q.base }) }

/-- A pending producer follows its cell. -/
def Prod.moved (m : List (Nat × Nat)) (p : Prod) : Prod :=
  match p.kind with
  | .waitw home asid va => { p with kind := .waitw (movedHome m home) asid va }
  | _ => p

/-- A context as it is released on its new cell: a waiting word issues again, a LAUNCH keeps its place among the descheduled ones, and a
fault is still waited for (R337). -/
def Ctx.released (m : List (Nat × Nat)) (c : Ctx) : Ctx :=
  { c with
    frozen := false
    opn := c.opn.moved m
    closed := c.closed.map (Round.moved m)
    prods := c.prods.map (Prod.moved m)
    handed := c.handed.map (fun h => (movedCell m h.1, h.2))
    wait := match c.wait with
      | .pool n => .pool n
      | .fault => .fault
      | _ => .none }

/-- Section 1 of a cell as a pattern: Marten loads its words under R333, with the CRC that they have (R341). -/
def FrozenCell.pattern (f : FrozenCell) : Pattern :=
  { items := f.words, crc := f.words.foldl (fun c e => crcMore c (toBytes 8 e.2.2.toNat)) 0 }

/-- The words of a restored page's load, cell by cell, each with its new cell (R333, R341). (DEDUCED, log 49) -/
def Frozen.loadOps (f : Frozen) (p : Page) : List (Nat × KilnOp) :=
  f.cells.flatMap (fun k => (k.pattern.ops p.die p.cells).map (fun o => (cellKey p.die (p.cells.getD k.idx 0), o)))

/-- Puts sections 2 to 9 of a cell on its new cell: its contexts, its accumulators, its island, its tiles and lane slices (R341). A page is placed
with the AMAP that R331 gives its cells, before and after, so accumulators keep their numbers. (DESIGN CHOICE, log 22) -/
def State.thawCell (s : State) (p : Page) (m : List (Nat × Nat)) (f : FrozenCell) : State :=
  let ck := cellKey p.die (p.cells.getD f.idx 0)
  let s := s.modCell ck (fun k =>
    { k with accs := f.accs, lists := f.lists, island := f.island, l1 := [], ctxs := f.ctxs.map (fun e => (e.1, e.2.released m)) })
  let s := (s.zero (tileKey ck 0) (2 ^ 22)).zero (laneKey ck 0 0) (2 ^ 18)
  { s with mem := memPut (memPut s.mem (tileKey ck 0) f.scratch) (laneKey ck 0 0) f.lanes }

/-- Follows a page to its new cells in every table that names its contexts, and enters the old inbox ids into the redirect table (R342). -/
def State.renamed (s : State) (key : Nat) (m : List (Nat × Nat)) (old : List CtxId) : State :=
  let mv (x : CtxId) : CtxId := if old.contains x then movedCtx m x else x
  let fresh := (old.filter (fun x => x.box != (mv x).box)).map (fun x => (x.box, (mv x).box))
  let pairs := (s.redirect.map (fun r => (r.1, ((fresh.find? (fun f => f.1 == r.2)).map (fun f => f.2)).getD r.2)))
    ++ fresh.filter (fun f => !s.redirect.any (fun r => r.1 == f.1))
  { s with
    redirect := pairs.filter (fun r => r.1 != r.2)
    faults := s.faults.map (fun (f : FaultWait) => match f.party with
      | .ctx x => if f.away = some key then { f with party := .ctx (mv x), away := none } else f
      | _ => f)
    flights := s.flights.map (fun (f : Flight) =>
      if f.via = some key then { f with src := (mv (boxCtx (f.src / 16))).box * 16 + f.src % 16, via := none } else f)
    transit := s.transit.map (fun (t : Transit) => if t.via = some key then { t with src := (mv (boxCtx t.src)).box, via := none } else t)
    scheds := s.scheds.map (fun (e : Nat × Sched) =>
      (e.1, { e.2 with waits := e.2.waits.map (fun (w : PoolWait) => { w with x := mv w.x }) })) }

/-- Releases a context: rounds that were voided while frozen are voided now, and a unit of a faulted job fails (R321, R336, R342). -/
def State.release2 (s : State) (x : CtxId) : State :=
  let c := s.ctx x
  let all := (c.closed.map (fun r => r.void)).getD false
  let s := if all || c.opn.void then s.conflictVoid x all else s
  if (s.ctx x).poolFault ∧ (s.ctx x).life = .live then s.failUnit x 0x0B 4 else s

/-- A WAITW issues again at restore, with a translation of its own (R149, R337, R347): a fault voids the round that issued it and what follows it. -/
def State.rewatch (s : State) (m : List (Nat × Nat)) (w : Watch) : State :=
  let x := movedCtx m w.x
  let again (s : State) (home asid va : Nat) : State :=
    let v : Watch := { x := x, id := s.serial, home := home, target := w.target }
    { s.modCtx x (fun c => c.modProd w.id (fun p => { p with id := s.serial, kind := .waitw home asid va, lg := s.pageLg x asid va })) with
      serial := s.serial + 1, watches := s.watches ++ [v.test s.mem] }
  match (s.ctx x).prods.find? (fun p => p.id == w.id) with
  | none => s
  | some p =>
    match p.kind with
    | .waitw home asid va =>
      if isHbm home then
        match s.translate (.ctx x) asid va false true with
        | (s, .ok pa) => again s (paKey pa) asid va
        | (s, .error (kind, level)) =>
          let older : Bool := ((s.ctx x).closed.map (fun r => r.serial == p.serial)).getD false
          (if older then s.voidRounds x true else s).ctxFault x { asid := asid, va := va, kind := kind, level := level }
      else again s home asid va
    | _ => s

/-- The number of redirect entries of a die (R342). (DEDUCED, log 49) -/
def State.redirects (s : State) (die : Nat) : Nat := (s.redirect.filter (fun r => fld r.2 11 10 == die)).length

/-- Section 1 is loaded: sections 2 to 9 are written, and the contexts are released at their stopping points (R341, R342). -/
def State.thaw (s : State) (f : Frozen) (p : Page) : State :=
  let s := { s with frozen := s.frozen.filter (fun g => g.page.key != p.key) }
  let s := s.modPage p.key (fun p => { p with loading := false, thaw := false, started := true })
  let m := f.cells.map (fun k => (cellKey f.page.die (f.page.cells.getD k.idx 0), cellKey p.die (p.cells.getD k.idx 0)))
  let old := f.cells.flatMap (fun k => k.ctxs.map (fun e => ctxAt (cellKey f.page.die (f.page.cells.getD k.idx 0)) e.1))
  let s := f.cells.foldl (fun s k => s.thawCell p m k) s
  let s := { s with flights := f.flights.map (fun (f : Flight) => { f with box := (movedCtx m (boxCtx f.box)).box }) ++ s.flights }
  let s := (s.renamed p.key m old).renameObjects p.thawed
  let s := old.foldl (fun s x => s.release2 (movedCtx m x)) s
  let s := f.watches.foldl (fun s w => s.rewatch m w) s
  s.progress p.die

/-- A cell has rejected the words of a restored page (R333): the image stays for another window; after the third time its launch fails whole, its
units with it. (DEDUCED, log 45) -/
def State.thawRejected (s : State) (f : Frozen) (p : Page) (ck : Nat) : State :=
  let s := (s.clearCells p).dropPage p
  let tries := f.page.tries + 1
  if 3 ≤ tries then
    let s := { s with frozen := s.frozen.filter (fun g => g.page.key != p.key) }
    let n := (f.cells.map (fun k => (k.ctxs.filter (fun e => e.2.life == .live)).length)).foldl (· + ·) 0
    (s.countUnits p.sdie p.lkey p.inst n .failed 1 0xFFFFFFFF (rejectInfo ck)).endWaiting p.sdie p.lkey .failed 1 (rejectInfo ck)
  else { s with frozen := s.frozen.map (fun g =>
    if g.page.key == p.key then { g with page := { g.page with tries := tries, barred := p.window :: g.page.barred } } else g) }

/-- A freeze reached a page that was being restored: its image is as it was (R339, R341). (DEDUCED, log 49) -/
def State.thawUndone (s : State) (p : Page) : State :=
  let s := (s.clearCells p).dropPage p
  { s with frozen := s.frozen.map (fun g => if g.page.key == p.key then { g with die := p.toDie } else g) }

/-- The next word of section 1 is written; behind the last, its cells are tested and the page is restored, or its window is given up (R333,
R341). (DEDUCED, log 49) -/
def State.thawStep (s : State) (p : Page) : State :=
  match s.frozen.find? (fun f => f.page.key == p.key) with
  | none => s
  | some f =>
    match (f.loadOps p)[p.done]? with
    | some (ck, o) => (s.kilnOp ck o).modPage p.key (fun p => { p with done := p.done + 1 })
    | none =>
      if p.freeze ≠ .no then s.thawUndone p
      else
        match f.cells.find? (fun k => (s.cell (cellKey p.die (p.cells.getD k.idx 0))).st != 2) with
        | some k => s.thawRejected f p (cellKey p.die (p.cells.getD k.idx 0))
        | none => s.thaw f p

/-- PAGE_LOAD: the next word of a page's load is written; behind the last, its cells are tested, and its units start or its window is given
up (R333, R339, R241). A skipped load writes none; a restored page loads from its frozen image (R341). (DEDUCED, log 46) -/
def execPageLoad (k : Nat) (s : State) : Host.Outcome State Fault Refusal :=
  match s.pages[k]? with
  | none => .next s
  | some p =>
    if p.thaw then .next (s.thawStep p) else
    match s.launch? p.sdie p.lkey with
    | none => .next s
    | some l =>
      let job := launchJob l.key
      let lost (s : State) (cause finfo : Nat) : State := (s.giveUp p).endWaiting p.sdie l.key .failed cause finfo
      if p.loading = false ∨ s.faulting (.sched p.sdie job) then .next s
      else
        match (s.sched p.sdie).fatalOf job with
        | some f => .next (lost (s.clearFatal p.sdie job) 6 (xlateInfo f).toNat)
        | none =>
          match s.readImage p.sdie job l.asid l.image with
          | (s, .fault va kd lv) => .next (s.schedFault p.sdie job l.asid va kd lv)
          | (s, .bad) => .next (lost s 1 0)
          | (s, .ok i) =>
            match (if p.skip then none else (i.loadOps p)[p.done]?) with
            | some (cells, o) => .next ((cells.foldl (fun s ck => s.kilnOp ck o) s).modPage p.key (fun p => { p with done := p.done + 1 }))
            | none =>
              let cells := i.cellsOf p
              match cells.find? (fun e => (s.cell e.1).st != 2) with
              | some e => .next (s.pageRejected p l e.1)
              | none =>
                let s := if p.skip then cells.foldl (fun s e => s.freshScratch e.1 e.2) s else s
                if p.freeze ≠ .no then .next ((s.freezeAs p { st := 1 }).pagePlaced p)
                else .next ((s.startPage l p).pagePlaced p)

/-- A window is found for a frozen page: it is loaded there next, under R333, and its entry is dispatched (R341). -/
def State.placeAgain (s : State) (p : Page) (w : Site) : State :=
  ((s.putPage p w).modSched p.die (fun d => { d with blocked := none })).progress p.die

/-- RESTORE: a frozen page that is the top entry of its die's cells class is placed again (R341, R342). (DEDUCED, log 49) -/
def execRestore (k : Nat) (s : State) : Host.Outcome State Fault Refusal :=
  match s.frozen[k]? with
  | none => .next s
  | some f =>
    let die := f.die
    let s := s.sweepPages
    if (s.sched die).out ∨ (topEntry (s.cellsClass die)).map (fun e => e.2) ≠ some (.frozen f.page.key) then .next s
    else
      let stuck (s : State) : Host.Outcome State Fault Refusal := .next (s.stuckAt die (.frozen f.page.key))
      match s.launch? f.page.sdie f.page.lkey with
      | none => .next s
      | some l =>
        if f.st = 0 then
          let needs := tab 16 (fun i =>
            ((f.cells.find? (fun c => c.idx == i)).map (fun c => roleTiles (c.cfg.getD (4 * 2 ^ 24) 0).toNat)).getD 0)
          let n := (f.cells.map (fun c => c.ctxs.length)).foldl (· + ·) 0
          let again (w : Site) : Host.Outcome State Fault Refusal :=
            .next (s.placeAgain { f.page with die := die, loading := true, thaw := true, freeze := .no, done := 0, taken := 0 } w)
          let former : Site := { num := f.page.window, cells := f.page.cells, shadow := f.page.shadow }
          if 64 < s.redirects die + n ∧ f.page.die = die then
            (if s.usable die needs former ∧ f.page.barred = [] then again former else stuck s)
          else
            match s.pickWindow die needs f.page.barred (fun _ => false) with
            | some (w, _) => if 64 < s.redirects die + n then stuck s else again w
            | none => stuck s
        else
          let job := launchJob l.key
          let lost (s : State) (cause finfo : Nat) : Host.Outcome State Fault Refusal :=
            .next (s.endWaiting f.page.sdie l.key .failed cause finfo)
          if s.faulting (.sched f.page.sdie job) then .next s
          else
            match (s.sched f.page.sdie).fatalOf job with
            | some q => lost (s.clearFatal f.page.sdie job) 6 (xlateInfo q).toNat
            | none =>
              match s.readImage f.page.sdie job l.asid l.image with
              | (s, .fault va kd lv) => .next (s.schedFault f.page.sdie job l.asid va kd lv)
              | (s, .bad) => lost s 1 0
              | (s, .ok i) =>
                match s.windowFor die i f.page.ord f.page.barred with
                | none => stuck s
                | some (w, skip) =>
                  let s := { s with frozen := s.frozen.filter (fun g => g.page.key != f.page.key) }
                  let p := { f.page with die := die, loading := true, skip := skip, again := true, filled := i.filled f.page.ord, started := false, freeze := .no }
                  .next (s.placeAgain p w)

/-! ### Beat budgets (R343, R387) -/

/-- BUDGET_WINDOW: a new window of 1,024 clocks renews a page's budget (R343). (DEDUCED, log 50) -/
def execBudgetWindow (k : Nat) (s : State) : Host.Outcome State Fault Refusal :=
  match s.pages[k]? with
  | none => .next s
  | some p =>
    let w := s.clk.toNat / 1024
    if p.win < w then .next (s.modPage p.key (fun p => { p with taken := 0, win := w })) else .next s

/-- GOVERNOR_UPDATE: the power governor sets a page's budget, once a window (R343, R387). -/
def execGovernorUpdate (k budget : Nat) (s : State) : Host.Outcome State Fault Refusal :=
  match s.pages[k]? with
  | none => .next s
  | some p =>
    let w := s.clk.toNat / 1024
    if (s.sys.governor.get? p.key) = some w then .next s
    else .next { s.modPage p.key (fun p => { p with budget := budget }) with sys := { s.sys with governor := s.sys.governor.set p.key w } }

end Sys2Proof.Machine
end

