-- ==== Sys2Proof/Machine/Lifecycle.lean ====
section
/-!
DEFINITION. Start-up, repair, update and attestation (R377 to R387): the start record, module reset with its 32 steps, management
commands, firmware update, the thermal stop.
-/

namespace Sys2Proof.Machine

/-! ### The start sequence (R377, R379) -/

/-- How many alternates a step has. (DEDUCED, log 59) -/
def alternates (n : Nat) : Nat :=
  if n = 5 ∨ n = 6 ∨ (24 ≤ n ∧ n ≤ 27) ∨ n = 29 then 1
  else if (8 ≤ n ∧ n ≤ 11) ∨ n = 28 then 2
  else if 12 ≤ n ∧ n ≤ 23 then 3 else 0

/-- Whether a step is critical. -/
def criticalStep (n : Nat) : Bool := decide (n ≤ 7) || n == 28 || decide (30 ≤ n)

/-- An alternate that takes a part out of service: it cannot fail. (DEDUCED, log 59) -/
def takesOut (n p : Nat) : Bool :=
  (decide (8 ≤ n ∧ n ≤ 11) && p == 2) || (decide (12 ≤ n ∧ n ≤ 23) && p == 3) || ((decide (24 ≤ n ∧ n ≤ 27) || n == 29) && p == 1)

/-- The path on which a step starts, from its entry in the record in force (R379). (DEDUCED, log 59) -/
def firstPath (e : Nat) : Nat := if e % 4 = 1 then e / 4 % 4 else if e % 4 = 2 then e / 4 % 4 + 1 else 0

/-- The path on which a step passes, given the paths that fail. (DEDUCED, log 59) -/
def passingPath (fails : List (Nat × Nat)) (n : Nat) : Nat → Nat → Option Nat
  | 0, _ => none
  | f + 1, p =>
    if alternates n < p then none
    else if takesOut n p || !fails.contains (n, p) then some p else passingPath fails n f (p + 1)

/-- A start under way: the service state, the cells, the entries so far. -/
structure Boot where
  v : Service := {}
  cells : SMap Cell := []
  ents : List Nat := []
  stop : Option Nat := none
  fresh : Nat := 0
  deriving DecidableEq, Repr

/-- Whether a step's part is out of service, so that the step is skipped. -/
def Boot.skips (b : Boot) (n : Nat) : Bool :=
  (decide (8 ≤ n ∧ n ≤ 11) && !(b.v.dies.getD (n - 8) true)) || (decide (12 ≤ n ∧ n ≤ 23) && !(b.v.hbms.getD (n - 12) true))

/-- Changes a cell. -/
def Boot.modCell (b : Boot) (ck : Nat) (f : Cell → Cell) : Boot := { b with cells := b.cells.set ck (f (b.cells.getD ck {})) }

/-- A die out of service. -/
def Service.dropDie (v : Service) (d : Nat) : Service := { v with dies := v.dies.set d false }

/-- A cell or tile that a self-test found (steps 25 and 26); a spare is held while 128 cells of its die stay enabled (R2). (DEDUCED, log 59) -/
def Boot.cellFound (b : Boot) (alt : Bool) (x : StartFind) : Boot :=
  match x with
  | .cellRetired d c => if alt ∧ c < 144 ∧ d < 4 then b.modCell (cellKey d c) (fun k => { k with retired := true }) else b
  | .tileOut d c t => if alt ∧ c < 144 ∧ d < 4 ∧ t < 24 then b.modCell (cellKey d c) (fun k => k.mapOut t) else b
  | .spareHeld d c =>
    let gone := (List.range 144).countP (fun c => fusedOff (cellKey d c) || (b.cells.getD (cellKey d c) {}).spare)
    if c < 144 ∧ d < 4 ∧ !fusedOff (cellKey d c) ∧ gone < 16 then b.modCell (cellKey d c) (fun k => { k with spare := true }) else b
  | _ => b

/-- A list with the elements of another that it lacks. -/
def withNew (l new : List Nat) : List Nat := new.foldl (fun l x => if l.contains x then l else l ++ [x]) l

/-- What a step that started on path `first` does on the path p on which it passes. One that starts on its alternate keeps what that took
out (R379). (DEDUCED, log 59) -/
def Boot.effect (b : Boot) (fails : List (Nat × Nat)) (found : List StartFind) (n first p : Nat) : Boot :=
  if n = 5 then { b with v := { b.v with startB := p == 1, copyB := if p = 1 then List.range 16 else [] } }
  else if (n = 6 ∨ n = 24) ∧ p = 1 ∧ (first ≠ p ∨ fails.contains (n, p)) then
    -- which die it is, the failing part says
    let dies := (List.range 4).filter (fun d => b.v.dies.getD d true)
    { b with v := b.v.dropDie (dies.getD (Config.freeNat b.fresh % max 1 dies.length) 4), fresh := b.fresh + 1 }
  else if 8 ≤ n ∧ n ≤ 11 ∧ p = 2 then { b with v := b.v.dropDie (n - 8) }
  else if 12 ≤ n ∧ n ≤ 23 then
    { b with v := { b.v with rates := b.v.rates.set (n - 12) p, hbms := if p = 3 then b.v.hbms.set (n - 12) false else b.v.hbms } }
  else if n = 25 then found.foldl (fun b x => b.cellFound (p == 1) x) b
  else if n = 26 ∧ p = 1 then
    (found.filter (fun x => match x with
      | .cellRetired _ _ => true
      | _ => false)).foldl (fun b x => b.cellFound true x) b
  else if n = 27 then
    { b with v := { b.v with engOut := if p = 1 then withNew (if first = p then b.v.engOut else []) (found.filterMap (fun x => match x with
        | .engineOut box => some box
        | _ => none)) else [] } }
  else if n = 29 then
    { b with v := { b.v with portOut := if p = 1 then withNew (if first = p then b.v.portOut else []) (found.filterMap (fun x => match x with
        | .portDown q => if q < 8 then some q else none
        | _ => none)) else [] } }
  else b

/-- One step of the start: its entry in the record being written, and its effect. A step after the stop is not run. (DEDUCED, log 59) -/
def Boot.next (old : List Byte) (fails : List (Nat × Nat)) (found : List StartFind) (b : Boot) (n : Nat) : Boot :=
  let entry (b : Boot) (out alt detail : Nat) : Boot := { b with ents := b.ents ++ [out + 4 * alt + 16 * (detail % 4096)] }
  if b.stop.isSome then entry b 0 0 0
  else if b.skips n then entry b 3 0 0
  else
    let free := Config.freeNat b.fresh
    let b := { b with fresh := b.fresh + 1 }
    let first := firstPath (recordStep old n)
    match passingPath fails n 4 first with
    | none =>
      let b := if criticalStep n then { b with stop := some n } else b
      entry b 2 (alternates n) free
    | some p =>
      let detail := if n = 1 ∧ b.v.tripped then 1 + free % 4095 else if p = 0 then 0 else free
      entry (b.effect fails found n first p) 1 p detail

/-- What the record in force says of the service state. (PRESUMED, log 7; DEDUCED, log 60) -/
def Boot.ofRecord (v : Service) (r : List Byte) (fresh : Nat) : Boot :=
  let n (i len : Nat) : Nat := ofBytes ((r.drop i).take len)
  let kept (v : Service) : Service :=
    { started := false, tripped := v.tripped, rec0 := v.rec0, rec1 := v.rec1, imgA := v.imgA, imgB := v.imgB,
      engOut := v.engOut, portOut := v.portOut }
  if r = [] then { v := kept v, fresh := fresh }
  else
    let cell (ck : Nat) : Cell :=
      let d := ck / 144
      let c := ck % 144
      let tiles := n (304 + 432 * d + 3 * c) 3
      let k : Cell := { retired := bit (n (160 + 18 * d + c / 8) 1) (c % 8), spare := bit (n (232 + 18 * d + c / 8) 1) (c % 8) }
      (List.range 24).foldl (fun (k : Cell) t => if bit tiles t then k.mapOut t else k) k
    { v := { kept v with
        dies := tab 4 (fun d => bit (n 136 1) d)
        hbms := tab 12 (fun i => bit (n 138 2) i && decide (n (140 + i) 1 ≤ 2))
        rates := tab 12 (fun i => n (140 + i) 1) }
      cells := ((List.range 576).map (fun ck => (ck, cell ck))).filter (fun e => e.2.retired || e.2.spare || e.2.tilesOut != 0)
      fresh := fresh }

/-- MODULE_RESET: the flash and the host's own memory stay; the sequence runs (R377 to R379). (DEDUCED, log 60) -/
def execModuleReset (fails : List (Nat × Nat)) (found : List StartFind) (s : State) : Host.Outcome State Fault Refusal :=
  let old := (s.sys.inForce.map (fun r => r.2)).getD []
  let b := ((List.range 32).map (fun i => i + 1)).foldl (Boot.next old fails found) (Boot.ofRecord s.sys old s.fresh)
  let start := (recordStart old + 1) % 2 ^ 64
  let ents := b.ents.flatMap (toBytes 4)
  let base : State := { State.reset with fresh := b.fresh, picks := s.picks, mem := s.mem.filter (fun e => isHostKey e.1) }
  match b.stop with
  | some n => .next { base with sys := { b.v with broken := some n, draft := toBytes 8 start ++ ents } }
  | none =>
    let cell (ck : Nat) : Cell := b.cells.getD ck {}
    let v := { b.v with started := true, tripped := false }
    let v := v.putRecord (ents ++ serviceBytes v cell)
    let boxes := v.engOut.foldl (fun (m : SMap Box) x => m.set x { out := true }) []
    let samplers := (v.engOut.filter (fun x => fld x 15 12 == 4)).foldl (fun (m : SMap Sampler) x => m.set (fld x 11 10) { out := true }) []
    let scheds := ((List.range 4).filter (fun d => !(v.dies.getD d true))).foldl (fun (m : SMap Sched) d => m.set d { out := true }) []
    let t : State := { base with sys := v, cells := b.cells, boxes := boxes, samplers := samplers, scheds := scheds,
                                 net := { portsDown := v.portOut } }
    .next ((List.range 4).foldl (fun s d => s.putNum (dieKey d (tcb + 8)) 2 (0x1000 + d * 2 ^ 10)) t)

/-- THERMAL_TRIP: the module stops; the next start records the trip (R387). -/
def execThermalTrip (s : State) : Host.Outcome State Fault Refusal :=
  .next { s with sys := { s.sys with stopped := true, tripped := true } }

/-! ### Management commands (R382 to R386) -/

/-- The inbox of a control core (R163). -/
def coreBox (die core : Nat) : Nat := 0x1000 + die * 2 ^ 10 + core

/-- A management command is done: the record's service state is rewritten before its completion word (R382). (DEDUCED, log 56) -/
def State.managed (s : State) (box : Nat) (c : Cmd) : State :=
  (s.rewriteService).modCmd box c.seq (fun c => { c with dirty := none }.stop 0 0)

/-- Checks of the header's words come first. -/
def State.manage (s : State) (m : Msg) (f : State → Nat → Cmd → State) : Host.Outcome State Fault Refusal :=
  s.command m (fun s box c => if c.headerWordsBad then s.modCmd box c.seq (fun c => c.stop 2 0) else f s box c)

/-- MRETIRE: the cell or tile is asked for once, and the command waits until it is out (R382). (DEDUCED, log 57) -/
def execMretire (m : Msg) (s : State) : Host.Outcome State Fault Refusal :=
  s.manage m (fun s box c =>
    let ck := cellKey (c.op 264 2) (c.op 256 8)
    let tile := if c.m.getLsbD 271 then some (c.op 266 5) else none
    if c.checked = false then (s.sweepPages.retireSoon ck tile).modCmd box c.seq (fun c => { c with checked := true })
    else
      let s := s.sweepPages
      let done : Bool := match tile with
        | none => (s.cell ck).retired
        | some t => bit (s.cell ck).tilesOut t
      if done then s.managed box c else s)

/-- The next die in service after a die, in ascending order. (DEDUCED, log 58) -/
def State.nextDie (s : State) (d : Nat) : Option Nat :=
  ([d + 1, d + 2, d + 3].map (· % 4)).find? (fun e => s.sys.dies.getD e true && !(s.sched e).out)

/-- A queued command of an engine or a core that is not started ends with CANCEL (R384); one that may deliver to a port does so in its turn, when its
block has said which port gets the EOF (R171). (DEDUCED, log 58) -/
def Cmd.cancelled (c : Cmd) : Cmd :=
  if c.started then c
  else if 1 ≤ c.opc ∧ c.opc ≤ 4 then { c with status := 9 }
  else { c with started := true }.stop 9 0

/-- The boxes of a die's control cores and engines. -/
def boxOn (d box : Nat) : Bool := (fld box 15 12 == 1 || fld box 15 12 == 2) && fld box 11 10 == d

/-- Steps 1 to 3 of R384: the scheduler takes no more work, the pages are to be frozen to another die, queued commands are cancelled. (DEDUCED, log 58) -/
def State.leaveDie (s : State) (d t : Nat) : State :=
  let q := s.sched d
  let s := (q.queue.filter (fun c => c.phase == 0)).foldl (fun s c =>
    let s := s.reply (0x3000 + d * 2 ^ 10) c.m 0x0A 0 0 c.node
    match c.lg with
    | some g => s.giveBack d (if g.lkey = 0 then none else some (g.ldie, g.lkey)) g.res (g.res + g.pool)
    | none => s) s
  let s := s.modSched d (fun q => { q with out := true, queue := q.queue.filter (fun c => c.phase != 0) })
  let s := (s.frozen.filter (fun f => f.die == d)).foldl (fun s f => s.frozenCopy f t) s
  { s with
    pages := s.pages.map (fun p => if p.die = d then { p with freeze := if p.freeze = .no then .asked else p.freeze, toDie := t } else p)
    frozen := s.frozen.map (fun f => if f.die = d then { f with die := t } else f)
    boxes := s.boxes.map (fun b => if boxOn d b.1 then
        (b.1, { b.2 with out := b.2.out || fld b.1 15 12 == 2, qs := b.2.qs.map (fun q => (q.1, q.2.map Cmd.cancelled)) }) else b)
    samplers := s.samplers.set d (let k := s.samplers.getD d {}
      { k with out := true, queue := k.queue.map (fun c =>
          if c.opc = 0x21 then { c with cancel := true } else if c.phase = 0 then { c with phase := 5, status := 9 } else c) }) }

/-- Whether a die has nothing left to finish, but for the command itself. (DEDUCED, log 58) -/
def State.dieIdle (s : State) (d box seq : Nat) : Bool :=
  let k := s.samplers.getD d {}
  s.pages.all (fun p => p.die != d) && (s.sched d).queue.isEmpty && k.queue.isEmpty && k.batch.isNone
    && s.boxes.all (fun b => !boxOn d b.1 || b.2.qs.all (fun q => q.2.all (fun c => b.1 == box && c.seq == seq)))

/-- Ends a firmware update: the new copy is copy A for the next start, or the update has failed with BADSIG (R385). -/
def State.endUpdate (s : State) (ok : Bool) : State :=
  match s.sys.update with
  | none => s
  | some box =>
    let v := { s.sys with update := none, restart := [] }
    let v := if !ok then v
      else if v.startB then { v with startB := false, copyB := [] }
      else { v with imgA := v.imgB, imgB := some (v.imgA.getD (Config.firmwareImage false)), copyB := [] }
    let s := { s with sys := v }
    match (((s.boxes.getD box {}).qs.getD 0 []).find? (fun c => c.started && c.opc == 0x63 && c.checked && c.phase == 0)) with
    | none => s
    | some c => if ok then s.managed box c else s.modCmd box c.seq (fun c => c.stop 8 0)

/-- Cores of dies out of service take no part in an update. -/
def State.trimUpdate (s : State) : State :=
  let l := s.sys.restart.filter (fun k => s.sys.dies.getD (k / 4) true)
  let s := { s with sys := { s.sys with restart := l } }
  if s.sys.update.isSome && l.isEmpty then s.endUpdate true else s

/-- MDIE (R384). (DEDUCED, log 58) -/
def execMdie (m : Msg) (s : State) : Host.Outcome State Fault Refusal :=
  s.manage m (fun s box c =>
    let d := c.op 256 2
    if c.checked = false then
      match s.nextDie d with
      | none => s.modCmd box c.seq (fun c => c.stop 2 0)
      | some t => (s.leaveDie d t).modCmd box c.seq (fun c => { c with checked := true })
    else if s.dieIdle d box c.seq then
      let v := s.sys.dropDie d
      let v := if c.m.getLsbD 258 then { v with hbms := [0, 1, 2].foldl (fun (l : List Bool) i => l.set (3 * d + i) false) v.hbms } else v
      ({ s with sys := v }.trimUpdate).managed box c
    else s)

/-- MRECAL: it waits for its end; those of one stack run in arrival order (R382). -/
def execMrecal (m : Msg) (s : State) : Host.Outcome State Fault Refusal :=
  s.manage m (fun s box c =>
    if c.checked then s
    else { s.modCmd box c.seq (fun c => { c with checked := true }) with
      sys := { s.sys with recals := s.sys.recals ++ [(c.op 256 4, c.op 260 5, box, c.seq)] } })

/-- RECALIBRATION_END: the oldest recalibration of a stack ends (R382). -/
def execRecalibrationEnd (stack chan : Nat) (s : State) : Host.Outcome State Fault Refusal :=
  match firstIdx (fun r => r.1 == stack) s.sys.recals 0 with
  | none => .next s
  | some i =>
    match s.sys.recals[i]? with
    | some (_, ch, box, seq) =>
      if ch ≠ chan then .next s
      else
        let s := { s with sys := { s.sys with recals := dropIdx s.sys.recals i } }
        match s.cmd? box seq with
        | some c => .next (s.managed box c)
        | none => .next s
    | none => .next s

/-- Reads n bytes at an address word into `held`, then continues. -/
def State.manageRead (s : State) (box : Nat) (c : Cmd) (w n : Nat) (k : State → List Byte → State) : State :=
  if !memWord w then s.modCmd box c.seq (fun c => c.stop 2 0)
  else if c.held.length < n then
    s.engineRead box c s.ecc (placeOf w) c.held.length (n - c.held.length) (fun s bs =>
      s.modCmd box c.seq (fun c => { c with held := c.held ++ bs }))
  else k s c.held

/-- MFW: the image is read and verified, written as the inactive copy, and the cores take it one at a time (R385). (DESIGN CHOICE, log 61) -/
def execMfw (m : Msg) (s : State) : Host.Outcome State Fault Refusal :=
  s.manage m (fun s box c =>
    if c.checked then s
    else
      s.manageRead box c (c.op 256 64) Config.firmwareSize (fun s bs =>
        if !sm2Verify Config.rootKey (Config.firmwareSig bs) (Config.firmwareBody bs) then s.modCmd box c.seq (fun c => c.stop 8 0)
        else if s.sys.update.isSome then s
        else
          let v := if s.sys.startB then { s.sys with imgA := some bs } else { s.sys with imgB := some bs }
          { s.modCmd box c.seq (fun c => { c with checked := true, held := [] }) with
            sys := { v with update := some box, restart := (List.range 16).filter (fun k => s.sys.dies.getD (k / 4) true) } }))

/-- CORE_RESTART: a core that is between messages restarts on the new copy, or fails and stays on the old one (R385). -/
def execCoreRestart (die core : Nat) (ok : Bool) (s : State) : Host.Outcome State Fault Refusal :=
  let k := 4 * die + core
  let box := coreBox die core
  let idle : Bool := (s.boxes.getD box {}).qs.all (fun q => q.2.all (fun c => !c.started || (s.sys.update == some box && c.opc == 0x63)))
  if 4 ≤ core ∨ s.sys.restart.head? ≠ some k ∨ idle = false then .next s
  else if !ok then .next (s.endUpdate false)
  else
    let others := s.sys.copyB.filter (fun x => x != k)
    .next { s with sys := { s.sys with copyB := if s.sys.startB then others else others ++ [k], restart := s.sys.restart.drop 1 } }.trimUpdate

/-- The private half of the identity, in its range (R386). (DESIGN CHOICE, log 61) -/
def identityPrivate : Nat := 1 + Config.identitySecret % (sm2N - 2)

/-- The report of R386 without its signature. (DESIGN CHOICE, log 61) -/
def State.report (s : State) (nonce : List Byte) : List Byte :=
  let b := s.sys.copyB.contains 0
  let image := ((if b then s.sys.imgB else s.sys.imgA).getD (Config.firmwareImage b))
  let r := (s.sys.inForce.map (fun r => r.2)).getD (List.replicate 2048 0)
  nonce ++ sm2Public identityPrivate ++ sm3 image ++ sm3 (r.take 2036) ++ toBytes 8 (recordStart r)
    ++ toBytes 4 (flagBits s.sys.dies % 16 + flagBits s.sys.hbms % 2 ^ 12 * 2 ^ 4) ++ List.replicate 20 0

/-- MATTEST: the nonce is read, and the signed report is written at the result address (R386). (DESIGN CHOICE, log 61) -/
def execMattest (m : Msg) (s : State) : Host.Outcome State Fault Refusal :=
  s.manage m (fun s box c =>
    if !memWord (c.op 320 64) then s.modCmd box c.seq (fun c => c.stop 2 0)
    else if c.checked = false then
      s.manageRead box c (c.op 256 64) 32 (fun s bs =>
        let r := s.report bs
        let sig := sm2Sign identityPrivate r (tab 64 (fun i => 1 + Config.identityNonce (s.fresh + i) % (sm2N - 1)))
        { s.modCmd box c.seq (fun c => { c with checked := true, held := r ++ sig, off := 0 }) with fresh := s.fresh + 64 })
    else if c.held = [] then s.managed box c
    else
      s.engineWrite box c (placeOf (c.op 320 64)) c.off c.held (fun c n => { c with held := c.held.drop n, off := c.off + n }))

/-- MRECORD: bytes 0 to 2,031 of a new record, with START and the CRC as the core computes them (R382, R383). (DEDUCED, log 62) -/
def execMrecord (m : Msg) (s : State) : Host.Outcome State Fault Refusal :=
  s.manage m (fun s box c =>
    s.manageRead box c (c.op 256 64) 2032 (fun s bs =>
      { s with sys := s.sys.putRecord (bs.drop 8) }.modCmd box c.seq (fun c => c.stop 0 0)))

end Sys2Proof.Machine
end

