-- ==== Sys2Proof/Machine/Transport.lean ====
section
/-!
DEFINITION. The Ultra Ethernet transport (R368 to R375): its tables, its commands and what the far side answers, inbound packets,
congestion entries. What leaves on a port is not state of the package: a command holds the bytes that its packets carry.
-/

namespace Sys2Proof.Machine

/-- The inbox of the transport engine (R371). -/
def netBox : Nat := 0x6000

/-! ### Tables (R369, R370, R375) -/

/-- Reads n bytes of a table of the transport engine for a party, or says why not. Words of KIND 0 are read under `Config.tableAsid`. (DEDUCED, log 52) -/
def State.netRead (s : State) (pt : Party) (e : Ecc) (w off n : Nat) : State × Except Access Nat :=
  let p := placeOf w
  let n1 := min n (blockLeft p off)
  let part (s : State) (off n : Nat) (k : State → List Byte → State × Except Access Nat) : State × Except Access Nat :=
    match s.locate pt Config.tableAsid p off n false with
    | (s, .home h) => match s.agentRead e h n with
      | (s, some bs) => k s bs
      | (s, none) => (s, .error .lost)
    | (s, x) => (s, .error x)
  part s off n1 (fun s b1 =>
    if n1 = n then (s, .ok (ofBytes b1)) else part s (off + n1) (n - n1) (fun s b2 => (s, .ok (ofBytes (b1 ++ b2)))))

/-- PTAB and GTAB (R369). -/
def State.ptab (s : State) : Nat := s.num netTcb 8
def State.gtab (s : State) : Nat := s.num (netTcb + 16) 8

/-- KIND 0 or 3. -/
def tableOk (w : Nat) : Bool := match addrWord w with
  | some (.virt _) => true
  | some (.die _ _) => true
  | _ => false

/-- A valid peer entry (R370): V is set and no reserved bit is. (DEDUCED, log 53) -/
def peerOk (e : Nat) : Bool := bit e 152 && fld e 159 153 == 0 && fld e 255 176 == 0

/-- A group entry (R375): NRANK, ME and FIRST. (DEDUCED, log 53) -/
def groupOk (e : Nat) : Bool := fld e 127 48 == 0 && decide (1 ≤ fld e 15 0) && decide (fld e 15 0 ≤ 4096) && decide (fld e 31 16 < fld e 15 0)

/-- Continues a command with a table entry; an entry that cannot be read ends it with a status of its own, a fault enters the fault
path. -/
def State.netEntry (s : State) (c : Cmd) (w off n bad : Nat) (k : State → Nat → State) : State :=
  let pt : Party := .engine netBox c.seq
  match s.netRead pt s.ecc w off n with
  | (s, .ok e) => k s e
  | (s, .error (.fault va kind level)) =>
    match s.faultBy { party := pt, asid := Config.tableAsid, va := va, kind := kind, level := level } with
    | (s, true) => s.modCmd netBox c.seq (fun c => c.untranslated va)
    | (s, false) => s
  | (s, .error .lost) => s.modCmd netBox c.seq (fun c => c.stop 0x14 0)
  | (s, .error _) => s.modCmd netBox c.seq (fun c => c.stop bad 0)

/-! ### The command layout (R371) -/

def Cmd.netLocal (c : Cmd) : Nat := c.op 256 64
def Cmd.netLen (c : Cmd) : Nat := c.op 320 32
def Cmd.netPeer (c : Cmd) : Nat := c.op 352 12
def Cmd.netOrd (c : Cmd) : Bool := c.m.getLsbD 364
def Cmd.netRty (c : Cmd) : Nat := c.op 364 4
def Cmd.netDst (c : Cmd) : Nat := c.op 384 64

/-- NOPEER, REMOTE and TIMEOUT (R373). -/
def stRemote : Nat := 0x10
def stNoPeer : Nat := 0x11
def stTimeout : Nat := 0x12

/-- The packets of n bytes: 4,096 bytes each (R368). -/
def packetCount (n : Nat) : Nat := (n + 4095) / 4096

/-- The packets of a command. `pb` marks those that are acknowledged, `blk` counts them. -/
def Cmd.packetLen (c : Cmd) (k : Nat) : Nat := min 4096 (c.netLen - 4096 * k)
def Cmd.packets (c : Cmd) : Nat := packetCount c.netLen

/-- Checks a peer command before any packet leaves (R373); `some` is the state while it has not passed. (DEDUCED, log 53) -/
def State.netCheck (s : State) (c : Cmd) : Option State :=
  if c.checked then none
  else if c.headerWordsBad then some (s.modCmd netBox c.seq (fun c => c.stop 2 0))
  else if tableOk s.ptab = false then some (s.modCmd netBox c.seq (fun c => c.stop stNoPeer 0))
  else
    some (s.netEntry c s.ptab (32 * c.netPeer) 32 stNoPeer (fun s e =>
      s.modCmd netBox c.seq (fun c => if peerOk e then { c with checked := true } else c.stop stNoPeer 0)))

/-- A command with a peer. (DEDUCED, log 53) -/
def State.peerCommand (s : State) (m : Msg) (f : State → Cmd → State) : Host.Outcome State Fault Refusal :=
  s.command m (fun s _ c => match s.netCheck c with
    | some t => t
    | none => f s c)

/-- Reads the next bytes at LOCAL; packets leave as their bytes are held. -/
def State.netSend (s : State) (c : Cmd) : State :=
  if c.held.length < c.netLen then
    s.engineRead netBox c s.ecc (placeOf c.netLocal) c.held.length (c.netLen - c.held.length) (fun s bs =>
      s.modCmd netBox c.seq (fun c => { c with held := c.held ++ bs }))
  else s

/-- Notes packet k as placed and acknowledged; the last one ends the command (R373). (DEDUCED, log 54) -/
def Cmd.acked (c : Cmd) (k : Nat) : Cmd :=
  let c := { c with pb := c.pb ||| 2 ^ k, blk := c.blk + 1 }
  if c.blk = c.packets then { c with bytes := c.netLen }.stop 0 0 else c

def execNput (m : Msg) (s : State) : Host.Outcome State Fault Refusal := s.peerCommand m State.netSend
/-- (DEDUCED, log 54) -/
def execNpost (m : Msg) (s : State) : Host.Outcome State Fault Refusal := s.peerCommand m State.netSend

/-- NGET: the bytes of the packet that has arrived are written into LOCAL. (DEDUCED, log 54) -/
def execNget (m : Msg) (s : State) : Host.Outcome State Fault Refusal :=
  s.peerCommand m (fun s c =>
    match c.cur with
    | none => s
    | some (_, k, _) =>
      if c.held = [] then s.modCmd netBox c.seq (fun c => { c with cur := none }.acked k)
      else
        s.engineWrite netBox c (placeOf c.netLocal) (4096 * k + c.off : Nat) c.held (fun c n =>
          { c with held := c.held.drop n, off := c.off + n }))

/-! ### Collectives (R375) -/

/-- op of R375 on one element. -/
def collOp (rty a b : Nat) : Nat := if rty = 0 then a else reduceOp rty a b

/-- T(lo, n) over the values of the ranks in order. -/
def collTree (rty : Nat) : Nat → List Nat → Nat
  | 0, l => l.headD 0
  | f + 1, l =>
    match l with
    | [] => 0
    | [x] => x
    | l =>
      let h := 2 ^ Nat.log2 (l.length - 1)
      collOp rty (collTree rty f (l.take h)) (collTree rty f (l.drop h))

/-- The result of a collective on the ranks' bytes. -/
def collResult (rty len : Nat) (srcs : List (List Byte)) : List Byte :=
  let n := (reduceSize rty).getD 1
  (List.range (len / n)).flatMap (fun i => toBytes n (collTree rty 13 (srcs.map (fun b => ofBytes ((b.drop (n * i)).take n)))))

/-- Whether an earlier NCOLL of the same group stands in the same queue and has not taken its number yet (R372, R375). -/
def State.collBehind (s : State) (c : Cmd) : Bool :=
  ((s.boxes.getD netBox {}).qs.getD c.queue []).any (fun d => decide (d.seq < c.seq) && d.opc == 0x43 && d.netPeer == c.netPeer
    && !d.free && !c.free && !d.checked && d.aux == 0 && d.phase == 0)

/-- Checks a collective: its group, then the entries of the other ranks in order (R370, R373, R375). `aux` holds NRANK, `run` ME, `blk` the
number of the collective in its group, `pb` FIRST, `off` the ranks checked. (DEDUCED, log 53) -/
def State.collCheck (s : State) (c : Cmd) : Option State :=
  if c.checked then none
  else if c.aux = 0 then
    if s.collBehind c then some s
    else if c.headerWordsBad || !tableOk s.gtab then some (s.modCmd netBox c.seq (fun c => c.stop 2 0))
    else
      some (s.netEntry c s.gtab (16 * c.netPeer) 16 2 (fun s e =>
        if groupOk e then
          let n := s.net.colls.getD c.netPeer 0
          { s.modCmd netBox c.seq (fun c => { c with aux := fld e 15 0, run := fld e 31 16, sub := 0, blk := n, pb := fld e 47 32 }) with
            net := { s.net with colls := s.net.colls.set c.netPeer (n + 1) } }
        else s.modCmd netBox c.seq (fun c => c.stop 2 0)))
  else if c.off = c.aux then some (s.modCmd netBox c.seq (fun c => { c with checked := true, off := 0 }))
  else if c.off = c.run then some (s.modCmd netBox c.seq (fun c => { c with off := c.off + 1 }))
  else if tableOk s.ptab = false then some (s.modCmd netBox c.seq (fun c => c.stop stNoPeer 0))
  else
    let i := c.pb + c.off
    if s.npeer ≤ i then some (s.modCmd netBox c.seq (fun c => c.stop stNoPeer 0))
    else
      some (s.netEntry c s.ptab (32 * i) 32 stNoPeer (fun s e =>
        s.modCmd netBox c.seq (fun c => if peerOk e then { c with off := c.off + 1 } else c.stop stNoPeer 0)))

/-- The collective has its result: DST takes it. (DEDUCED, log 55) -/
def Cmd.joined (c : Cmd) (bs : List Byte) : Cmd := { c with fresh := false, held := bs }

/-- NCOLL: SRC is read; once every rank's bytes are known the result is written to DST (R375). (DEDUCED, log 55) -/
def execNcoll (m : Msg) (s : State) : Host.Outcome State Fault Refusal :=
  s.command m (fun s box c =>
    match s.collCheck c with
    | some t => t
    | none =>
      if c.fresh then
        if c.held.length < c.netLen then s.netSend c
        else if c.aux = 1 then s.modCmd box c.seq (fun c => c.joined c.held)
        else s
      else if c.held = [] then s.modCmd box c.seq (fun c => c.stop 0 0)
      else
        s.engineWrite box c (placeOf c.netDst) c.bytes c.held (fun c n => { c with held := c.held.drop n }))

/-! ### What the far side answers (R372, R373) -/

/-- Whether no port is up (R368, R377). (DEDUCED, log 55) -/
def State.netDown (s : State) : Bool := (List.range 8).all (fun q => s.net.portsDown.contains q)

/-- A started command that waits for the network. -/
def State.netWaiting (s : State) (q : Nat) : Option Cmd :=
  match s.cmd? netBox q with
  | none => none
  | some c => if c.started && c.checked && c.phase == 0 && !s.faulting (.engine netBox q) && c.opc != 8 then some c else none

/-- Commands of the same queue to the same peer with ORD = 1 that come before and have bytes to place or a subtraction to make (R372). (DEDUCED, log 32) -/
def State.ordBefore (s : State) (c : Cmd) : Bool :=
  ((s.boxes.getD netBox {}).qs.getD c.queue []).any (fun d =>
    decide (d.seq < c.seq) && decide (0x40 ≤ d.opc) && decide (d.opc ≤ 0x42) && d.netOrd && d.netPeer == c.netPeer && decide (d.phase < 5))

/-- Whether packet k of a command can be acknowledged now: it has left, it is not acknowledged yet, and with ORD = 1 it is next. -/
def State.ackable (s : State) (c : Cmd) (k : Nat) : Bool :=
  decide (k < c.packets) && !bit c.pb k && c.cur.isNone && (c.opc == 0x41 || decide (4096 * k + c.packetLen k ≤ c.held.length))
    && (!c.netOrd || (k == c.blk && !s.ordBefore c))

/-- Packet k is acknowledged: the sender's part is done, or the bytes it brought are to be written. -/
def Cmd.answered (c : Cmd) (k : Nat) (data : List Byte) : Cmd :=
  if c.opc = 0x41 then { c with cur := some (0, k, 0), held := data, off := 0 } else c.acked k

/-- The bytes that other packets in flight may have placed when a command ends early: some number of them. (DEDUCED, log 54) -/
def Cmd.early (c : Cmd) (status free left : Nat) : Cmd :=
  let done := if c.opc = 0x43 ∨ c.opc = 0x41 then c.bytes else min (4096 * c.blk) c.netLen
  let more := if c.opc = 0x43 ∨ c.opc = 0x41 then 0 else c.netLen - done - left
  { c with bytes := done + free % (more + 1) }.stop status 0

/-- Counts packets of a peer as acknowledged, some of them marked (R374). (DEDUCED, log 55) -/
def State.countAcks (s : State) (peer n : Nat) : State :=
  let a := s.net.acks.getD peer (0, 0)
  { s with
    fresh := s.fresh + 1
    net := { s.net with acks := s.net.acks.set peer (a.1 + n, a.2 + Config.freeNat s.fresh % (n + 1)) } }

/-- The pairs of ranks between which values and results of a collective go: T(lo, n) is computed at lo from what lo + h sends (R375). -/
def collEdges : Nat → Nat → Nat → List (Nat × Nat)
  | 0, _, _ => []
  | f + 1, lo, n =>
    if n ≤ 1 then []
    else
      let h := 2 ^ Nat.log2 (n - 1)
      (lo, lo + h) :: (collEdges f lo h ++ collEdges f (lo + h) (n - h))

/-- The packets of a collective that the ranks next to this one in the tree have acknowledged (R374, R375). (DEDUCED, log 55) -/
def State.collAcks (s : State) (c : Cmd) (first : Nat) : State :=
  (collEdges 13 0 c.aux).foldl (fun s e =>
    if e.1 = c.run then s.countAcks (first + e.2) c.packets else if e.2 = c.run then s.countAcks (first + e.1) c.packets else s) s

/-- TRANSPORT_ACKNOWLEDGEMENT (R372, R373, R375). (DEDUCED, log 54) -/
def execTransportAcknowledgement (q : Nat) (ack : NetAck) (s : State) : Host.Outcome State Fault Refusal :=
  match (if s.netDown then none else s.netWaiting q) with
  | none => .next s
  | some c =>
    let upd (f : Cmd → Cmd) : Host.Outcome State Fault Refusal := .next (s.modCmd netBox q f)
    let ackd (f : Cmd → Cmd) : Host.Outcome State Fault Refusal := .next ((s.countAcks c.netPeer 1).modCmd netBox q f)
    let free := Config.freeNat s.fresh
    let dataOk (k : Nat) (data : List Byte) : Bool := c.opc != 0x41 || data.length == c.packetLen k
    match ack with
    | .placed k data => if c.opc ≠ 0x43 ∧ s.ackable c k ∧ dataOk k data then ackd (fun c => c.answered k data) else .next s
    | .clamped k data =>
      if c.opc ≠ 0x43 ∧ s.ackable c k ∧ dataOk k data ∧ c.m.getLsbD 474 then
        ackd (fun c => ({ c with status := if c.status = 0 then 7 else c.status }).answered k data)
      else .next s
    | .refused k =>
      if c.opc ≠ 0x43 ∧ s.ackable c k then
        .next ({ s with fresh := s.fresh + 1 }.modCmd netBox q (fun c => c.early stRemote free (c.packetLen k)))
      else .next s
    | .rejected k ring =>
      if c.opc = 0x42 ∧ c.blk = 0 ∧ s.ackable c k then upd (fun c => if ring then c.stop 5 (c.op 384 24) else c.stop 2 0) else .next s
    | .ranks k srcs =>
      if c.opc = 0x43 ∧ c.fresh ∧ c.blk = k ∧ c.held.length = c.netLen ∧ c.aux ≠ 1 ∧ srcs.length = c.aux
          ∧ srcs.all (fun b => b.length == c.netLen) then
        .next ((s.collAcks c c.pb).modCmd netBox q (fun c => c.joined (collResult c.netRty c.netLen (srcs.set c.run c.held))))
      else .next s
    | .disagree k =>
      if c.opc = 0x43 ∧ c.fresh ∧ c.blk = k ∧ c.aux ≠ 1 then upd (fun c => c.stop 2 0) else .next s

/-- TIMEOUT: retransmission gives up (R373). (DEDUCED, log 54) -/
def execTimeout (q : Nat) (s : State) : Host.Outcome State Fault Refusal :=
  match s.netWaiting q with
  | none => .next s
  | some c =>
    if c.cur.isSome ∨ (c.opc = 0x43 ∧ (c.aux = 1 ∨ c.fresh = false)) then .next s
    else
      let free := Config.freeNat s.fresh
      .next ({ s with fresh := s.fresh + 1 }.modCmd netBox q (fun c => c.early stTimeout free 0))

/-! ### Inbound packets (R370, R372) -/

/-- The party under which the transport engine serves a packet. -/
def netParty : Party := .engine netBox 0

/-- The first valid entry, among those from i on, that a packet's source and job match (R370). -/
def State.findPeer (s : State) (p : Packet) : List Nat → State × Option (Nat × Nat)
  | [] => (s, none)
  | i :: r =>
    match s.netRead netParty .clean s.ptab (32 * i) 32 with
    | (s, .ok e) =>
      if peerOk e ∧ fld e 127 0 = p.fa.toNat ∧ fld e 151 128 = p.job.toNat then (s, some (i, fld e 175 160)) else s.findPeer p r
    | (s, .error _) => s.findPeer p r

/-- The packet is refused (R370). -/
def State.netRefuse (s : State) : State := s.putNum (netTcb + 56) 4 (s.num (netTcb + 56) 4 + 1)

/-- The homes of a packet's bytes, under the sender's INASID; none on any fault. -/
def State.netHomes (s : State) (asid : Nat) (wr : Bool) : List (Nat × Nat × Nat) → State × Option (List (Nat × Nat))
  | [] => (s, some [])
  | (a, n, _) :: r =>
    match s.translate netParty asid a wr false with
    | (s, .error _) => (s, none)
    | (s, .ok pa) =>
      match s.netHomes asid wr r with
      | (s, some l) => (s, some ((paKey pa, n) :: l))
      | (s, none) => (s, none)

/-- Writes bytes at homes, part by part. (DEDUCED, log 55) -/
def State.netPlace : State → List (Nat × Nat) → List Byte → State
  | s, [], _ => s
  | s, (h, n) :: r, bs => (s.stored h (bs.take n)).netPlace r (bs.drop n)

/-- The remote subtraction, after the bytes it counts (R273, R372). -/
def State.netSubtract (s : State) (p : Packet) (n : Nat) : State :=
  match p.bar with
  | none => s
  | some (die, off) =>
    match s.barSubtract (dieKey die off) n with
    | (s, false) => s
    | (s, true) => s.netUnder

/-- Whether a packet can be one of R368 and R371: its sizes, and its barrier's place. -/
def packetOk (p : Packet) : Bool :=
  let n := if p.kind == .get then p.len else p.data.length
  decide (1 ≤ n) && decide (n ≤ 4096) && decide (p.ringDie < 4)
    && (p.kind != .post || (p.off % 4096 == 0 && decide (p.off < p.len) && p.data.length == min 4096 (p.len - p.off) && decide (p.len < 2 ^ 32)))
    && (match p.bar with
        | none => true
        | some (die, off) => decide (die < 4) && off % 32 == 0 && decide (off < 2 ^ 24))

/-- The descriptor's offset of a packet of a record, and whether the packet belongs to a record that is arriving. -/
def packetRing (p : Packet) : Nat := p.addr.toNat % 2 ^ 24
def Post.takes (r : Post) (p : Packet) : Bool :=
  r.fa == p.fa && r.job == p.job && r.msg == p.msg && r.die == p.ringDie && r.off == packetRing p

/-- Places a packet of a record at its offset, the first with the record's word, the last with its padding; TAIL advances once all have arrived
(R177, R368, R371). `i` is the sender's index. (DEDUCED, log 55) -/
def State.postPart (s : State) (p : Packet) (i : Nat) (r : Post) : State :=
  let k := dieKey r.die r.off
  let n := recordLen p.len
  let tail := r.start
  let got := r.got ++ [p.off]
  let others := s.net.posts.filter (fun q => !q.takes p)
  let bs := (if p.off = 0 then toBytes 8 (p.len + i * 2 ^ 32) else []) ++ p.data
    ++ (if p.off + p.data.length = p.len then List.replicate (n - 8 - p.len) 0 else [])
  let s := s.ringBytes r.die (s.num k 4) (s.num (k + 4) 4) (tail + (if p.off = 0 then 0 else 8 + p.off)) bs
  let s := if got.length = packetCount p.len then { s with net := { s.net with posts := others } }.writeNum (k + 8) 4 ((tail + n) % 2 ^ 32)
    else { s with net := { s.net with posts := others ++ [{ r with got := got }] } }
  s.netSubtract p p.data.length

/-- A packet of a record: placed, or, as its record finds the ring, answered with BADPARAM or RING, or not taken yet (R177, R371). A record whose
other packets no longer come makes room for the next at some time. (DEDUCED, log 55) -/
def State.postPacket (s : State) (p : Packet) (i : Nat) : State :=
  let k := dieKey p.ringDie (packetRing p)
  let size := s.num (k + 4) 4
  let tail := s.num (k + 8) 4
  let n := recordLen p.len
  match s.net.posts.find? (fun r => r.takes p) with
  | some r => if r.got.contains p.off then s else s.postPart p i r
  | none =>
    if s.ringHeld p.ringDie (packetRing p) then
      { s with
        fresh := s.fresh + 1
        net := if Config.freeBit s.fresh then
            { s.net with posts := s.net.posts.filter (fun r => !(r.die == p.ringDie && r.off == (packetRing p))) } else s.net }
    else if !s.ringOk p.ringDie (packetRing p) ∨ size < n ∨ size < (tail + 2 ^ 32 - s.num (k + 12) 4) % 2 ^ 32 + n then s
    else s.postPart p i { fa := p.fa, job := p.job, msg := p.msg, die := p.ringDie, off := packetRing p, start := tail }

/-- INBOUND_PACKET: a packet is placed whole, or refused (R370, R372). A record for which the ring has no room is not taken yet. (DEDUCED, log 55) -/
def execInboundPacket (p : Packet) (s : State) : Host.Outcome State Fault Refusal :=
  if packetOk p = false ∨ s.netDown then .next s
  else if tableOk s.ptab = false then .next s.netRefuse
  else
    match s.findPeer p (List.range s.npeer) with
    | (s, none) => .next s.netRefuse
    | (s, some (i, asid)) =>
      match p.kind with
      | .post =>
        .next (s.postPacket p i)
      | k =>
        let wr := k == .put
        let n := if wr then p.data.length else p.len
        if 2 ^ 49 < p.addr.toNat + n then .next s.netRefuse
        else
          match s.netHomes asid wr (parts p.addr.toNat n) with
          | (s, none) => .next s.netRefuse
          | (s, some hs) => .next ((if wr then s.netPlace hs p.data else s.countAcks i 1).netSubtract p n)

/-! ### Congestion entries (R374) -/

/-- The entry of a peer: CWND and SRTT as measured, ECN and ACKED as counted (R374). (DEDUCED, log 55) -/
def State.congestion (s : State) (peer measured : Nat) : Nat :=
  let a := s.net.acks.getD peer (0, 0)
  measured % 2 ^ 64 + a.2 % 2 ^ 32 * 2 ^ 64 + a.1 % 2 ^ 32 * 2 ^ 96

/-- CONGESTION_ENTRY_WRITE: the entry of a peer, as one aligned store on every die, at most once in 1,024 clocks. (DEDUCED, log 55) -/
def execCongestionEntryWrite (peer : Nat) (entry : BitVec 128) (s : State) : Host.Outcome State Fault Refusal :=
  let off := s.num (netTcb + 48) 4 + 16 * peer
  let early : Bool := match s.net.wrote.get? peer with
    | none => false
    | some t => decide (s.clk.toNat < t + 1024)
  if s.npeer ≤ peer ∨ off % 16 ≠ 0 ∨ 2 ^ 24 < off + 16 ∨ early then .next s
  else
    let s := (List.range 4).foldl (fun s d => s.write (dieKey d off) (toBytes 16 (s.congestion peer entry.toNat))) s
    .next { s with net := { s.net with wrote := s.net.wrote.set peer s.clk.toNat } }

end Sys2Proof.Machine
end

