-- ==== Sys2Proof/Machine/Vector.lean ====
section
/-!
DEFINITION. Classes 0x3, 0x4 and 0x5: vector integer, vector floating-point, permute, reduce, scan and mask instructions (R112
to R126).
-/

namespace Sys2Proof.Machine

/-- A word whose result is a v register: its sources are those listed and the mask (R107, R108). -/
def State.vecTo (s : State) (w : Fields) (srcs : List Operand) (ty : Nat) (f : Ctx → List Nat) : Res :=
  s.alu (srcs ++ Fields.maskSrc w) [w.d] (fun c => c.putV w ty (f c))

/-- Elementwise on one source. -/
def State.vec1 (s : State) (w : Fields) (f : Nat → Nat) : Res :=
  s.vecTo w [w.a] w.ty.toNat (fun c => (c.elts w w.ty.toNat w.a).map f)

/-- Elementwise on two sources. -/
def State.vec2 (s : State) (w : Fields) (f : Nat → Nat → Nat) : Res :=
  s.vecTo w [w.a, w.b] w.ty.toNat (fun c => List.zipWith f (c.elts w w.ty.toNat w.a) (c.elts w w.ty.toNat w.b))

/-- Three lists together. -/
def zip3With (f : Nat → Nat → Nat → Nat) : List Nat → List Nat → List Nat → List Nat
  | a :: as, b :: bs, c :: cs => f a b c :: zip3With f as bs cs
  | _, _, _ => []

/-- Elementwise on three sources. -/
def State.vec3 (s : State) (w : Fields) (f : Nat → Nat → Nat → Nat) : Res :=
  s.vecTo w [w.a, w.b, w.c] w.ty.toNat (fun c =>
    zip3With f (c.elts w w.ty.toNat w.a) (c.elts w w.ty.toNat w.b) (c.elts w w.ty.toNat w.c))

/-- An exact integer operation on elements, wrapped or clamped once (R37, R113). -/
def State.vint2 (s : State) (w : Fields) (f : Int → Int → Int) : Res :=
  s.vec2 w (fun a b => toTy w.ty.toNat (Fields.sat w) (f (tyVal w.ty.toNat a) (tyVal w.ty.toNat b)))

def execVadd (w : Fields) (s : State) : Host.Outcome State Fault Refusal := s.word w (fun s => s.vint2 w (fun a b => a + b))
def execVsub (w : Fields) (s : State) : Host.Outcome State Fault Refusal := s.word w (fun s => s.vint2 w (fun a b => a - b))
def execVmul (w : Fields) (s : State) : Host.Outcome State Fault Refusal := s.word w (fun s => s.vint2 w (fun a b => a * b))
def execVmulh (w : Fields) (s : State) : Host.Outcome State Fault Refusal :=
  s.word w (fun s => s.vint2 w (mulhInt (tyBits w.ty.toNat)))
def execVmadd (w : Fields) (s : State) : Host.Outcome State Fault Refusal :=
  s.word w (fun s => s.vec3 w (fun a b c => toTy w.ty.toNat (Fields.sat w)
    (tyVal w.ty.toNat a * tyVal w.ty.toNat b + tyVal w.ty.toNat c)))

/-- Pairs of elements (R114). -/
def pairs2 : List Nat → List (Nat × Nat)
  | a :: b :: r => (a, b) :: pairs2 r
  | _ => []

/-- The type of twice the width and the same signedness (R114). -/
def wider (ty : Nat) : Nat := ty + 1

/-- The pairwise widening forms (R114). -/
def State.widen (s : State) (w : Fields) (f : Int → Int → Int → Int) : Res :=
  let ty := w.ty.toNat
  s.vecTo w [w.a, w.b] (wider ty) (fun c =>
    List.zipWith (fun p b => toTy (wider ty) (Fields.sat w) (f (tyVal ty p.1) (tyVal ty p.2) (tyVal (wider ty) b)))
      (pairs2 (c.elts w ty w.a)) (c.elts w (wider ty) w.b))

def execVadds (w : Fields) (s : State) : Host.Outcome State Fault Refusal := s.word w (fun s => s.widen w (fun x y b => x + y + b))
def execVsubs (w : Fields) (s : State) : Host.Outcome State Fault Refusal := s.word w (fun s => s.widen w (fun x y b => b - x - y))
def execVand (w : Fields) (s : State) : Host.Outcome State Fault Refusal := s.word w (fun s => s.vec2 w (fun a b => a &&& b))
def execVor (w : Fields) (s : State) : Host.Outcome State Fault Refusal := s.word w (fun s => s.vec2 w (fun a b => a ||| b))
def execVxor (w : Fields) (s : State) : Host.Outcome State Fault Refusal := s.word w (fun s => s.vec2 w (fun a b => a ^^^ b))
def execVshl (w : Fields) (s : State) : Host.Outcome State Fault Refusal :=
  s.word w (fun s => s.vec2 w (fun a b => a <<< (b % tyBits w.ty.toNat)))
def execVshr (w : Fields) (s : State) : Host.Outcome State Fault Refusal :=
  s.word w (fun s => s.vec2 w (fun a b => a >>> (b % tyBits w.ty.toNat)))
def execVsar (w : Fields) (s : State) : Host.Outcome State Fault Refusal :=
  s.word w (fun s => s.vec2 w (fun a b => sarBits (tyBits w.ty.toNat) a b))
def execVmin (w : Fields) (s : State) : Host.Outcome State Fault Refusal := s.word w (fun s => s.vint2 w min)
def execVmax (w : Fields) (s : State) : Host.Outcome State Fault Refusal := s.word w (fun s => s.vint2 w max)
/-- (DEDUCED, log 24) -/
def execVabs (w : Fields) (s : State) : Host.Outcome State Fault Refusal :=
  s.word w (fun s => s.vec1 w (fun a => toTy w.ty.toNat (Fields.sat w) ((tyVal w.ty.toNat a).natAbs : Int)))

/-- A compare into a mask (R73, R113, R116). -/
def State.vcmp2 (s : State) (w : Fields) : Res :=
  s.alu ([w.a, w.b] ++ Fields.maskSrc w) [] (fun c =>
    c.putM w w.ty.toNat (List.zipWith (fun a b => cond w.ty.toNat (w.fn.toNat % 16) a b)
      (c.elts w w.ty.toNat w.a) (c.elts w w.ty.toNat w.b)))

def execVcmp (w : Fields) (s : State) : Host.Outcome State Fault Refusal := s.word w (fun s => s.vcmp2 w)
def execVsel (w : Fields) (s : State) : Host.Outcome State Fault Refusal :=
  s.word w (fun s => s.vecTo w [w.a, w.b, w.c] w.ty.toNat (fun c =>
    let m := (c.mask w.c).toNat
    zip3With (fun j a b => if bit m (govern w.ty.toNat j) then a else b) (List.range (nElems w.ty.toNat))
      (c.elts w w.ty.toNat w.a) (c.elts w w.ty.toNat w.b)))

/-- The sum of eight products (R57, R115). -/
def dot8 (sg : Bool) (a b : Nat) (j : Nat) : Int :=
  let v (x i : Nat) : Int := if sg then sgn 8 (elem 8 x i) else (elem 8 x i : Int)
  ((List.range 8).map (fun k => v a (8 * j + k) * v b (8 * j + k))).foldl (· + ·) 0

/-- A source of VDOT read as 256 bytes: a scalar gives its low byte to every element (R107, R115). -/
def Ctx.bytes256 (c : Ctx) (w : Fields) (o : Operand) : Nat :=
  if Operand.isVec o then (c.vec o).toNat
  else pack 8 (List.replicate 256 (c.scalar w 4 o))

def execVdot (w : Fields) (s : State) : Host.Outcome State Fault Refusal :=
  s.word w (fun s => s.vecTo w [w.a, w.b, w.c] w.ty.toNat (fun c =>
    let ty := w.ty.toNat
    let a := c.bytes256 w w.a
    let b := c.bytes256 w w.b
    let cs := c.elts w ty w.c
    List.zipWith (fun j x => if j < 32 then toTy ty (Fields.sat w) (tyVal ty x + dot8 (isSigned ty) a b j) else 0)
      (List.range (nElems ty)) cs))
def execVclz (w : Fields) (s : State) : Host.Outcome State Fault Refusal := s.word w (fun s => s.vec1 w (clzBits (tyBits w.ty.toNat)))
def execVpopc (w : Fields) (s : State) : Host.Outcome State Fault Refusal :=
  s.word w (fun s => s.vec1 w (popCount (tyBits w.ty.toNat)))

/-! ### Floating point (R116, R117) -/

/-- Elementwise floating point on two sources. -/
def State.vfp2 (s : State) (w : Fields) (f : Fmt → Nat → Nat → Nat) : Res := s.vec2 w (f (tyFmt w.ty.toNat))

/-- Elementwise floating point on one value. -/
def State.vfp1 (s : State) (w : Fields) (f : Fmt → FVal → Nat) : Res :=
  s.vec1 w (fun a => f (tyFmt w.ty.toNat) (FVal.ofCode (tyFmt w.ty.toNat) a))

def execVfadd (w : Fields) (s : State) : Host.Outcome State Fault Refusal :=
  s.word w (fun s => s.vfp2 w (fun f => faddc f (Fields.rnd w) (Fields.sat w)))
def execVfsub (w : Fields) (s : State) : Host.Outcome State Fault Refusal :=
  s.word w (fun s => s.vfp2 w (fun f => fsubc f (Fields.rnd w) (Fields.sat w)))
def execVfmul (w : Fields) (s : State) : Host.Outcome State Fault Refusal :=
  s.word w (fun s => s.vfp2 w (fun f => fmulc f (Fields.rnd w) (Fields.sat w)))
def execVffma (w : Fields) (s : State) : Host.Outcome State Fault Refusal :=
  s.word w (fun s => s.vec3 w (ffmac (tyFmt w.ty.toNat) (Fields.rnd w) (Fields.sat w)))
def execVfmin (w : Fields) (s : State) : Host.Outcome State Fault Refusal :=
  s.word w (fun s => s.vfp2 w (fun f => fminmax f false))
def execVfmax (w : Fields) (s : State) : Host.Outcome State Fault Refusal :=
  s.word w (fun s => s.vfp2 w (fun f => fminmax f true))
def execVfcmp (w : Fields) (s : State) : Host.Outcome State Fault Refusal := s.word w (fun s => s.vcmp2 w)
def execVfexp2 (w : Fields) (s : State) : Host.Outcome State Fault Refusal :=
  s.word w (fun s => s.vfp1 w (fun f => fexp2 f (Fields.rnd w) (Fields.sat w)))
def execVflog2 (w : Fields) (s : State) : Host.Outcome State Fault Refusal :=
  s.word w (fun s => s.vfp1 w (fun f => flog2 f (Fields.rnd w) (Fields.sat w)))
def execVfrcp (w : Fields) (s : State) : Host.Outcome State Fault Refusal :=
  s.word w (fun s => s.vfp1 w (fun f => frcp f (Fields.rnd w) (Fields.sat w)))
def execVfrsq (w : Fields) (s : State) : Host.Outcome State Fault Refusal :=
  s.word w (fun s => s.vfp1 w (fun f => frsq f (Fields.rnd w) (Fields.sat w)))
def execVfsig (w : Fields) (s : State) : Host.Outcome State Fault Refusal :=
  s.word w (fun s => s.vfp1 w (fun f => fsig f (Fields.rnd w) (Fields.sat w)))

/-- The exact value of code j of the k4 layout, the scale not applied (R49, R118, R119). -/
def k4Val (x j : Nat) : FVal :=
  let h := j / 128
  let code := elem 4 x (256 * h + j % 128)
  if code = 8 then FVal.ofInt false (sgn 8 (elem 8 x (128 * h + 64 + j % 128 / 32))) (-3)
  else FVal.ofCode .e2m1 code

/-- A k4 source element converted to a type, after its modifier (R66, R118). -/
def k4Conv (dst : Nat) (r : Rnd) (sat : Bool) (mod : Nat) (v : FVal) : Nat :=
  let v := if mod = 1 then v.neg else if mod = 2 then v.abs else v
  match Fmt.ofTy dst with
  | some f => roundVal f r sat v
  | none => toTy dst true ((v.toInt r).getD 0)

/-- Replaces the elements of a v register where given (R118). -/
def vpatch (ty : Nat) (act : List Bool) (new : List (Option Nat)) (old : Vec) : Vec :=
  let olds := elems (tyBits ty) (nElems ty) old.toNat
  let pick (e : Bool × Option Nat × Nat) : Nat := if e.1 then e.2.1.getD e.2.2 else e.2.2
  BitVec.ofNat 2048 (pack (tyBits ty) ((act.zip (new.zip olds)).map pick))

def execVcvt (w : Fields) (s : State) : Host.Outcome State Fault Refusal :=
  s.word w (fun s => s.alu ([w.a] ++ Fields.maskSrc w) [w.d] (fun c =>
    let src := w.fn.toNat / 16
    let dst := w.ty.toNat
    let ns := nElems src
    let nd := nElems dst
    let k := (immOf w w.b).toNat
    let vals : List Nat :=
      if src = 14 then
        let x := (c.vec w.a).toNat
        tab ns (fun j => k4Conv dst (Fields.rnd w) (Fields.sat w) w.a.mod.toNat (k4Val x j))
      else (c.elts w src w.a).map (convert src dst (Fields.rnd w) (Fields.sat w))
    let at' (dj : Nat) : Option Nat :=
      if nd ≤ ns then vals[k * nd + dj]?
      else if k * ns ≤ dj ∧ dj < k * ns + ns then vals[dj - k * ns]? else none
    c.arch.wv w.d.idx.toNat (vpatch dst (c.active w dst) (tab nd at') (c.arch.rv w.d.idx.toNat))))

/-- The floor of log2 of m × 2^e for m > 0. -/
def flog (m : Nat) (e : Int) : Int := (Nat.log2 m : Int) + e

/-- One block of VQK4 (R120): the codes, the alt byte, the scale. -/
def quantBlock (xs : List FVal) : List Nat × Nat × Nat :=
  let bad (v : FVal) : Bool := match v with
    | .fin _ _ _ => false
    | _ => true
  let zero := List.replicate 32 0
  if xs.any bad then (zero, 0, 255)
  else
    let mags := xs.map FVal.abs
    let big := mags.foldl (fun a b => if a.cmp b == .lt then b else a) (.fin false 0 0)
    match big with
    | .fin _ 0 _ => (zero, 0, 0)
    | .fin _ m e =>
      let js := (firstIdx (fun v => v.cmp big == .eq) mags 0).getD 0
      let second := (dropIdx mags js).foldl (fun a b => if a.cmp b == .lt then b else a) (.fin false 0 0)
      let sc := flog m e - 3
      let sc := match second with
        | .fin _ 0 _ => sc
        | .fin _ m2 e2 => max sc (flog m2 e2 - 2)
        | _ => sc
      let sc := max sc (-127)
      let scale (v : FVal) (d : Int) : FVal := match v with
        | .fin n m e => .fin n m (e + d)
        | v => v
      let code (k : Nat) (v : FVal) : Nat :=
        if k = js then 8
        else
          let q := roundVal .e2m1 .rne false (scale v (-sc))
          if q = 8 then 0 else q
      let t := toTy 0 true (((scale ((xs[js]?).getD .nan) (3 - sc)).toInt .rne).getD 0)
      (List.zipWith code (List.range 32) xs, t, (sc + 127).toNat)
    | _ => (zero, 0, 255)

/-- The k4 layout of eight blocks (R119). -/
def k4Layout (bs : List (List Nat × Nat × Nat)) : Nat :=
  let half (h : Nat) : Nat :=
    let b := (bs.drop (4 * h)).take 4
    pack 4 (b.flatMap (fun x => x.1)) + pack 8 (b.map (fun x => x.2.1)) * 2 ^ 512 + pack 8 (b.map (fun x => x.2.2)) * 2 ^ 544
  half 0 + half 1 * 2 ^ 1024

def execVqk4 (w : Fields) (s : State) : Host.Outcome State Fault Refusal :=
  s.word w (fun s => s.alu [w.a, w.b] [w.d] (fun c =>
    let xs := ((c.elts w 9 w.a) ++ (c.elts w 9 w.b)).map (FVal.ofCode .bf16)
    c.arch.wv w.d.idx.toNat (BitVec.ofNat 2048 (k4Layout (tab 8 (fun g => quantBlock ((xs.drop (32 * g)).take 32)))))))

/-! ### Permute (R121, R122) -/

/-- An index operand: an unsigned 64-bit value modulo N (R121). -/
def Ctx.index (c : Ctx) (w : Fields) (o : Operand) : Nat := (c.raw w o).toNat % nElems w.ty.toNat

/-- The elements of a v register or port without modifiers. -/
def Ctx.plain (c : Ctx) (ty : Nat) (o : Operand) : List Nat := elems (tyBits ty) (nElems ty) (c.vec o).toNat

def execVbcast (w : Fields) (s : State) : Host.Outcome State Fault Refusal :=
  s.word w (fun s =>
    let v := Operand.isVec w.a
    s.vecTo w (if v then [w.a, w.b] else [w.a]) w.ty.toNat (fun c =>
      List.replicate (nElems w.ty.toNat)
        (if v then (c.plain w.ty.toNat w.a).getD (c.index w w.b) 0 else c.scalar w w.ty.toNat w.a)))
def execVins (w : Fields) (s : State) : Host.Outcome State Fault Refusal :=
  s.word w (fun s => s.alu [w.a, w.b] [w.d] (fun c =>
    let n := tyBits w.ty.toNat
    let old := (c.arch.rv w.d.idx.toNat).toNat
    c.arch.wv w.d.idx.toNat (BitVec.ofNat 2048 (putFld old (n * c.index w w.b) n (c.scalar w w.ty.toNat w.a)))))
def execVext (w : Fields) (s : State) : Host.Outcome State Fault Refusal :=
  s.word w (fun s => s.alu [w.a, w.b] [w.d] (fun c =>
    c.putS w (extTy w.ty.toNat ((c.plain w.ty.toNat w.a).getD (c.index w w.b) 0))))
def execVperm (w : Fields) (s : State) : Host.Outcome State Fault Refusal :=
  s.word w (fun s => s.vecTo w [w.a, w.b] w.ty.toNat (fun c =>
    let a := c.elts w w.ty.toNat w.a
    (c.elts w w.ty.toNat w.b).map (fun i => a.getD (i % nElems w.ty.toNat) 0)))
def execVslide (w : Fields) (s : State) : Host.Outcome State Fault Refusal :=
  s.word w (fun s => s.vecTo w [w.a, w.b, w.c] w.ty.toNat (fun c =>
    let l := c.elts w w.ty.toNat w.a ++ c.elts w w.ty.toNat w.b
    (l.drop (c.index w w.c)).take (nElems w.ty.toNat)))
def execVzip (w : Fields) (s : State) : Host.Outcome State Fault Refusal :=
  s.word w (fun s => s.vecTo w [w.a, w.b] w.ty.toNat (fun c =>
    let n := nElems w.ty.toNat
    let h := (immOf w w.c).toNat
    let a := c.elts w w.ty.toNat w.a
    let b := c.elts w w.ty.toNat w.b
    tab n (fun j => (if j % 2 = 0 then a else b).getD (h * (n / 2) + j / 2) 0)))
def execVunzip (w : Fields) (s : State) : Host.Outcome State Fault Refusal :=
  s.word w (fun s => s.vecTo w [w.a, w.b] w.ty.toNat (fun c =>
    let l := c.elts w w.ty.toNat w.a ++ c.elts w w.ty.toNat w.b
    let h := (immOf w w.c).toNat
    tab (nElems w.ty.toNat) (fun i => l.getD (2 * i + h) 0)))

/-- The selected elements, packed (R122). -/
def compress : List Bool → List Nat → List Nat
  | true :: bs, x :: xs => x :: compress bs xs
  | false :: bs, _ :: xs => compress bs xs
  | _, _ => []

/-- The elements spread to the selected places, zero elsewhere (R122). -/
def expand : List Bool → List Nat → List Nat
  | true :: bs, x :: xs => x :: expand bs xs
  | false :: bs, xs => 0 :: expand bs xs
  | true :: bs, [] => 0 :: expand bs []
  | [], _ => []

/-- The governing bits of a mask operand (R106). -/
def Ctx.sel (c : Ctx) (ty : Nat) (o : Operand) : List Bool :=
  let m := (c.mask o).toNat
  tab (nElems ty) (fun j => bit m (govern ty j))

def execVcompr (w : Fields) (s : State) : Host.Outcome State Fault Refusal :=
  s.word w (fun s => s.alu [w.a, w.c] [w.d] (fun c =>
    let n := nElems w.ty.toNat
    let l := compress (c.sel w.ty.toNat w.c) (c.elts w w.ty.toNat w.a)
    c.arch.wv w.d.idx.toNat (BitVec.ofNat 2048 (pack (tyBits w.ty.toNat) ((l ++ List.replicate n 0).take n)))))
def execVexpnd (w : Fields) (s : State) : Host.Outcome State Fault Refusal :=
  s.word w (fun s => s.alu [w.a, w.c] [w.d] (fun c =>
    c.arch.wv w.d.idx.toNat (BitVec.ofNat 2048 (pack (tyBits w.ty.toNat)
      (expand (c.sel w.ty.toNat w.c) (c.elts w w.ty.toNat w.a))))))

/-! ### Reduce and scan (R55, R56, R123, R124) -/

/-- One level of the pairwise tree (R55): neighbours combined. -/
def treeLevel (f : Nat → Nat → Nat) : List Nat → List Nat
  | a :: b :: r => f a b :: treeLevel f r
  | l => l

/-- The pairwise tree (R55). -/
def treeRed (f : Nat → Nat → Nat) : Nat → List Nat → List Nat
  | 0, l => l
  | n + 1, l => treeRed f n (treeLevel f l)

/-- The elements with inactive ones replaced by the identity (R55, R108). -/
def Ctx.actives (c : Ctx) (w : Fields) (ident : Nat) : List Nat :=
  List.zipWith (fun (a : Bool) x => if a then x else ident) (c.active w w.ty.toNat) (c.elts w w.ty.toNat w.a)

/-- A reduction into the s register D. -/
def State.reduce (s : State) (w : Fields) (ident : Nat) (f : Nat → Nat → Nat) : Res :=
  s.alu ([w.a] ++ Fields.maskSrc w) [w.d] (fun c =>
    c.putS w (extTy w.ty.toNat ((treeRed f 9 (c.actives w ident)).getD 0 ident)))

/-- The identity of a sum (R55): 0 for integers, −0 for floats. -/
def sumIdent (ty : Nat) : Nat := if isInt ty then 0 else 2 ^ (tyBits ty - 1)

def execVrsum (w : Fields) (s : State) : Host.Outcome State Fault Refusal :=
  s.word w (fun s =>
    let ty := w.ty.toNat
    if isInt ty then
      s.alu ([w.a] ++ Fields.maskSrc w) [w.d] (fun c =>
        let sum : Int := ((c.actives w 0).map (tyVal ty)).foldl (· + ·) 0
        c.putS w (intResult w (Fields.sat w) sum))
    else s.reduce w (sumIdent ty) (faddc (tyFmt ty) (Fields.rnd w) (Fields.sat w)))

/-- The identity of a maximum or minimum (R55). -/
def extreme (ty : Nat) (max? : Bool) : Nat :=
  if isInt ty then wrap (tyBits ty) (if max? then tyMin ty else tyMax ty)
  else roundVal (tyFmt ty) .rne (ty == 11) (.inf max?)

/-- Maximum or minimum at a type (R46, R100). -/
def minmaxTy (ty : Nat) (max? : Bool) (a b : Nat) : Nat :=
  if isInt ty then
    (if max? then (if tyVal ty a < tyVal ty b then b else a) else (if tyVal ty b < tyVal ty a then b else a))
  else fminmax (tyFmt ty) max? a b

def execVrmax (w : Fields) (s : State) : Host.Outcome State Fault Refusal :=
  s.word w (fun s => s.reduce w (extreme w.ty.toNat true) (minmaxTy w.ty.toNat true))
def execVrmin (w : Fields) (s : State) : Host.Outcome State Fault Refusal :=
  s.word w (fun s => s.reduce w (extreme w.ty.toNat false) (minmaxTy w.ty.toNat false))

/-- A running combination: y[0] is x[0], then each step combines (R56). -/
def scanFrom (f : Nat → Nat → Nat) : Nat → List Nat → List Nat
  | _, [] => []
  | y, x :: r => f y x :: scanFrom f (f y x) r

/-- The inclusive scan (R56). (DEDUCED, log 72) -/
def scan (f : Nat → Nat → Nat) : List Nat → List Nat
  | [] => []
  | x :: r => x :: scanFrom f x r

def execVscan (w : Fields) (s : State) : Host.Outcome State Fault Refusal :=
  s.word w (fun s =>
    let ty := w.ty.toNat
    let f := if isInt ty then (fun a b => toTy ty (Fields.sat w) (tyVal ty a + tyVal ty b))
      else faddc (tyFmt ty) (Fields.rnd w) (Fields.sat w)
    s.vecTo w [w.a] ty (fun c => scan f (c.actives w (sumIdent ty))))

/-! ### Masks (R125) -/

def execViota (w : Fields) (s : State) : Host.Outcome State Fault Refusal :=
  s.word w (fun s => s.vecTo w [w.a] w.ty.toNat (fun c =>
    let a := c.scalar w w.ty.toNat w.a
    tab (nElems w.ty.toNat) (fun j => (a + j) % 2 ^ tyBits w.ty.toNat)))
def execMlog (w : Fields) (s : State) : Host.Outcome State Fault Refusal :=
  s.word w (fun s => s.alu [w.a, w.b, w.c] [] (fun c =>
    c.arch.wm (w.d.idx.toNat - 16) (truthMask w.fn.toNat (c.mask w.a) (c.mask w.b) (c.mask w.c))))
def execMcnt (w : Fields) (s : State) : Host.Outcome State Fault Refusal :=
  s.word w (fun s => s.alu [w.a] [w.d] (fun c => c.putS w (BitVec.ofNat 64 (popCount 256 (c.mask w.a).toNat))))
def execMfirst (w : Fields) (s : State) : Host.Outcome State Fault Refusal :=
  s.word w (fun s => s.alu [w.a] [w.d] (fun c =>
    c.putS w (BitVec.ofNat 64 ((lowBit 256 0 (c.mask w.a).toNat).getD 256))))

end Sys2Proof.Machine
end

