-- ==== Sys2Proof/Machine/Dispatch.lean ====
section
/-!
DEFINITION. One arm per instruction, command and event of the opcode table: each calls its meaning.
-/

namespace Sys2Proof.Machine

def exec (i : Instr) (s : State) : Host.Outcome State Fault Refusal :=
  match i with
  | .ill w => Sys2Proof.Machine.execIll w s
  | .nop w => Sys2Proof.Machine.execNop w s
  | .enda w => Sys2Proof.Machine.execEnda w s
  | .brf w => Sys2Proof.Machine.execBrf w s
  | .skipt w => Sys2Proof.Machine.execSkipt w s
  | .peek w => Sys2Proof.Machine.execPeek w s
  | .pushn w => Sys2Proof.Machine.execPushn w s
  | .commit w => Sys2Proof.Machine.execCommit w s
  | .abort w => Sys2Proof.Machine.execAbort w s
  | .tsset w => Sys2Proof.Machine.execTsset w s
  | .handoff w => Sys2Proof.Machine.execHandoff w s
  | .trap w => Sys2Proof.Machine.execTrap w s
  | .yield w => Sys2Proof.Machine.execYield w s
  | .add w => Sys2Proof.Machine.execAdd w s
  | .sub w => Sys2Proof.Machine.execSub w s
  | .mul w => Sys2Proof.Machine.execMul w s
  | .mulh w => Sys2Proof.Machine.execMulh w s
  | .div w => Sys2Proof.Machine.execDiv w s
  | .rem w => Sys2Proof.Machine.execRem w s
  | .madd w => Sys2Proof.Machine.execMadd w s
  | .and w => Sys2Proof.Machine.execAnd w s
  | .or w => Sys2Proof.Machine.execOr w s
  | .xor w => Sys2Proof.Machine.execXor w s
  | .andn w => Sys2Proof.Machine.execAndn w s
  | .shl w => Sys2Proof.Machine.execShl w s
  | .shr w => Sys2Proof.Machine.execShr w s
  | .sar w => Sys2Proof.Machine.execSar w s
  | .rotr w => Sys2Proof.Machine.execRotr w s
  | .min w => Sys2Proof.Machine.execMin w s
  | .max w => Sys2Proof.Machine.execMax w s
  | .clz w => Sys2Proof.Machine.execClz w s
  | .popc w => Sys2Proof.Machine.execPopc w s
  | .bfx w => Sys2Proof.Machine.execBfx w s
  | .bfi w => Sys2Proof.Machine.execBfi w s
  | .mov w => Sys2Proof.Machine.execMov w s
  | .sel w => Sys2Proof.Machine.execSel w s
  | .cmp w => Sys2Proof.Machine.execCmp w s
  | .fadd w => Sys2Proof.Machine.execFadd w s
  | .fsub w => Sys2Proof.Machine.execFsub w s
  | .fmul w => Sys2Proof.Machine.execFmul w s
  | .ffma w => Sys2Proof.Machine.execFfma w s
  | .fmin w => Sys2Proof.Machine.execFmin w s
  | .fmax w => Sys2Proof.Machine.execFmax w s
  | .fdiv w => Sys2Proof.Machine.execFdiv w s
  | .fsqrt w => Sys2Proof.Machine.execFsqrt w s
  | .fcmp w => Sys2Proof.Machine.execFcmp w s
  | .fcvt w => Sys2Proof.Machine.execFcvt w s
  | .plog w => Sys2Proof.Machine.execPlog w s
  | .vadd w => Sys2Proof.Machine.execVadd w s
  | .vsub w => Sys2Proof.Machine.execVsub w s
  | .vmul w => Sys2Proof.Machine.execVmul w s
  | .vmulh w => Sys2Proof.Machine.execVmulh w s
  | .vmadd w => Sys2Proof.Machine.execVmadd w s
  | .vadds w => Sys2Proof.Machine.execVadds w s
  | .vsubs w => Sys2Proof.Machine.execVsubs w s
  | .vand w => Sys2Proof.Machine.execVand w s
  | .vor w => Sys2Proof.Machine.execVor w s
  | .vxor w => Sys2Proof.Machine.execVxor w s
  | .vshl w => Sys2Proof.Machine.execVshl w s
  | .vshr w => Sys2Proof.Machine.execVshr w s
  | .vsar w => Sys2Proof.Machine.execVsar w s
  | .vmin w => Sys2Proof.Machine.execVmin w s
  | .vmax w => Sys2Proof.Machine.execVmax w s
  | .vabs w => Sys2Proof.Machine.execVabs w s
  | .vcmp w => Sys2Proof.Machine.execVcmp w s
  | .vsel w => Sys2Proof.Machine.execVsel w s
  | .vdot w => Sys2Proof.Machine.execVdot w s
  | .vclz w => Sys2Proof.Machine.execVclz w s
  | .vpopc w => Sys2Proof.Machine.execVpopc w s
  | .vfadd w => Sys2Proof.Machine.execVfadd w s
  | .vfsub w => Sys2Proof.Machine.execVfsub w s
  | .vfmul w => Sys2Proof.Machine.execVfmul w s
  | .vffma w => Sys2Proof.Machine.execVffma w s
  | .vfmin w => Sys2Proof.Machine.execVfmin w s
  | .vfmax w => Sys2Proof.Machine.execVfmax w s
  | .vfcmp w => Sys2Proof.Machine.execVfcmp w s
  | .vfexp2 w => Sys2Proof.Machine.execVfexp2 w s
  | .vflog2 w => Sys2Proof.Machine.execVflog2 w s
  | .vfrcp w => Sys2Proof.Machine.execVfrcp w s
  | .vfrsq w => Sys2Proof.Machine.execVfrsq w s
  | .vfsig w => Sys2Proof.Machine.execVfsig w s
  | .vcvt w => Sys2Proof.Machine.execVcvt w s
  | .vqk4 w => Sys2Proof.Machine.execVqk4 w s
  | .vbcast w => Sys2Proof.Machine.execVbcast w s
  | .vins w => Sys2Proof.Machine.execVins w s
  | .vext w => Sys2Proof.Machine.execVext w s
  | .vperm w => Sys2Proof.Machine.execVperm w s
  | .vslide w => Sys2Proof.Machine.execVslide w s
  | .vzip w => Sys2Proof.Machine.execVzip w s
  | .vunzip w => Sys2Proof.Machine.execVunzip w s
  | .vcompr w => Sys2Proof.Machine.execVcompr w s
  | .vexpnd w => Sys2Proof.Machine.execVexpnd w s
  | .vrsum w => Sys2Proof.Machine.execVrsum w s
  | .vrmax w => Sys2Proof.Machine.execVrmax w s
  | .vrmin w => Sys2Proof.Machine.execVrmin w s
  | .vscan w => Sys2Proof.Machine.execVscan w s
  | .viota w => Sys2Proof.Machine.execViota w s
  | .mlog w => Sys2Proof.Machine.execMlog w s
  | .mcnt w => Sys2Proof.Machine.execMcnt w s
  | .mfirst w => Sys2Proof.Machine.execMfirst w s
  | .ld w => Sys2Proof.Machine.execLd w s
  | .st w => Sys2Proof.Machine.execSt w s
  | .vld w => Sys2Proof.Machine.execVld w s
  | .vst w => Sys2Proof.Machine.execVst w s
  | .vlds w => Sys2Proof.Machine.execVlds w s
  | .vsts w => Sys2Proof.Machine.execVsts w s
  | .vgath w => Sys2Proof.Machine.execVgath w s
  | .vscat w => Sys2Proof.Machine.execVscat w s
  | .pref w => Sys2Proof.Machine.execPref w s
  | .binit w => Sys2Proof.Machine.execBinit w s
  | .bpush w => Sys2Proof.Machine.execBpush w s
  | .bpop w => Sys2Proof.Machine.execBpop w s
  | .bht w => Sys2Proof.Machine.execBht w s
  | .bret w => Sys2Proof.Machine.execBret w s
  | .cflush w => Sys2Proof.Machine.execCflush w s
  | .cinv w => Sys2Proof.Machine.execCinv w s
  | .aadd w => Sys2Proof.Machine.execAadd w s
  | .amin w => Sys2Proof.Machine.execAmin w s
  | .amax w => Sys2Proof.Machine.execAmax w s
  | .aand w => Sys2Proof.Machine.execAand w s
  | .aor w => Sys2Proof.Machine.execAor w s
  | .axor w => Sys2Proof.Machine.execAxor w s
  | .axchg w => Sys2Proof.Machine.execAxchg w s
  | .acas w => Sys2Proof.Machine.execAcas w s
  | .afadd w => Sys2Proof.Machine.execAfadd w s
  | .ainc w => Sys2Proof.Machine.execAinc w s
  | .fence w => Sys2Proof.Machine.execFence w s
  | .waitw w => Sys2Proof.Machine.execWaitw w s
  | .barinit w => Sys2Proof.Machine.execBarinit w s
  | .bararr w => Sys2Proof.Machine.execBararr w s
  | .bartx w => Sys2Proof.Machine.execBartx w s
  | .barwait w => Sys2Proof.Machine.execBarwait w s
  | .qbind w => Sys2Proof.Machine.execQbind w s
  | .qpush w => Sys2Proof.Machine.execQpush w s
  | .qmark w => Sys2Proof.Machine.execQmark w s
  | .qstat w => Sys2Proof.Machine.execQstat w s
  | .qfilt w => Sys2Proof.Machine.execQfilt w s
  | .qclose w => Sys2Proof.Machine.execQclose w s
  | .send w => Sys2Proof.Machine.execSend w s
  | .sendi w => Sys2Proof.Machine.execSendi w s
  | .mldb w => Sys2Proof.Machine.execMldb w s
  | .mswap w => Sys2Proof.Machine.execMswap w s
  | .mma w => Sys2Proof.Machine.execMma w s
  | .msca w => Sys2Proof.Machine.execMsca w s
  | .mzero w => Sys2Proof.Machine.execMzero w s
  | .mdrn w => Sys2Proof.Machine.execMdrn w s
  | .mstat w => Sys2Proof.Machine.execMstat w s
  | .rldecl w => Sys2Proof.Machine.execRldecl w s
  | .rlpush w => Sys2Proof.Machine.execRlpush w s
  | .rlmerge w => Sys2Proof.Machine.execRlmerge w s
  | .rlsend w => Sys2Proof.Machine.execRlsend w s
  | .rlread w => Sys2Proof.Machine.execRlread w s
  | .rlth w => Sys2Proof.Machine.execRlth w s
  | .rlclr w => Sys2Proof.Machine.execRlclr w s
  | .rnorm w => Sys2Proof.Machine.execRnorm w s
  | .rscan w => Sys2Proof.Machine.execRscan w s
  | .launch w => Sys2Proof.Machine.execLaunch w s
  | .cancel w => Sys2Proof.Machine.execCancel w s
  | .cstat w => Sys2Proof.Machine.execCstat w s
  | .srd w => Sys2Proof.Machine.execSrd w s
  | .swr w => Sys2Proof.Machine.execSwr w s
  | .rtt w => Sys2Proof.Machine.execRtt w s
  | .tlbinv w => Sys2Proof.Machine.execTlbinv w s
  | .cfgwr w => Sys2Proof.Machine.execCfgwr w s
  | .cfgrd w => Sys2Proof.Machine.execCfgrd w s
  | .crc32c w => Sys2Proof.Machine.execCrc32c w s
  | .sm3c w => Sys2Proof.Machine.execSm3c w s
  | .halt w => Sys2Proof.Machine.execHalt w s
  | .lbias => Sys2Proof.Machine.execLbias s
  | .lpenRep a => Sys2Proof.Machine.execLpenRep a s
  | .lpenFreq a => Sys2Proof.Machine.execLpenFreq a s
  | .lpenPres a => Sys2Proof.Machine.execLpenPres a s
  | .ltemp => Sys2Proof.Machine.execLtemp s
  | .lclamp a b => Sys2Proof.Machine.execLclamp a b s
  | .lvmaskAllow => Sys2Proof.Machine.execLvmaskAllow s
  | .lvmaskBan => Sys2Proof.Machine.execLvmaskBan s
  | .lscale a => Sys2Proof.Machine.execLscale a s
  | .laddc a => Sys2Proof.Machine.execLaddc a s
  | .ltopk => Sys2Proof.Machine.execLtopk s
  | .ltopp => Sys2Proof.Machine.execLtopp s
  | .lminp a => Sys2Proof.Machine.execLminp a s
  | .ldraw => Sys2Proof.Machine.execLdraw s
  | .ldrawGreedy => Sys2Proof.Machine.execLdrawGreedy s
  | .lcount => Sys2Proof.Machine.execLcount s
  | .lend => Sys2Proof.Machine.execLend s
  | .ecopy m => Sys2Proof.Machine.execEcopy m s
  | .estride m => Sys2Proof.Machine.execEstride m s
  | .eragged m => Sys2Proof.Machine.execEragged m s
  | .egather m => Sys2Proof.Machine.execEgather m s
  | .escatter m => Sys2Proof.Machine.execEscatter m s
  | .efill m => Sys2Proof.Machine.execEfill m s
  | .ereduce m => Sys2Proof.Machine.execEreduce m s
  | .ejoin m => Sys2Proof.Machine.execEjoin m s
  | .esignal m => Sys2Proof.Machine.execEsignal m s
  | .everify m => Sys2Proof.Machine.execEverify m s
  | .sseq m => Sys2Proof.Machine.execSseq m s
  | .sbatch m => Sys2Proof.Machine.execSbatch m s
  | .slaunch m => Sys2Proof.Machine.execSlaunch m s
  | .sgraph m => Sys2Proof.Machine.execSgraph m s
  | .sopen m => Sys2Proof.Machine.execSopen m s
  | .scancel m => Sys2Proof.Machine.execScancel m s
  | .nput m => Sys2Proof.Machine.execNput m s
  | .nget m => Sys2Proof.Machine.execNget m s
  | .npost m => Sys2Proof.Machine.execNpost m s
  | .ncoll m => Sys2Proof.Machine.execNcoll m s
  | .mretire m => Sys2Proof.Machine.execMretire m s
  | .mdie m => Sys2Proof.Machine.execMdie m s
  | .mrecal m => Sys2Proof.Machine.execMrecal m s
  | .mfw m => Sys2Proof.Machine.execMfw m s
  | .mattest m => Sys2Proof.Machine.execMattest m s
  | .mrecord m => Sys2Proof.Machine.execMrecord m s
  | .beginLoad die cell => Sys2Proof.Machine.execBeginLoad die cell s
  | .sealLoad die cell crc => Sys2Proof.Machine.execSealLoad die cell crc s
  | .clearLoad die cell => Sys2Proof.Machine.execClearLoad die cell s
  | .moduleReset fails found => Sys2Proof.Machine.execModuleReset fails found s
  | .thermalTrip => Sys2Proof.Machine.execThermalTrip s
  | .arbiterGrant die cell => Sys2Proof.Machine.execArbiterGrant die cell s
  | .forcedGrant die cell => Sys2Proof.Machine.execForcedGrant die cell s
  | .arbiterWeightRefresh die cell => Sys2Proof.Machine.execArbiterWeightRefresh die cell s
  | .yieldExpiry x => Sys2Proof.Machine.execYieldExpiry x s
  | .terminalShift x => Sys2Proof.Machine.execTerminalShift x s
  | .nonterminalLookup x => Sys2Proof.Machine.execNonterminalLookup x s
  | .actionStep x => Sys2Proof.Machine.execActionStep x s
  | .endStep x => Sys2Proof.Machine.execEndStep x s
  | .roundClose x => Sys2Proof.Machine.execRoundClose x s
  | .recovery x => Sys2Proof.Machine.execRecovery x s
  | .roundCommit x => Sys2Proof.Machine.execRoundCommit x s
  | .unitDone x => Sys2Proof.Machine.execUnitDone x s
  | .unitStop x => Sys2Proof.Machine.execUnitStop x s
  | .messageDeparture die cell k => Sys2Proof.Machine.execMessageDeparture die cell k s
  | .beatDeparture x port => Sys2Proof.Machine.execBeatDeparture x port s
  | .beatArrival k => Sys2Proof.Machine.execBeatArrival k s
  | .inboxMessageDelivery k => Sys2Proof.Machine.execInboxMessageDelivery k s
  | .loadDataArrival x k e => Sys2Proof.Machine.execLoadDataArrival x k e s
  | .atomicOldValueReturn x k => Sys2Proof.Machine.execAtomicOldValueReturn x k s
  | .waitwSatisfied x k => Sys2Proof.Machine.execWaitwSatisfied x k s
  | .cstatFill x k => Sys2Proof.Machine.execCstatFill x k s
  | .lookaheadFill x k => Sys2Proof.Machine.execLookaheadFill x k s
  | .translationWalk k => Sys2Proof.Machine.execTranslationWalk k s
  | .walkResult k => Sys2Proof.Machine.execWalkResult k s
  | .faultResolution die slot => Sys2Proof.Machine.execFaultResolution die slot s
  | .tlbinvAcknowledge x => Sys2Proof.Machine.execTlbinvAcknowledge x s
  | .mmaRowFire die cell => Sys2Proof.Machine.execMmaRowFire die cell s
  | .mldbFill die cell => Sys2Proof.Machine.execMldbFill die cell s
  | .mswapEffect die cell => Sys2Proof.Machine.execMswapEffect die cell s
  | .closingUnitOperation die cell => Sys2Proof.Machine.execClosingUnitOperation die cell s
  | .childArrival k => Sys2Proof.Machine.execChildArrival k s
  | .release k => Sys2Proof.Machine.execRelease k s
  | .engineCommandStart box q j => Sys2Proof.Machine.execEngineCommandStart box q j s
  | .commandMigration box q j box2 => Sys2Proof.Machine.execCommandMigration box q j box2 s
  | .engineCommandFinish box q j => Sys2Proof.Machine.execEngineCommandFinish box q j s
  | .messageRingRecord box q j => Sys2Proof.Machine.execMessageRingRecord box q j s
  | .batchStart die => Sys2Proof.Machine.execBatchStart die s
  | .samplerEofDiscard x port => Sys2Proof.Machine.execSamplerEofDiscard x port s
  | .lap1 die => Sys2Proof.Machine.execLap1 die s
  | .lap2 die => Sys2Proof.Machine.execLap2 die s
  | .batchCompletion die => Sys2Proof.Machine.execBatchCompletion die s
  | .graphAdmission die k => Sys2Proof.Machine.execGraphAdmission die k s
  | .dispatch die cls => Sys2Proof.Machine.execDispatch die cls s
  | .nodeReply k => Sys2Proof.Machine.execNodeReply k s
  | .poolGrant die => Sys2Proof.Machine.execPoolGrant die s
  | .entryAgeing die k => Sys2Proof.Machine.execEntryAgeing die k s
  | .poolFault die => Sys2Proof.Machine.execPoolFault die s
  | .pageLoad k => Sys2Proof.Machine.execPageLoad k s
  | .preemptFreeze die => Sys2Proof.Machine.execPreemptFreeze die s
  | .freezeWave k => Sys2Proof.Machine.execFreezeWave k s
  | .contextStop x => Sys2Proof.Machine.execContextStop x s
  | .imageReadout k => Sys2Proof.Machine.execImageReadout k s
  | .restore k => Sys2Proof.Machine.execRestore k s
  | .budgetWindow k => Sys2Proof.Machine.execBudgetWindow k s
  | .governorUpdate k budget => Sys2Proof.Machine.execGovernorUpdate k budget s
  | .hostMsgWrite win off bytes => Sys2Proof.Machine.execHostMsgWrite win off bytes s
  | .windowHandover win => Sys2Proof.Machine.execWindowHandover win s
  | .ctlWrite win val => Sys2Proof.Machine.execCtlWrite win val s
  | .hostRingWrite k => Sys2Proof.Machine.execHostRingWrite k s
  | .hostHbmAccess addr len data => Sys2Proof.Machine.execHostHbmAccess addr len data s
  | .hostRequestCompletion k bad => Sys2Proof.Machine.execHostRequestCompletion k bad s
  | .registerWrite reg val => Sys2Proof.Machine.execRegisterWrite reg val s
  | .inboundPacket p => Sys2Proof.Machine.execInboundPacket p s
  | .transportAcknowledgement q ack => Sys2Proof.Machine.execTransportAcknowledgement q ack s
  | .timeout q => Sys2Proof.Machine.execTimeout q s
  | .congestionEntryWrite peer entry => Sys2Proof.Machine.execCongestionEntryWrite peer entry s
  | .coreRestart die core ok => Sys2Proof.Machine.execCoreRestart die core ok s
  | .recalibrationEnd stack chan => Sys2Proof.Machine.execRecalibrationEnd stack chan s

end Sys2Proof.Machine
end

