-- ==== Sys2Proof/Machine/Fetch.lean ====
section
/-!
DEFINITION. How a move becomes an instruction: a context's next action word (R77, R86), the running command of an agent, the sampler's
next logit word (R289), an event; and how an instruction comes to stand where the next step takes it.
-/

namespace Sys2Proof.Machine

/-- What a move comes to: an instruction to perform in a state, or a state in which nothing more is to be done. -/
inductive Selected where
  | perform (i : Instr) (s : State)
  | none (s : State)
  deriving DecidableEq, Repr

/-! ### Action words -/

/-- Whether a context may issue its next word: it holds the grant, its unit is live, it stands at a word, and it has not come to its stopping
point under a freeze wave (R252, R253, R337). -/
def State.mayIssue (s : State) (x : CtxId) : Bool :=
  let c := s.ctx x
  x.ok && c.life == .live && (s.cell x.ck).grant == some x.ctx && !c.frozen && !(s.waved x.ck && c.atStop)

/-- The issue of a context's next word (R77). A unit of an image that breaks R330 fails instead. (DEDUCED, log 48) -/
def State.issueWord (s : State) (x : CtxId) : Selected :=
  let c := s.ctx x
  match c.arch.pos with
  | .step => .none s
  | .word pc _ last =>
    if !s.mayIssue x then .none s
    else if c.info.bad then .none ((s.issued x).failUnit x 1 5)
    else
      match (s.cell x.ck).fetch c.info.nacc pc last with
      | .error finfo => .none (({ s with cur := x }.issued x).takeTrap x 1 finfo)
      | .ok i => .perform i { s with cur := x }

/-! ### Commands -/

/-- The commands that an inbox of a kind runs (R168, R371, R382). -/
def boxRuns (box opc : Nat) : Bool :=
  let kind := fld box 15 12
  (kind == 2 && decide (1 ≤ opc ∧ opc ≤ 9)) || (kind == 5 && opc == 0x0A) || (kind == 6 && (opc == 8 || decide (0x40 ≤ opc ∧ opc ≤ 0x43)))
    || (kind == 1 && box % 4 == 0 && decide (0x60 ≤ opc ∧ opc ≤ 0x65))

/-- A command to perform. -/
def commandAt (m : Msg) (s : State) : Selected :=
  match decodeCommand m with
  | .ok i => .perform i s
  | .error _ => .none s

/-- The next part of a command of an engine, the security block, the transport engine or core 0. (DEDUCED, log 16) -/
def State.engineMove (s : State) (box q j : Nat) (e : Ecc) : Selected :=
  match s.queued box q j with
  | none => .none s
  | some c => if boxRuns box c.opc then commandAt c.m { s with eng := (box, c.seq), ecc := e } else .none s

/-- The sampler's batch, or the SSEQ at the head of its queue (R282, R285). (DEDUCED, log 16) -/
def State.samplerMove (s : State) (die : Nat) (e : Ecc) : Selected :=
  let s := { s with die := die, ecc := e }
  match (s.sampler die).batch with
  | some c => commandAt c.m s
  | none =>
    match s.samplerHead die with
    | some c => if c.opc = 0x20 then commandAt c.m s else .none s
    | none => .none s

/-- The message at the head of a scheduler's queue (R309). -/
def State.schedulerMove (s : State) (die : Nat) : Selected :=
  match (s.sched die).queue.head? with
  | some c => commandAt c.m { s with die := die }
  | none => .none s

/-- A control core's firmware takes the oldest message of its queue; what it does and what it answers, the manual does not give
(R167, R313). (DESIGN CHOICE, log 20) -/
def State.firmwareMove (s : State) (core : Nat) : Selected :=
  let box := coreBox (core / 4) (core % 4)
  match ((s.boxes.getD box {}).qs.getD 0 []).head? with
  | none => .none s
  | some c =>
    if firmwareOwn box c.m then
      let st := Config.freeNat s.fresh % 2 ^ 8
      let s := { s.dropCmd box c.seq with fresh := s.fresh + 1 }
      .none (if c.opc ≠ 0x7F ∧ (c.ack ∨ st ≠ 0) then s.reply box c.m st 0 0 c.node else s)
    else .none s

/-! ### Logit words -/

/-- The next logit word of the sampler of a die (R289). -/
def State.logitMove (s : State) (die : Nat) : Selected :=
  let b := s.sampler die
  match b.row, b.cur with
  | some r, some l =>
    match r.words[l.pc]? with
    | some w =>
      match decodeLogit w with
      | .ok i => .perform i { s with die := die }
      | .error _ => .none s
    | none => .none s
  | _, _ => .none s

/-! ### Pairs (R71) -/

/-- The class of a word (R62). -/
def opClass (i : Instr) : Nat := ((opSpec i).map (fun e => e.opc / 64)).getD 15

/-- The unit that performs the words of a class: classes 0x3 to 0x5 share the vector unit (R111). (DESIGN CHOICE, log 27) -/
def classUnit (cls : Nat) : Nat := if 3 ≤ cls ∧ cls ≤ 5 then 0 else Config.unitOf cls + 1

/-- What a word reads of registers, predicates, ports and rings, as operand classes and indices: its sources, its mask, its guards (R71). -/
def wordReads (i : Instr) (w : Fields) : List (BitVec 3 × Nat) :=
  let name (o : Operand) : BitVec 3 × Nat := (o.cls, o.idx.toNat)
  let one (u : Use) (o : Operand) : List (BitVec 3 × Nat) := match u with
    | .src _ _ => [name o]
    | _ => []
  match wordSpec i w with
  | none => []
  | some e =>
    one e.a w.a ++ one e.b w.b ++ one e.c w.c
      ++ (match e.e with
          | .reg _ => [name w.e]
          | .mask => (Fields.maskSrc w).map name
          | _ => [])
      ++ [(2, w.g1.pred.toNat), (2, w.g2.pred.toNat)]

/-- What a word writes of them; a write to s0 or p0 is discarded (R15). -/
def wordWrites (i : Instr) (w : Fields) : List (BitVec 3 × Nat) :=
  let d := ((opSpec i).map (fun e => e.d)).getD .unused
  match d with
  | .dst _ _ => if (w.d.cls = 0 ∨ w.d.cls = 2) ∧ w.d.idx = 0 then [] else [(w.d.cls, w.d.idx.toNat)]
  | _ => []

/-- Whether a word asks to issue with the word after it and R71 lets them. (DESIGN CHOICE, log 27) -/
def pairs (i j : Instr) : Bool :=
  match fieldsOf i, fieldsOf j with
  | some w, some v =>
    let alone (c : Nat) : Bool := c == 0 || c == 13 || c == 14
    w.grp && !alone (opClass i) && !alone (opClass j) && classUnit (opClass i) != classUnit (opClass j)
      && (wordReads j v).all (fun r => !(wordWrites i w).contains r)
  | _, _ => false

/-- The word that a context stands at, if it decodes. -/
def State.wordAt (s : State) (x : CtxId) : Option Instr :=
  let c := s.ctx x
  match c.arch.pos with
  | .step => none
  | .word pc _ last => ((s.cell x.ck).fetch c.info.nacc pc last).toOption

/-- Whether a context's word has issued and it stands at the word after. -/
def State.passed (s t : State) (x : CtxId) : Bool :=
  let c := s.ctx x
  let d := t.ctx x
  d.life == .live && d.wait == .none && d.arch.trapped == c.arch.trapped && d.arch.pos == c.arch.advance.pos
    && (t.cell x.ck).grant.isNone

/-- CFGWR and CFGRD, which a freeze wave lets run to their end and after which their context stops (R337). -/
def stopsAfter (i : Instr) (a : Arch) : Bool :=
  match i with
  | .cfgwr w => a.guards w
  | .cfgrd w => a.guards w
  | _ => false

/-- What follows the issue of a word, from the state before it and the state after it: the second word of a pair issues in the same clock
under the same grant (R71, R252), a context under a freeze wave stops after CFGWR and CFGRD (R337). (DESIGN CHOICE, log 27) -/
def State.afterIssue (s t : State) (x : CtxId) : State :=
  if !s.passed t x then t
  else
    match s.wordAt x with
    | none => t
    | some i =>
      if s.waved x.ck && stopsAfter i (s.ctx x).arch then t.modCtx x (fun c => { c with frozen := true })
      else
        match t.wordAt x with
        | none => t
        | some j =>
          if pairs i j then
            { t.modCell x.ck (fun k => { k with grant := some x.ctx, undo := k.arb }) with agenda := .second x :: t.agenda }
          else t

/-! ### Moves -/

/-- An event, which has no encoding. -/
def isEvent (i : Instr) : Bool := (encodeWord i).isNone && (encodeLogit i).isNone && (commandOf i).isNone

/-- The context whose access to a scratch tile or a lane slice a move may perform: a word, the parts of its loads and stores, an atomic, its
commit, the rows and fills of its row queue and its operations of the closing unit. (DEDUCED, log 82) -/
def State.moveContext (s : State) : Move → Option CtxId
  | .issue x => some x
  | .second x => some x
  | .event (.loadDataArrival x _ _) => some x
  | .event (.atomicOldValueReturn x _) => some x
  | .event (.roundCommit x) => some x
  | .event (.mmaRowFire die cell) => ((s.cell (cellKey die cell)).island.rq.head?).map (fun e => ctxAt (cellKey die cell) e.ctx)
  | .event (.mldbFill die cell) =>
    (firstFill (s.cell (cellKey die cell)).island.rq 0).map (fun e => ctxAt (cellKey die cell) e.2.ctx)
  | .event (.closingUnitOperation die cell) => (s.nextClose (cellKey die cell)).map (fun e => ctxAt (cellKey die cell) e.ctx)
  | _ => none

/-- A free choice of the next move: the second word of a pair is none. -/
def freeMove : Move → Move
  | .second x => .issue x
  | m => m

/-- Marks a move of a context at this clock. One that comes behind a higher-numbered context of its cell comes a clock later: within a clock
the lower goes first (R17). (DEDUCED, log 82) -/
def State.inTurn (s : State) (m : Move) : State :=
  match s.moveContext m with
  | none => s
  | some x =>
    if s.moved.any (fun e => e.1 == x.ck && decide (x.ctx < e.2)) then { s with clk := s.clk + 1, moved := [(x.ck, x.ctx)] }
    else { s with moved := s.moved ++ [(x.ck, x.ctx)] }

/-- Takes the next move: from the agenda, else the one that comes next by the order that the manual leaves open (R393). (DESIGN CHOICE, log 1; DEDUCED, log 82) -/
def State.takeMove (s : State) : Move × State :=
  match s.agenda with
  | m :: r => (m, { s with agenda := r })
  | [] =>
    let m := freeMove (Config.nextMove s.picks)
    let n := BitVec.ofNat 64 (Config.tick s.picks)
    (m, ({ s with picks := s.picks + 1, clk := s.clk + n, moved := if n = 0 then s.moved else [] }).inTurn m)

/-- What a move comes to in a state. (DESIGN CHOICE, log 1) -/
def State.select (s : State) : Move → Selected
  | .issue x => s.issueWord x
  | .second x => s.issueWord x
  | .engine box q j e => s.engineMove box q j e
  | .sampler die e => s.samplerMove die e
  | .scheduler die => s.schedulerMove die
  | .manage core => s.firmwareMove core
  | .logit die => s.logitMove die
  | .event i => if isEvent i && i.wellFormed then .perform i s else .none s

/-- A module reset, the only move of a module that a thermal trip has stopped (R387). -/
def isReset : Move → Bool
  | .event (.moduleReset _ _) => true
  | _ => false

/-! ### Placing an instruction -/

/-- Places an action word: at index 0 of cell 0 of die 0, in the recorded block 0 to 0 of a live context 0 that holds the grant. (DESIGN CHOICE, log 9) -/
def State.placeWord (s : State) (w : BitVec 128) : State :=
  let x : CtxId := {}
  let s := s.modCtx x (fun c => { c with
    life := .live, frozen := false, wait := .none
    info := { c.info with bad := false, nacc := 8 }
    arch := { c.arch with pos := .word 0 0 (if w.extractLsb' 0 10 = 2 then 0 else 1), recov := none } })
  let s := s.modCell 0 (fun k =>
    { ((k.setWord 0 0 (w.extractLsb' 0 64)).setWord 0 1 (w.extractLsb' 64 64)) with grant := some 0, st := 2 })
  { s with agenda := [.issue x] }

/-- Places a logit word: as the only word left of the row in lap 1 of the sampler of die 0. (DESIGN CHOICE, log 9) -/
def State.placeLogit (s : State) (w : BitVec 32) : State :=
  { s.modSampler 0 (fun b => { b with row := some { words := [w] }, cur := some {} }) with agenda := [.logit 0] }

/-- Places a command: started, as the only one of a receiver that runs it. (DESIGN CHOICE, log 9) -/
def State.placeCommand (s : State) (m : Msg) : State :=
  let opc := (m.extractLsb' 0 8).toNat
  let box := if opc = 0x0A then 0x5000 else if opc < 0x0A then 0x2000 else if opc < 0x60 then 0x6000 else 0x1000
  let c : Cmd := { m := m, priv := true, started := true }
  if 0x20 ≤ opc ∧ opc < 0x22 then
    { s.modSampler 0 (fun b => if opc = 0x20 then { b with batch := none, queue := [c] } else { b with batch := some c }) with
      agenda := [.sampler 0 .clean] }
  else if 0x30 ≤ opc ∧ opc < 0x34 then { s.setSched 0 { s.sched 0 with queue := [c] } with agenda := [.scheduler 0] }
  else { s with boxes := s.boxes.set box { qs := [(0, [c])], seq := 1 }, agenda := [.engine box 0 0 .clean] }

end Sys2Proof.Machine
end

