-- ==== Sys2Proof/Machine/Step.lean ====
section
/-!
DEFINITION. One step of the machine, and the placing of an instruction where the next step takes it.
-/

namespace Sys2Proof.Machine

/-- Performs what a move has come to; what follows the issue of a word comes after it (R71, R337). -/
def Selected.run (m : Move) : Selected → Host.Outcome State Fault Refusal
  | .perform i s =>
    match m, exec i s with
    | .issue x, .next t => .next (s.afterIssue t x)
    | _, o => o
  | .none s => .next s

/-- One step: the next move, then the instruction it comes to (R393). A module that a thermal trip has stopped does nothing more until
its reset (R387). (DESIGN CHOICE, log 1 and 9) -/
def step (s : State) : Host.Outcome State Fault Refusal :=
  let p := s.takeMove
  if s.sys.stopped && !isReset p.1 then .fault .thermalStop else (p.2.select p.1).run p.1

/-- The state with an instruction placed for the very next step: 32 bits a logit word, 128 an action word, more a command. (DESIGN CHOICE, log 9) -/
def State.withFetchWord (s : State) (nbits w : Nat) : State :=
  if nbits ≤ 32 then s.placeLogit (BitVec.ofNat 32 w)
  else if nbits ≤ 128 then s.placeWord (BitVec.ofNat 128 w)
  else s.placeCommand (BitVec.ofNat 512 w)

end Sys2Proof.Machine
end

