-- ==== Sys2Proof/Safety.lean ====
section
/-!
DEFINITION. What is meant by a sound state, and by what a run may do: the terms that claims use.
-/

namespace Sys2Proof

open Sys2Proof.Machine

/-- The memory keeps its canonical form. -/
def Sound (s : State) : Prop := Memory.wf s.mem = true

/-- A step goes on. -/
def StepsTo (s t : State) : Prop := step s = .next t

/-- The module has stopped for good, until its reset (R387). -/
def Stopped (s : State) : Prop := s.sys.stopped = true

/-! ### When a word runs -/

/-- A register the machine has (R13). -/
def Reg.exists? : Reg → Bool
  | .s i => i < 64
  | .v i => i < 32
  | .m i => i < 16

/-- The operands of a word are there: every register it names exists, is full, and waits for no result of the closing unit; every port it
reads is inbound with a beat or EOF at its head (R22 to R25, R109, R198). -/
def available (c : Ctx) (srcs dsts : List Operand) : Bool :=
  (srcs ++ dsts).all (fun o => (Operand.reg o).all (fun r => Reg.exists? r && c.arch.full r && !c.settling r))
    && srcs.all (fun o => o.cls != 4 ||
        (o.idx != 1 && (o.idx == 0 || (!(c.port o.idx.toNat).out && (c.port o.idx.toNat).head?.isSome))))

/-- No list merge of an earlier word still takes beats of a port that a word reads (R194). -/
def noMerges (s : State) (srcs : List Operand) : Bool := srcs.all (fun o => o.cls != 4 || !s.merging s.cur o.idx.toNat)

/-- Both guards of the current context's word are true, its operands are there, and no earlier merge still takes beats of its ports (R64, R77,
R194). -/
def Runs (s : State) (w : Fields) (srcs dsts : List Operand) : Prop :=
  (s.ctx s.cur).arch.guards w = true ∧ available (s.ctx s.cur) srcs dsts = true ∧ noMerges s srcs = true

/-! ### What a word changes -/

/-- Nothing but cells differs, and of them only contexts, the grant and the arbiter. -/
def SameOutside (s t : State) : Prop :=
  { t with cells := s.cells } = s ∧
  ∀ ck, { t.cell ck with ctxs := (s.cell ck).ctxs, grant := (s.cell ck).grant } = s.cell ck

/-- Every byte of memory reads as before. -/
def SameMemory (s t : State) : Prop := ∀ a, memGet t.mem a = memGet s.mem a

/-- Every context but the current one is as before. -/
def SameOthers (s t : State) : Prop := ∀ y : CtxId, (y.ck ≠ s.cur.ck ∨ y.ctx ≠ s.cur.ctx) → t.ctx y = s.ctx y

/-- The current context stands at the word after (R77), and no wait is noted. -/
def MovesOn (s t : State) : Prop :=
  (t.ctx s.cur).arch.pos = (s.ctx s.cur).arch.advance.pos ∧ (t.ctx s.cur).wait = .none

/-- A word that only computes: every byte of memory, every other context, every accumulator and every special, control and trap register
is as before; each port it reads loses one beat (R109); the context moves on. -/
structure Computes (s t : State) (srcs : List Operand) : Prop where
  outside : SameOutside s t
  others : SameOthers s t
  memory : SameMemory s t
  moves : MovesOn s t
  context : { t.ctx s.cur with arch := (s.ctx s.cur).arch, ports := (s.ctx s.cur).ports, wait := (s.ctx s.cur).wait,
                               yieldTo := (s.ctx s.cur).yieldTo } = s.ctx s.cur
  ports : ∀ q, (t.ctx s.cur).port q = if q ∈ consumed srcs then ((s.ctx s.cur).port q).take else (s.ctx s.cur).port q

/-- The scalar register `d` takes a value (a write to s0 is discarded, R15) and nothing else of the register state changes: every other
s register, every v, m and p register, every full bit, the stack, the token, %asid and %prio. -/
def SetsS (a b : Arch) (d : Nat) (v : Word) : Prop :=
  b.rs d = (if d = 0 then 0 else v) ∧ (∀ i, i ≠ d → b.rs i = a.rs i) ∧ { b with s := a.s, pos := a.pos } = a

/-- The same of a v register. -/
def SetsV (a b : Arch) (d : Nat) (v : Vec) : Prop :=
  b.rv d = v ∧ (∀ i, i ≠ d → b.rv i = a.rv i) ∧ { b with v := a.v, pos := a.pos } = a

/-- The same of an m register; no instruction leaves one empty. -/
def SetsM (a b : Arch) (d : Nat) (v : Mask) : Prop :=
  b.rm d = v ∧ (∀ i, i ≠ d → b.rm i = a.rm i) ∧ { b with m := a.m, mf := a.mf, pos := a.pos } = a

/-- The same of a predicate (a write to p0 is discarded, R15). -/
def SetsP (a b : Arch) (d : Nat) (v : Bool) : Prop :=
  b.rp d = (if d = 0 then true else v) ∧ (∀ i, i ≠ d → b.rp i = a.rp i) ∧ { b with p := a.p, pos := a.pos } = a

/-- No register changes. -/
def SetsNone (a b : Arch) : Prop := { b with pos := a.pos } = a

/-- An instruction ends in a next state in which it has computed a value for the scalar register D. -/
def GivesS (i : Instr) (s : State) (w : Fields) (srcs : List Operand) (v : Word) : Prop :=
  ∃ t, exec i s = .next t ∧ Computes s t srcs ∧ SetsS (s.ctx s.cur).arch (t.ctx s.cur).arch w.d.idx.toNat v

/-- The same for the vector register D. -/
def GivesV (i : Instr) (s : State) (w : Fields) (srcs : List Operand) (v : Vec) : Prop :=
  ∃ t, exec i s = .next t ∧ Computes s t srcs ∧ SetsV (s.ctx s.cur).arch (t.ctx s.cur).arch w.d.idx.toNat v

/-- The same for the mask register D, m0 being index 16 of its class (R20). -/
def GivesM (i : Instr) (s : State) (w : Fields) (srcs : List Operand) (v : Mask) : Prop :=
  ∃ t, exec i s = .next t ∧ Computes s t srcs ∧ SetsM (s.ctx s.cur).arch (t.ctx s.cur).arch (w.d.idx.toNat - 16) v

/-- The same for the predicate D. -/
def GivesP (i : Instr) (s : State) (w : Fields) (srcs : List Operand) (v : Bool) : Prop :=
  ∃ t, exec i s = .next t ∧ Computes s t srcs ∧ SetsP (s.ctx s.cur).arch (t.ctx s.cur).arch w.d.idx.toNat v

/-! ### Vector results, element by element -/

/-- Element j of a source at a type: of its register, token or beat with the modifier applied, or the scalar that every element gets (R107). -/
def element (c : Ctx) (w : Fields) (ty : Nat) (o : Operand) (j : Nat) : Nat :=
  if Operand.isVec o then modBits ty o.mod.toNat (elem (tyBits ty) (c.vec o).toNat j) else c.scalar w ty o

/-- Whether element j is active (R108). -/
def isActive (c : Ctx) (w : Fields) (ty j : Nat) : Bool := !Fields.masked w || bit (c.mask w.e).toNat (govern ty j)

/-- The sources of a masked word: those listed, and its mask (R107). -/
def withMask (w : Fields) (srcs : List Operand) : List Operand := srcs ++ Fields.maskSrc w

/-- An instruction ends in a next state in which each active element j of the vector register D holds `f j` and each inactive one what it
held (R108); it does nothing else but read its ports and move on. -/
def GivesEach (i : Instr) (s : State) (w : Fields) (srcs : List Operand) (ty : Nat) (f : Nat → Nat) : Prop :=
  ∃ t v, exec i s = .next t ∧ Computes s t srcs ∧ SetsV (s.ctx s.cur).arch (t.ctx s.cur).arch w.d.idx.toNat v ∧
    ∀ j, j < nElems ty → elem (tyBits ty) v.toNat j =
      if isActive (s.ctx s.cur) w ty j then f j % 2 ^ tyBits ty else elem (tyBits ty) ((s.ctx s.cur).arch.rv w.d.idx.toNat).toNat j

/-- An instruction ends in a next state in which the governing bit of each active element j of the mask register D is `f j` and every other
bit of it is what it was (R108). -/
def GivesBits (i : Instr) (s : State) (w : Fields) (srcs : List Operand) (ty : Nat) (f : Nat → Bool) : Prop :=
  ∃ t v, exec i s = .next t ∧ Computes s t srcs ∧ SetsM (s.ctx s.cur).arch (t.ctx s.cur).arch (w.d.idx.toNat - 16) v ∧
    (∀ j, j < nElems ty → isActive (s.ctx s.cur) w ty j = true → bit v.toNat (govern ty j) = f j) ∧
    ∀ i, i < 256 → (∀ j, j < nElems ty → isActive (s.ctx s.cur) w ty j = true → govern ty j ≠ i) →
      bit v.toNat i = bit ((s.ctx s.cur).arch.rm (w.d.idx.toNat - 16)).toNat i

/-! ### Words with an effect of their own -/

/-- The state after a word of the current context whose effect has led to `t` (R77): the grant is used up, no wait is noted, the Y bit
makes the context yield (R70), and the context stands at the word after. -/
def afterWord (s t : State) (w : Fields) : State :=
  ((t.issued s.cur).yieldBit s.cur w.y).modCtx s.cur (fun c => { c with arch := c.arch.advance })

/-- The instruction ends in a next state with the effect `t` and nothing else but moving on. -/
def DoesTo (i : Instr) (s : State) (w : Fields) (t : State) : Prop := exec i s = .next (afterWord s t w)

/-- The instruction ends in a next state in which only its own context has changed, by `f`, and has moved on. -/
def Does (i : Instr) (s : State) (w : Fields) (f : Ctx → Ctx) : Prop := DoesTo i s w (s.modCtx s.cur f)

/-- The instruction ends in a next state with the effect `t`, and its context goes on at the word `pc` of the same block (R90, R91). -/
def GoesTo (i : Instr) (s : State) (w : Fields) (t : State) (pc : Nat) : Prop :=
  exec i s = .next (((t.issued s.cur).yieldBit s.cur w.y).modCtx s.cur (fun c => { c with arch := c.arch.goto pc }))

/-- The instruction ends in a next state with the effect `t`, which has itself said where its context goes on. -/
def LeavesTo (i : Instr) (s : State) (w : Fields) (t : State) : Prop :=
  exec i s = .next ((t.issued s.cur).yieldBit s.cur w.y)

/-- The instruction traps (R203): it has no effect of its own, and the trap is taken with this cause and %finfo. -/
def Traps (i : Instr) (s : State) (cause : Nat) (finfo : Word) : Prop :=
  exec i s = .next ((s.issued s.cur).takeTrap s.cur cause finfo)

/-- The instruction waits (R22): it has no effect, and the context is tried again later. -/
def Waits (i : Instr) (s : State) (why : Wait) : Prop := exec i s = .next (s.hold s.cur why)

/-- Every register of the current context keeps its value, its predicates, stack, token and modes too; of the full bits only that of `r`
may change. -/
def KeepsValues (s t : State) (r : Reg) : Prop :=
  let a := (s.ctx s.cur).arch
  let b := (t.ctx s.cur).arch
  { b with sf := a.sf, vf := a.vf, pos := a.pos } = a ∧ ∀ r', r' ≠ r → b.full r' = a.full r'

/-- A long-latency word has issued (R21): its destination is empty (s0 never is), a producer with these contents waits to fill it (`lg` is the
size of the page that it was translated by, R207), and every other register keeps its value. -/
def Issued (s t : State) (r : Reg) (acq : Option Nat) (k : Await) (lg : Nat := 0) : Prop :=
  (t.ctx s.cur).arch.full r = decide (r = .s 0) ∧ KeepsValues s t r ∧ MovesOn s t ∧ SameOthers s t ∧
  (t.ctx s.cur).prods.getLast? = some { id := s.serial, serial := (s.ctx s.cur).opn.serial, dst := r, acq := acq, kind := k, lg := lg } ∧
  (t.ctx s.cur).prods.dropLast.map (fun p => (p.id, p.serial, p.dst)) = (s.ctx s.cur).prods.map (fun p => (p.id, p.serial, p.dst))

/-- The acquire of FN (R72, R136). -/
def acquireOf (w : Fields) : Option Nat := if Fields.acq w then some (Fields.scope w) else none

/-- The parts of an access may be performed (R128, R136, R147, R347): no acquire is pending, and with `release` no access at all; each address
has its form and translates; no pending atomic of the context touches the bytes. -/
def mayAccess (s : State) (w : Fields) (release wr : Bool) (l : List Acc) : Bool :=
  ((s.ctx s.cur).orderWait release).isNone &&
  l.all (fun a => (s.formBad s.cur (Fields.space w) a.va).isNone && (s.partHome (Fields.space w) a.va wr false).isSome
    && ((wr && Fields.space w != .s) || ((s.ctx s.cur).atomicWait ((s.partHome (Fields.space w) a.va wr false).getD 0) a.len).isNone))

/-- The home of a part. -/
def homeOfPart (s : State) (w : Fields) (wr : Bool) (a : Acc) : Nat := (s.partHome (Fields.space w) a.va wr false).getD 0

/-- The parts of a vector access that hold an active byte (R132). -/
def liveParts (s : State) (w : Fields) (l : List Acc) : List Acc := l.filter (Acc.live ((s.ctx s.cur).activeBytes w))

/-- The bytes that a part stores, with their homes. -/
def storedAt (s : State) (w : Fields) (act : List Bool) (v : Nat) (l : List Acc) : List (Nat × Byte) :=
  l.flatMap (fun a => (partBytes act v a).map (fun b => (homeOfPart s w true a + b.1, b.2)))

/-! ### The sources of a word -/

/-- A source is empty: its register is, or its inbound port has no beat and no EOF at its head (R22, R24, R109). -/
def lacks (c : Ctx) (o : Operand) : Bool :=
  if o.cls = 0 then !c.arch.full (.s o.idx.toNat)
  else if o.cls = 1 then !c.arch.full (.v o.idx.toNat)
  else o.cls == 4 && decide (2 ≤ o.idx.toNat) && !(c.port o.idx.toNat).out && (c.port o.idx.toNat).head?.isNone

end Sys2Proof
end

