-- ==== Sys2Proof/Certificates/Slice0/Obligations.lean ====
section
/-!
DEFINITION. The statements about the machine, for the provers: what each instruction does when it runs, what it leaves alone, and the rules
that hold of every step.
-/

open Sys2Proof Sys2Proof.Machine

/-! ### Scalar words -/

/-- Scalar integer arithmetic (R99 to R101): the exact result is wrapped, or clamped under `.sat`, and extended into the s register D;
every other register, every flag, every special register and every byte of memory stays.
Scalar bit operations (R100, R101) on the low bits of their sources, extended into the s register D, with the same frame. A shift
amount is b modulo the width; SEL chooses by the predicate C after complement. -/
def Obligations.ScalarIntegerAndBitOperations : Prop :=
  (∀ (w : Fields) (s : State), w.d.cls = 0 →
     let c := s.ctx s.cur
     let ty := w.ty.toNat
     let n := tyBits ty
     let a := c.int w ty w.a
     let b := c.int w ty w.b
     let put (r : Int) : Word := extTy ty (toTy ty (Fields.sat w) r)
     (Runs s w [w.a, w.b] [w.d] →
       GivesS (.add w) s w [w.a, w.b] (put (a + b)) ∧
       GivesS (.sub w) s w [w.a, w.b] (put (a - b)) ∧
       GivesS (.mul w) s w [w.a, w.b] (put (a * b)) ∧
       GivesS (.mulh w) s w [w.a, w.b] (put ((a * b) >>> n)) ∧
       GivesS (.div w) s w [w.a, w.b] (put (if b = 0 then 2 ^ n - 1 else a.tdiv b)) ∧
       GivesS (.rem w) s w [w.a, w.b] (put (if b = 0 then a else a - b * a.tdiv b)) ∧
       GivesS (.min w) s w [w.a, w.b] (put (if a ≤ b then a else b)) ∧
       GivesS (.max w) s w [w.a, w.b] (put (if a ≤ b then b else a))) ∧
     (Runs s w [w.a, w.b, w.c] [w.d] →
       GivesS (.madd w) s w [w.a, w.b, w.c] (put (a * b + c.int w ty w.c)))) ∧
  (∀ (w : Fields) (s : State), w.d.cls = 0 →
     let c := s.ctx s.cur
     let ty := w.ty.toNat
     let n := tyBits ty
     let a := c.scalar w ty w.a
     let b := c.scalar w ty w.b
     (Runs s w [w.a, w.b] [w.d] →
       GivesS (.and w) s w [w.a, w.b] (extTy ty (a &&& b)) ∧
       GivesS (.or w) s w [w.a, w.b] (extTy ty (a ||| b)) ∧
       GivesS (.xor w) s w [w.a, w.b] (extTy ty (a ^^^ b)) ∧
       GivesS (.andn w) s w [w.a, w.b] (extTy ty (a % 2 ^ n &&& ((2 ^ n - 1) ^^^ b % 2 ^ n))) ∧
       GivesS (.shl w) s w [w.a, w.b] (extTy ty (a * 2 ^ (b % n))) ∧
       GivesS (.shr w) s w [w.a, w.b] (extTy ty (a / 2 ^ (b % n))) ∧
       GivesS (.sar w) s w [w.a, w.b] (extTy ty (sarBits n a b)) ∧
       GivesS (.rotr w) s w [w.a, w.b] (extTy ty (rotrBits n a b)) ∧
       GivesS (.sel w) s w [w.a, w.b] (extTy ty (if c.pred w.c then a else b))) ∧
     (Runs s w [w.a] [w.d] →
       GivesS (.mov w) s w [w.a] (extTy ty a) ∧
       GivesS (.clz w) s w [w.a] (extTy ty (clzBits n a)) ∧
       GivesS (.popc w) s w [w.a] (extTy ty (popCount n a))) ∧
     (Runs s w [w.a, w.b, w.c] [w.d] →
       GivesS (.bfx w) s w [w.a, w.b, w.c]
         (extTy ty (wrap n (bfxBits (isSigned ty) n a (c.raw w w.b).toNat (c.raw w w.c).toNat)))) ∧
     (Runs s w [w.a, w.b, w.c, w.e] [w.d] →
       GivesS (.bfi w) s w [w.a, w.b, w.c, w.e] (extTy ty (bfiBits n a b (c.raw w w.c).toNat (c.raw w w.e).toNat))))

/-- What the bit counts, shifts and fields of R100 and R101 are, bit by bit: SAR fills with the top bit, ROTR turns within w bits, CLZ counts
the zeros above the highest one, BFX takes a field and extends it, BFI replaces one.
DIV and REM fit together (R101): for a divisor other than 0 the quotient is truncated toward zero, the remainder is smaller in
magnitude and takes the sign of the dividend; division by zero gives all ones and a; the overflowing division gives the minimum and 0. -/
def Obligations.ScalarOperationsMeaning : Prop :=
  (∀ (w a b c e : Nat), 0 < w → a < 2 ^ w →
     (∀ i, i < w → bit (sarBits w a b) i = bit a (min (i + b % w) (w - 1))) ∧ sarBits w a b < 2 ^ w ∧
     (∀ i, i < w → bit (rotrBits w a b) i = bit a ((i + b % w) % w)) ∧ rotrBits w a b < 2 ^ w ∧
     (a = 0 → clzBits w a = w) ∧ (a ≠ 0 → 2 ^ (w - 1 - clzBits w a) ≤ a ∧ a < 2 ^ (w - clzBits w a)) ∧
     popCount w a = ((List.range w).filter (fun i => bit a i)).length ∧
     (let pos := (b % 64) % w
      let len := min (c % 128) (w - pos)
      (∀ i, i < len → ((bfxBits false w a b c).toNat).testBit i = bit a (pos + i)) ∧
      0 ≤ bfxBits false w a b c ∧ bfxBits false w a b c < 2 ^ len ∧
      (∃ k : Int, bfxBits true w a b c = bfxBits false w a b c - k * 2 ^ len ∧ (k = 0 ∨ k = 1) ∧
        (len ≠ 0 → -(2 : Int) ^ (len - 1) ≤ bfxBits true w a b c ∧ bfxBits true w a b c < 2 ^ (len - 1)) ∧
        (len = 0 → bfxBits true w a b c = 0))) ∧
     (let pos := (c % 64) % w
      let len := min (e % 128) (w - pos)
      ∀ i, i < w → bit (bfiBits w a b c e) i = if pos ≤ i ∧ i < pos + len then bit b (i - pos) else bit a i)) ∧
  (∀ (w : Nat) (a b : Int), 0 < w →
     (b ≠ 0 → a = b * divInt w a b + remInt a b ∧ (remInt a b).natAbs < b.natAbs ∧
       (remInt a b ≠ 0 → (0 < remInt a b ↔ 0 < a))) ∧
     wrap w (divInt w a 0) = 2 ^ w - 1 ∧ remInt a 0 = a ∧
     wrap w (divInt w (-2 ^ (w - 1)) (-1)) = 2 ^ (w - 1) ∧ remInt (-2 ^ (w - 1)) (-1) = 0)

/-- Scalar floating point (R102, R103): one rounding of the exact result in the mode of FN to the type TY, placed in the low bits of the
s register D with zeros above; the frame is that of the integer words. The sign of an exactly zero product or quotient is the model's choice (log 73).
FCVT reads its source at the type FN[7:4] and converts it to TY (R103), the same type being a copy. That an infinity under
.sat becomes the largest finite value, and how an 8-bit type reads an immediate, are the model's readings (logs 75 and 77). -/
def Obligations.ScalarFloatingPoint : Prop :=
  (∀ (w : Fields) (s : State) (f : Fmt), w.d.cls = 0 → Fmt.ofTy w.ty.toNat = some f →
     let c := s.ctx s.cur
     let ty := w.ty.toNat
     let r := Fields.rnd w
     let sat := Fields.sat w
     let a := FVal.ofCode f (c.scalar w ty w.a)
     let b := FVal.ofCode f (c.scalar w ty w.b)
     (Runs s w [w.a, w.b] [w.d] →
       GivesS (.fadd w) s w [w.a, w.b] (extTy ty (roundVal f r sat (a.add r b))) ∧
       GivesS (.fsub w) s w [w.a, w.b] (extTy ty (roundVal f r sat (a.add r b.neg))) ∧
       GivesS (.fmul w) s w [w.a, w.b] (extTy ty (roundVal f r sat (a.mul b))) ∧
       GivesS (.fdiv w) s w [w.a, w.b] (extTy ty (fdiv f r sat a b)) ∧
       GivesS (.fmin w) s w [w.a, w.b] (extTy ty (fminmax f false (c.scalar w ty w.a) (c.scalar w ty w.b))) ∧
       GivesS (.fmax w) s w [w.a, w.b] (extTy ty (fminmax f true (c.scalar w ty w.a) (c.scalar w ty w.b)))) ∧
     (Runs s w [w.a, w.b, w.c] [w.d] →
       GivesS (.ffma w) s w [w.a, w.b, w.c]
         (extTy ty (roundVal f r sat ((a.mul b).add r (FVal.ofCode f (c.scalar w ty w.c)))))) ∧
     (Runs s w [w.a] [w.d] →
       GivesS (.fsqrt w) s w [w.a] (extTy ty (fsqrt f r sat a)))) ∧
  (∀ (w : Fields) (s : State), w.d.cls = 0 → Runs s w [w.a] [w.d] →
     let c := s.ctx s.cur
     let src := w.fn.toNat / 16
     let a := c.scalar w src w.a
     GivesS (.fcvt w) s w [w.a] (extTy w.ty.toNat (convert src w.ty.toNat (Fields.rnd w) (Fields.sat w) a)) ∧
     (src = w.ty.toNat → GivesS (.fcvt w) s w [w.a] (extTy w.ty.toNat a)))

/-- CMP and FCMP write the condition of FN to the predicate D, PLOG the truth-table bit FN[4a + 2b + c]; a write to p0 is discarded and
every other register, every special register and every byte of memory stays (R73, R100, R102, R104). An operand of PLOG that names an m register
is an illegal word of REASON 3. -/
def Obligations.PredicateResults : Prop :=
  (∀ (w : Fields) (n : Nat), w.ty.toNat = 15 → (∃ o, (o = w.d ∨ o = w.a ∨ o = w.b ∨ o = w.c) ∧ o.cls = 2 ∧ 16 ≤ o.idx.toNat ∧ o.idx.toNat ≤ 31) →
    ∃ b, wordFlaw n (.plog w) = some (3, b)) ∧
  ∀ (w : Fields) (s : State), w.d.idx.toNat < 8 →
    let c := s.ctx s.cur
    let ty := w.ty.toNat
    (isInt ty = true → w.fn.toNat < 6 → Runs s w [w.a, w.b] [] →
      let a := c.int w ty w.a
      let b := c.int w ty w.b
      GivesP (.cmp w) s w [w.a, w.b]
        (match w.fn.toNat with
          | 0 => decide (a = b) | 1 => decide (a ≠ b) | 2 => decide (a < b)
          | 3 => decide (a ≤ b) | 4 => decide (a > b) | _ => decide (a ≥ b))) ∧
    (∀ f, Fmt.ofTy ty = some f → w.fn.toNat < 8 → Runs s w [w.a, w.b] [] →
      let a := FVal.ofCode f (c.scalar w ty w.a)
      let b := FVal.ofCode f (c.scalar w ty w.b)
      GivesP (.fcmp w) s w [w.a, w.b]
        (if a.isNan || b.isNan then decide (w.fn.toNat = 1 ∨ w.fn.toNat = 6)
         else match w.fn.toNat with
          | 0 => a.cmp b == .eq | 1 => a.cmp b != .eq | 2 => a.cmp b == .lt | 3 => a.cmp b != .gt
          | 4 => a.cmp b == .gt | 5 => a.cmp b != .lt | 6 => false | _ => true)) ∧
    (Runs s w [] [] →
      GivesP (.plog w) s w [] (w.fn.getLsbD (4 * b2n (c.pred w.a) + 2 * b2n (c.pred w.b) + b2n (c.pred w.c))))

/-! ### Vector words -/

/-- Elementwise vector integer words (R107, R108, R112, R113): each active element of the v register D takes the result of the elements of
the sources, wrapped or clamped; inactive elements, every other register, every special register and every byte of memory stay.
The widening pairs and the dot product (R57, R114, R115): sums are exact and wrapped or clamped once. -/
def Obligations.VectorIntegerElements : Prop :=
  (∀ (w : Fields) (s : State), w.d.cls = 1 → isInt w.ty.toNat = true →
     let c := s.ctx s.cur
     let ty := w.ty.toNat
     let n := tyBits ty
     let a (j : Nat) := element c w ty w.a j
     let b (j : Nat) := element c w ty w.b j
     let x (j : Nat) := tyVal ty (a j)
     let y (j : Nat) := tyVal ty (b j)
     let put (r : Int) : Nat := toTy ty (Fields.sat w) r
     let l1 := withMask w [w.a]
     let l2 := withMask w [w.a, w.b]
     let l3 := withMask w [w.a, w.b, w.c]
     (Runs s w l2 [w.d] →
       GivesEach (.vadd w) s w l2 ty (fun j => put (x j + y j)) ∧
       GivesEach (.vsub w) s w l2 ty (fun j => put (x j - y j)) ∧
       GivesEach (.vmul w) s w l2 ty (fun j => put (x j * y j)) ∧
       GivesEach (.vmulh w) s w l2 ty (fun j => put ((x j * y j) >>> n)) ∧
       GivesEach (.vmin w) s w l2 ty (fun j => put (if x j ≤ y j then x j else y j)) ∧
       GivesEach (.vmax w) s w l2 ty (fun j => put (if x j ≤ y j then y j else x j)) ∧
       GivesEach (.vand w) s w l2 ty (fun j => a j &&& b j) ∧
       GivesEach (.vor w) s w l2 ty (fun j => a j ||| b j) ∧
       GivesEach (.vxor w) s w l2 ty (fun j => a j ^^^ b j) ∧
       GivesEach (.vshl w) s w l2 ty (fun j => a j * 2 ^ (b j % n)) ∧
       GivesEach (.vshr w) s w l2 ty (fun j => a j / 2 ^ (b j % n)) ∧
       GivesEach (.vsar w) s w l2 ty (fun j => sarBits n (a j) (b j))) ∧
     (Runs s w l1 [w.d] →
       GivesEach (.vabs w) s w l1 ty (fun j => put |x j|) ∧
       GivesEach (.vclz w) s w l1 ty (fun j => clzBits n (a j)) ∧
       GivesEach (.vpopc w) s w l1 ty (fun j => popCount n (a j))) ∧
     (Runs s w l3 [w.d] →
       GivesEach (.vmadd w) s w l3 ty (fun j => put (x j * y j + tyVal ty (element c w ty w.c j)))) ∧
     (Runs s w l3 [w.d] →
       GivesEach (.vsel w) s w l3 ty (fun j => if bit (c.mask w.c).toNat (govern ty j) then a j else b j))) ∧
  (∀ (w : Fields) (s : State), w.d.cls = 1 →
     let c := s.ctx s.cur
     let ty := w.ty.toNat
     let a (j : Nat) : Int := tyVal ty (element c w ty w.a j)
     let wide (j : Nat) : Int := tyVal (ty + 1) (element c w (ty + 1) w.b j)
     let l2 := withMask w [w.a, w.b]
     let l3 := withMask w [w.a, w.b, w.c]
     (ty ∈ [0, 1, 2, 4, 5, 6] → Runs s w l2 [w.d] →
       GivesEach (.vadds w) s w l2 (ty + 1) (fun j => toTy (ty + 1) (Fields.sat w) (a (2 * j) + a (2 * j + 1) + wide j)) ∧
       GivesEach (.vsubs w) s w l2 (ty + 1) (fun j => toTy (ty + 1) (Fields.sat w) (wide j - a (2 * j) - a (2 * j + 1)))) ∧
     (ty ∈ [1, 2, 3, 5, 6, 7] → w.a.mod = 0 → w.b.mod = 0 → Runs s w l3 [w.d] →
       let byteTy := if isSigned ty then 0 else 4
       let p (k : Nat) : Int := tyVal byteTy (element c w byteTy w.a k) * tyVal byteTy (element c w byteTy w.b k)
       GivesEach (.vdot w) s w l3 ty (fun j =>
         if j < 32 then toTy ty (Fields.sat w) (tyVal ty (element c w ty w.c j) + ((List.range 8).map (fun k => p (8 * j + k))).sum)
         else 0)))

/-- VCMP and VFCMP write the governing bits of the active elements of the m register D with the condition of FN; every other bit of D, every
other register, every special register and every byte of memory stays (R73, R108, R113, R116). -/
def Obligations.VectorCompares : Prop :=
  ∀ (w : Fields) (s : State), w.d.idx.toNat - 16 < 16 → w.ty.toNat ≤ 10 →
    let c := s.ctx s.cur
    let ty := w.ty.toNat
    let l2 := withMask w [w.a, w.b]
    Runs s w l2 [] →
      let holds (j : Nat) : Bool := cond ty (w.fn.toNat % 16) (element c w ty w.a j) (element c w ty w.b j)
      GivesBits (.vcmp w) s w l2 ty holds ∧ GivesBits (.vfcmp w) s w l2 ty holds

/-- Elementwise vector floating point (R116, R117): each active element is the exact result rounded once in the mode of FN. Where no
precision that is tried settles the rounding of VFSIG, `fsig` is the free value of log 8: that is the model's choice; what the five functions give is
stated in `TranscendentalsRoundOnce`. So is the sign of an exactly zero product (log 73).
VCVT converts part k of the wider side (R118): the elements of D outside the part, and inactive ones, stay; a k4 element is its code's
value, or its block's alt byte in eighths, the scale not applied. VQK4 writes the eight blocks of its two sources in the layout of R119 and
R120 and zeroes the rest of D. That an infinity under .sat becomes the largest finite value is the model's reading (log 75). -/
def Obligations.VectorFloatingPoint : Prop :=
  (∀ (w : Fields) (s : State) (f : Fmt), w.d.cls = 1 → Fmt.ofTy w.ty.toNat = some f →
     let c := s.ctx s.cur
     let ty := w.ty.toNat
     let r := Fields.rnd w
     let sat := Fields.sat w
     let x (j : Nat) := FVal.ofCode f (element c w ty w.a j)
     let y (j : Nat) := FVal.ofCode f (element c w ty w.b j)
     let l1 := withMask w [w.a]
     let l2 := withMask w [w.a, w.b]
     let l3 := withMask w [w.a, w.b, w.c]
     (Runs s w l2 [w.d] →
       GivesEach (.vfadd w) s w l2 ty (fun j => roundVal f r sat ((x j).add r (y j))) ∧
       GivesEach (.vfsub w) s w l2 ty (fun j => roundVal f r sat ((x j).add r (y j).neg)) ∧
       GivesEach (.vfmul w) s w l2 ty (fun j => roundVal f r sat ((x j).mul (y j))) ∧
       GivesEach (.vfmin w) s w l2 ty (fun j => fminmax f false (element c w ty w.a j) (element c w ty w.b j)) ∧
       GivesEach (.vfmax w) s w l2 ty (fun j => fminmax f true (element c w ty w.a j) (element c w ty w.b j))) ∧
     (Runs s w l3 [w.d] →
       GivesEach (.vffma w) s w l3 ty
         (fun j => roundVal f r sat (((x j).mul (y j)).add r (FVal.ofCode f (element c w ty w.c j))))) ∧
     (Runs s w l1 [w.d] →
       GivesEach (.vfexp2 w) s w l1 ty (fun j => fexp2 f r sat (x j)) ∧
       GivesEach (.vflog2 w) s w l1 ty (fun j => flog2 f r sat (x j)) ∧
       GivesEach (.vfrcp w) s w l1 ty (fun j => frcp f r sat (x j)) ∧
       GivesEach (.vfrsq w) s w l1 ty (fun j => frsq f r sat (x j)) ∧
       GivesEach (.vfsig w) s w l1 ty (fun j => fsig f r sat (x j)))) ∧
  (∀ (w : Fields) (s : State), w.d.cls = 1 →
     let c := s.ctx s.cur
     let src := w.fn.toNat / 16
     let dst := w.ty.toNat
     let k := (immOf w w.b).toNat
     let l1 := withMask w [w.a]
     let x := (c.vec w.a).toNat
     let k4Code (j : Nat) : Nat := elem 4 x (256 * (j / 128) + j % 128)
     let k4Exact (j : Nat) : FVal :=
       if k4Code j = 8 then FVal.ofInt false (sgn 8 (elem 8 x (128 * (j / 128) + 64 + j % 128 / 32))) (-3) else FVal.ofCode .e2m1 (k4Code j)
     let modified (v : FVal) : FVal := if w.a.mod.toNat = 1 then v.neg else if w.a.mod.toNat = 2 then v.abs else v
     let value (j : Nat) : Nat :=
       if src = 14 then
         (match Fmt.ofTy dst with
          | some f => roundVal f (Fields.rnd w) (Fields.sat w) (modified (k4Exact j))
          | none => toTy dst true (((modified (k4Exact j)).toInt (Fields.rnd w)).getD 0))
       else convert src dst (Fields.rnd w) (Fields.sat w) (element c w src w.a j)
     (src ≤ 14 → dst ≤ 13 → Runs s w l1 [w.d] →
       ∃ t v, exec (.vcvt w) s = .next t ∧ Computes s t l1 ∧ SetsV c.arch (t.ctx s.cur).arch w.d.idx.toNat v ∧
         ∀ dj, dj < nElems dst → elem (tyBits dst) v.toNat dj =
           (let sj : Nat := if nElems dst ≤ nElems src then k * nElems dst + dj else dj - k * nElems src
            let inPart : Bool := if nElems dst ≤ nElems src then decide (sj < nElems src)
              else decide (k * nElems src ≤ dj ∧ dj < k * nElems src + nElems src)
            if isActive c w dst dj && inPart then value sj % 2 ^ tyBits dst
            else elem (tyBits dst) (c.arch.rv w.d.idx.toNat).toNat dj)) ∧
     (Runs s w [w.a, w.b] [w.d] →
       let xs (j : Nat) : FVal :=
         FVal.ofCode .bf16 (if j < 128 then element c w 9 w.a j else element c w 9 w.b (j - 128))
       let block (g : Nat) := quantBlock (tab 32 (fun i => xs (32 * g + i)))
       ∃ t v, exec (.vqk4 w) s = .next t ∧ Computes s t [w.a, w.b] ∧ SetsV c.arch (t.ctx s.cur).arch w.d.idx.toNat v ∧
         ∀ g, g < 8 →
           (∀ i, i < 32 → elem 4 v.toNat (256 * (g / 4) + 32 * (g % 4) + i) = ((block g).1[i]?.getD 0) % 16) ∧
           elem 8 v.toNat (128 * (g / 4) + 64 + g % 4) = (block g).2.1 % 256 ∧
           elem 8 v.toNat (128 * (g / 4) + 68 + g % 4) = (block g).2.2 % 256 ∧
           ∀ i, 72 ≤ i → i < 128 → elem 8 v.toNat (128 * (g / 4) + i) = 0))

/-- The transcendental functions (R58, R117) give the exact value of their function, rounded once: wherever a grid of at least three bits more than the
format has the value strictly between two neighbours, or on one, the result is that of the one rounding (R44) there, for every operand of the three
formats. VFSIG may instead give the free value of log 8, where no precision that is tried settles its rounding: that is the model's choice. The rows
of the tables for zeros, infinities and NaN follow; an infinity under .sat is the largest finite value (log 75, the model's reading). -/
def Obligations.TranscendentalsRoundOnce : Prop :=
  ∀ (f : Fmt) (r : Rnd) (sat : Bool), (f = .f32 ∨ f = .bf16 ∨ f = .f16) →
    let rounded (c : Nat) (v : ℝ) : Prop := ∀ (neg : Bool) (k : Nat) (t : Int), 2 ^ (f.mb + 3) ≤ k → (v < 0 ↔ neg = true) →
      ((k : ℝ) * 2 ^ t < |v| → |v| < ((k : ℝ) + 1) * 2 ^ t → c = roundMag f r sat neg k t true) ∧
      (|v| = (k : ℝ) * 2 ^ t → c = roundMag f r sat neg k t false)
    let inf (neg : Bool) : Nat := roundVal f r sat (.inf neg)
    let zero (neg : Bool) : Nat := signed f neg 0
    (∀ code neg m e, code < 2 ^ f.w → FVal.ofCode f code = .fin neg m e →
      let x : FVal := .fin neg m e
      let a : ℝ := (if neg then -1 else 1) * m * (2 : ℝ) ^ e
      (m ≠ 0 → rounded (fexp2 f r sat x) ((2 : ℝ) ^ a) ∧ rounded (frcp f r sat x) (1 / a) ∧
        (rounded (fsig f r sat x) (1 / (1 + Real.exp (-a))) ∨ fsig f r sat x = Config.hardCase m) ∧
        (0 < a → a ≠ 1 → rounded (flog2 f r sat x) (Real.logb 2 a)) ∧ (a = 1 → flog2 f r sat x = zero false) ∧
        (0 < a → rounded (frsq f r sat x) (1 / Real.sqrt a)) ∧
        (a < 0 → flog2 f r sat x = f.nanCode ∧ frsq f r sat x = f.nanCode)) ∧
      (m = 0 → fexp2 f r sat x = f.bias * 2 ^ f.mb ∧ flog2 f r sat x = inf true ∧ frcp f r sat x = inf neg ∧ frsq f r sat x = inf neg ∧
        fsig f r sat x = (f.bias - 1) * 2 ^ f.mb)) ∧
    (∀ g ∈ [fexp2, flog2, frcp, frsq, fsig], g f r sat .nan = f.nanCode) ∧
    fexp2 f r sat (.inf false) = inf false ∧ fexp2 f r sat (.inf true) = zero false ∧
    flog2 f r sat (.inf false) = inf false ∧ flog2 f r sat (.inf true) = f.nanCode ∧
    frcp f r sat (.inf false) = zero false ∧ frcp f r sat (.inf true) = zero true ∧
    frsq f r sat (.inf false) = zero false ∧ frsq f r sat (.inf true) = f.nanCode ∧
    fsig f r sat (.inf false) = f.bias * 2 ^ f.mb ∧ fsig f r sat (.inf true) = zero false

/-- Permutations (R121): which element of which source each active element takes. An index is taken modulo N.
VCOMPR packs the selected elements and zeroes the rest; VEXPND spreads elements to the selected places with zeros between (R122).
Together: expanding what was compressed under the same mask gives the selected elements back. -/
def Obligations.VectorPermutes : Prop :=
  (∀ (w : Fields) (s : State), w.ty.toNat ≤ 13 →
     let c := s.ctx s.cur
     let ty := w.ty.toNat
     let n := nElems ty
     let a (j : Nat) := element c w ty w.a j
     let b (j : Nat) := element c w ty w.b j
     let ib := (c.raw w w.b).toNat % n
     let ic := (c.raw w w.c).toNat % n
     let h := (immOf w w.c).toNat
     let l2 := withMask w [w.a, w.b]
     let l3 := withMask w [w.a, w.b, w.c]
     (w.d.cls = 1 →
       (Operand.isVec w.a = true → w.a.mod = 0 → Runs s w l2 [w.d] → GivesEach (.vbcast w) s w l2 ty (fun _ => a ib)) ∧
       (Operand.isVec w.a = false → Runs s w (withMask w [w.a]) [w.d] →
         GivesEach (.vbcast w) s w (withMask w [w.a]) ty (fun _ => c.scalar w ty w.a)) ∧
       (Runs s w l2 [w.d] → GivesEach (.vperm w) s w l2 ty (fun j => a (b j % n))) ∧
       (Runs s w l3 [w.d] → GivesEach (.vslide w) s w l3 ty (fun j => if j + ic < n then a (j + ic) else b (j + ic - n))) ∧
       (h ≤ 1 → Runs s w l2 [w.d] →
         GivesEach (.vzip w) s w l2 ty (fun j => if j % 2 = 0 then a (h * (n / 2) + j / 2) else b (h * (n / 2) + j / 2)) ∧
         GivesEach (.vunzip w) s w l2 ty (fun j => if 2 * j + h < n then a (2 * j + h) else b (2 * j + h - n))) ∧
       (Runs s w [w.a, w.b] [w.d] →
         ∃ t v, exec (.vins w) s = .next t ∧ Computes s t [w.a, w.b] ∧ SetsV c.arch (t.ctx s.cur).arch w.d.idx.toNat v ∧
           ∀ j, j < n → elem (tyBits ty) v.toNat j =
             if j = ib then c.scalar w ty w.a % 2 ^ tyBits ty else elem (tyBits ty) (c.arch.rv w.d.idx.toNat).toNat j)) ∧
     (w.d.cls = 0 → Operand.isVec w.a = true → w.a.mod = 0 → Runs s w [w.a, w.b] [w.d] →
       GivesS (.vext w) s w [w.a, w.b] (extTy ty (a ib)))) ∧
  ((∀ (w : Fields) (s : State), w.d.cls = 1 → w.ty.toNat ≤ 13 → Runs s w [w.a, w.c] [w.d] →
     let c := s.ctx s.cur
     let ty := w.ty.toNat
     let n := nElems ty
     let sel (j : Nat) : Bool := bit (c.mask w.c).toNat (govern ty j)
     let rank (j : Nat) : Nat := ((List.range j).filter sel).length
     (∃ t v, exec (.vcompr w) s = .next t ∧ Computes s t [w.a, w.c] ∧ SetsV c.arch (t.ctx s.cur).arch w.d.idx.toNat v ∧
       (∀ j, j < n → sel j = true → elem (tyBits ty) v.toNat (rank j) = element c w ty w.a j % 2 ^ tyBits ty) ∧
       ∀ i, i < n → rank n ≤ i → elem (tyBits ty) v.toNat i = 0) ∧
     (∃ t v, exec (.vexpnd w) s = .next t ∧ Computes s t [w.a, w.c] ∧ SetsV c.arch (t.ctx s.cur).arch w.d.idx.toNat v ∧
       ∀ j, j < n → elem (tyBits ty) v.toNat j = if sel j then element c w ty w.a (rank j) % 2 ^ tyBits ty else 0)) ∧
   ∀ (bs : List Bool) (xs : List Nat), bs.length = xs.length →
     expand bs (compress bs xs ++ List.replicate (bs.length - (compress bs xs).length) 0)
       = List.zipWith (fun (b : Bool) x => if b then x else 0) bs xs)

/-- Reductions (R55, R123): an integer sum is exact over the active elements and wrapped or clamped once; a floating-point sum and the
extremes combine them by the pairwise tree, an inactive element being its identity.
VSCAN, VIOTA and the mask words (R56, R72, R124, R125): an integer scan wraps or clamps at each step. That the first element is copied
as it is, a NaN or an infinity too, is the model's choice (log 72). -/
def Obligations.VectorReductions : Prop :=
  (∀ (w : Fields) (s : State), w.d.cls = 0 → w.ty.toNat ≤ 13 →
     let c := s.ctx s.cur
     let ty := w.ty.toNat
     let l1 := withMask w [w.a]
     let lanes (ident : Nat) : List Nat := tab (nElems ty) (fun j => if isActive c w ty j then element c w ty w.a j else ident)
     Runs s w l1 [w.d] →
       (isInt ty = true → GivesS (.vrsum w) s w l1 (extTy ty (toTy ty (Fields.sat w) ((lanes 0).map (tyVal ty)).sum))) ∧
       (∀ f, Fmt.ofTy ty = some f →
         GivesS (.vrsum w) s w l1 (extTy ty ((treeRed (fun x y =>
           roundVal f (Fields.rnd w) (Fields.sat w) ((FVal.ofCode f x).add (Fields.rnd w) (FVal.ofCode f y))) 9
             (lanes (2 ^ (tyBits ty - 1)))).getD 0 (2 ^ (tyBits ty - 1))))) ∧
       (isInt ty = true → ∃ hi lo : Nat,
         GivesS (.vrmax w) s w l1 (extTy ty hi) ∧ GivesS (.vrmin w) s w l1 (extTy ty lo) ∧
         (∀ j, j < nElems ty → isActive c w ty j = true →
           tyVal ty (element c w ty w.a j) ≤ tyVal ty hi ∧ tyVal ty lo ≤ tyVal ty (element c w ty w.a j)) ∧
         (hi ∈ lanes (extreme ty true) ∧ lo ∈ lanes (extreme ty false))) ∧
       (isInt ty = false →
         GivesS (.vrmax w) s w l1 (extTy ty ((treeRed (minmaxTy ty true) 9 (lanes (extreme ty true))).getD 0 (extreme ty true))) ∧
         GivesS (.vrmin w) s w l1 (extTy ty ((treeRed (minmaxTy ty false) 9 (lanes (extreme ty false))).getD 0 (extreme ty false))))) ∧
  (∀ (w : Fields) (s : State),
     let c := s.ctx s.cur
     let ty := w.ty.toNat
     let l1 := withMask w [w.a]
     (w.d.cls = 1 → isInt ty = true → Runs s w l1 [w.d] →
       GivesEach (.viota w) s w l1 ty (fun j => c.scalar w ty w.a + j) ∧
       (Fields.sat w = false → GivesEach (.vscan w) s w l1 ty (fun j => wrap (tyBits ty)
         (((List.range (j + 1)).map (fun i => if isActive c w ty i then tyVal ty (element c w ty w.a i) else 0)).sum))) ∧
       (let x (j : Nat) : Nat := if isActive c w ty j then element c w ty w.a j else 0
        ∃ y : Nat → Nat, y 0 = x 0 ∧ (∀ j, y (j + 1) = toTy ty (Fields.sat w) (tyVal ty (y j) + tyVal ty (x (j + 1)))) ∧
          GivesEach (.vscan w) s w l1 ty y)) ∧
     (w.d.cls = 1 → ∀ f, Fmt.ofTy ty = some f → Runs s w l1 [w.d] →
       GivesEach (.vscan w) s w l1 ty (fun j => (scan (fun x y =>
         roundVal f (Fields.rnd w) (Fields.sat w) ((FVal.ofCode f x).add (Fields.rnd w) (FVal.ofCode f y)))
         (tab (nElems ty) (fun i => if isActive c w ty i then element c w ty w.a i else 2 ^ (tyBits ty - 1)))).getD j 0)) ∧
     (w.d.idx.toNat - 16 < 16 → Runs s w [w.a, w.b, w.c] [] →
       ∃ v : Mask, GivesM (.mlog w) s w [w.a, w.b, w.c] v ∧
         ∀ i, i < 256 → v.getLsbD i =
           w.fn.getLsbD (4 * b2n ((c.mask w.a).getLsbD i) + 2 * b2n ((c.mask w.b).getLsbD i) + b2n ((c.mask w.c).getLsbD i))) ∧
     (w.d.cls = 0 → Runs s w [w.a] [w.d] →
       GivesS (.mcnt w) s w [w.a] (BitVec.ofNat 64 ((List.range 256).filter (fun i => (c.mask w.a).getLsbD i)).length) ∧
       ∃ k, GivesS (.mfirst w) s w [w.a] (BitVec.ofNat 64 k) ∧ k ≤ 256 ∧ (∀ i, i < k → (c.mask w.a).getLsbD i = false) ∧
         (k < 256 → (c.mask w.a).getLsbD k = true)))

/-! ### Memory words -/

/-- Loads (R129, R131, R132, R135): the word issues, its destination is empty until every part has arrived, and the producer holds one piece
per part, in ascending order, with the home, the length and the place in the destination of each. No byte of memory changes.
A scalar load and the arrival of its data (R131, R132, R135): for an access of one part outside `.g`, the register gets the bytes at the
address, each from the context's own latest buffered store if there is one and from memory otherwise, lowest first, extended by the type. No
earlier load of the context has yet to read those bytes. -/
def Obligations.LoadsIssueAndReturn : Prop :=
  (∀ (w : Fields) (s : State), Fields.space w ≠ .l →
     let c := s.ctx s.cur
     let n := memBytes w.ty.toNat
     let act := c.activeBytes w
     let ok (i : Instr) (r : Reg) (vec : Bool) (l : List Acc) : Prop :=
       ∃ t pieces, exec i s = .next t ∧ SameMemory s t ∧ Issued s t r (acquireOf w) (.load w.ty.toNat vec pieces []) ∧
         pieces.map (fun (p : Piece) => (p.va, p.home, p.len, p.off)) = l.map (fun a => (a.va, homeOfPart s w false a, a.len, a.off)) ∧
         ∀ p ∈ pieces, p.fwd = tab p.len (fun i =>
           if vec && !(act.getD (p.off + i) true) then
             some (byteOf (c.arch.rv w.d.idx.toNat).toNat (p.off + i))
           else if (Fields.space w).buffered then c.forward (Fields.space w) p.base (spaceAddr (Fields.space w) p.va + i) else none)
     let scalar := accParts (c.addr w) n 0 none
     let block := liveParts s w (accParts (c.addr w) 256 0 none)
     let strided := liveParts s w (c.elemAccs w true)
     let gathered := liveParts s w (c.elemAccs w false)
     let l2 := withMask w [w.a, w.b]
     (w.d.cls = 0 → Runs s w [w.a, w.b] [w.d] → mayAccess s w false false scalar = true →
       ok (.ld w) (.s w.d.idx.toNat) false scalar) ∧
     (w.d.cls = 1 → Runs s w l2 [w.d] →
       (mayAccess s w false false block = true → ok (.vld w) (.v w.d.idx.toNat) true block) ∧
       (mayAccess s w false false strided = true → ok (.vlds w) (.v w.d.idx.toNat) true strided) ∧
       (mayAccess s w false false gathered = true → ok (.vgath w) (.v w.d.idx.toNat) true gathered))) ∧
  (∀ (w : Fields) (s : State), Fields.space w ≠ .l → Fields.space w ≠ .g → w.d.cls = 0 → w.d.idx ≠ 0 →
     let c := s.ctx s.cur
     let sp := Fields.space w
     let a := c.addr w
     let n := memBytes w.ty.toNat
     let base := s.spaceBase s.cur sp a
     a % 64 + n ≤ 64 → Runs s w [w.a, w.b] [w.d] → (∀ p ∈ c.prods, p.id < s.serial) →
     (∀ p ∈ c.prods, p.readsAlso { home := homeOf sp base a, len := n } = false) →
     mayAccess s w false false (accParts a n 0 none) = true →
     ∃ t u, exec (.ld w) s = .next t ∧ exec (.loadDataArrival s.cur c.prods.length .clean) t = .next u ∧
       (u.ctx s.cur).arch.rs w.d.idx.toNat = extTy w.ty.toNat (ofBytes (tab n (fun i =>
         ((if sp.buffered then c.forward sp base (spaceAddr sp a + i) else none).getD
           (memGet s.mem (homeOf sp base a + i)))))) ∧
       (u.ctx s.cur).arch.full (.s w.d.idx.toNat) = true ∧ SameMemory s u)

/-- Stores to `.g`, `.n` and `.d` (R32, R134): no byte of memory changes; the open round holds the stored bytes, the last of two for the same
address, and every byte that it held before elsewhere. A privileged block of `.d` is for privileged contexts (R200).
Stores to `.s` and `.l` are not buffered (R32): the word issues and holds the bytes of each part with their homes, and a part is performed by
LOAD_DATA_ARRIVAL, which makes each byte of memory the last one stored to its home, or leaves it; the registers and the open round stay as
they are. That issuing and performing are two moves is the model's reading of R21 and R393. (DEDUCED, log 15) -/
def Obligations.Stores : Prop :=
  (∀ (w : Fields) (s : State), (Fields.space w).buffered = true →
     let c := s.ctx s.cur
     let sp := Fields.space w
     let act := c.activeBytes w
     let ok (i : Instr) (act : List Bool) (l : List Acc) (v : Nat) (srcs : List Operand) : Prop :=
       mayAccess s w (Fields.rel w) true l = true →
       (sp ≠ .d ∨ c.priv = true ∨ l.any (fun a => touchesGuarded s.cur.die a.va a.len) = false) →
       (c.opn.store (s.storeBytes sp act v l)).used ≤ 1024 →
       ∃ t, Does i s w (fun c => { c.consume srcs with opn := c.opn.store (s.storeBytes sp act v l) }) ∧ exec i s = .next t ∧
         SameMemory s t ∧ SameOthers s t ∧ SetsNone c.arch (t.ctx s.cur).arch ∧
         ∀ sp' base a, (t.ctx s.cur).opn.byte sp' base a =
           match ((s.storeBytes sp act v l).reverse.find? (fun b => b.1 == sp' && b.2.1 == base && b.2.2.1 == a)) with
           | some b => some b.2.2.2
           | none => c.opn.byte sp' base a
     let l3 := withMask w [w.a, w.b, w.c]
     (Runs s w [w.a, w.b, w.c] [] →
       ok (.st w) [] (accParts (c.addr w) (memBytes w.ty.toNat) 0 none) (c.scalar w w.ty.toNat w.c) [w.a, w.b, w.c]) ∧
     (Runs s w l3 [] →
       ok (.vst w) act (liveParts s w (accParts (c.addr w) 256 0 none)) (c.vec w.c).toNat [w.a, w.b, w.c] ∧
       ok (.vsts w) act (liveParts s w (c.elemAccs w true)) (c.vec w.c).toNat [w.a, w.b, w.c] ∧
       ok (.vscat w) act (liveParts s w (c.elemAccs w false)) (c.vec w.c).toNat [w.a, w.b, w.c])) ∧
  ((∀ (w : Fields) (s : State), Fields.space w = .s →
     let c := s.ctx s.cur
     let act := c.activeBytes w
     let ok (i : Instr) (act : List Bool) (l : List Acc) (v : Nat) (srcs : List Operand) : Prop :=
       mayAccess s w (Fields.rel w) true l = true → (c.releaseWait (Fields.rel w)).isNone = true →
       l.all (fun a => (s.scaleWait a.va a.len).isNone) = true →
       let todo := (l.map (fun a => storedAt s w act v [a])).filter (fun b => !b.isEmpty)
       DoesTo i s w { s.put { c.consume srcs with
           prods := c.prods ++ (if todo = [] then [] else [{ id := s.serial, serial := c.opn.serial, kind := .store todo }]) } with
         serial := s.serial + 1 }
     (Runs s w [w.a, w.b, w.c] [] →
       ok (.st w) [] (accParts (c.addr w) (memBytes w.ty.toNat) 0 none) (c.scalar w w.ty.toNat w.c) [w.a, w.b, w.c]) ∧
     (Runs s w (withMask w [w.a, w.b, w.c]) [] →
       ok (.vst w) act (liveParts s w (accParts (c.addr w) 256 0 none)) (c.vec w.c).toNat [w.a, w.b, w.c] ∧
       ok (.vsts w) act (liveParts s w (c.elemAccs w true)) (c.vec w.c).toNat [w.a, w.b, w.c] ∧
       ok (.vscat w) act (liveParts s w (c.elemAccs w false)) (c.vec w.c).toNat [w.a, w.b, w.c])) ∧
   ∀ (s : State) (x : CtxId) (k : Nat) (p : Prod) (l : List (Nat × Byte)) (todo : List (List (Nat × Byte))), Sound s →
     (s.ctx x).prods[k]? = some p → p.kind = .store (l :: todo) → (s.ctx x).prods.find? (fun q => q.id == p.id) = some p →
     (∀ b ∈ l, homeTag 3 ≤ b.1) →
     ∃ t, exec (.loadDataArrival x k .clean) s = .next t ∧ (t.ctx x).arch = (s.ctx x).arch ∧ (t.ctx x).opn = (s.ctx x).opn ∧
       ((t.ctx x).prods.find? (fun q => q.id == p.id)).map (fun q => q.kind) = (if todo = [] then none else some (.store todo)) ∧
       ∀ h, memGet t.mem h = match (l.reverse.find? (fun b => b.1 == h)) with
         | some b => b.2
         | none => memGet s.mem h)

/-- The lane forms (R30, R131): lane i of a VLD reads row a of its own slice, an element of a VGATH its own row in each of its lanes; VST and
VSCAT write them. `.l` is the executing lane's own. The words issue; LOAD_DATA_ARRIVAL reads every active lane and fills the destination once no
earlier load of the context has yet to read one of those bytes, or performs the store as it does one to `.s`. (DEDUCED, log 15 and 71) -/
def Obligations.LaneSlices : Prop :=
  (∀ (w : Fields) (s : State), Fields.space w = .l →
    let c := s.ctx s.cur
    let n := memBytes w.ty.toNat
    let act := c.activeBytes w
    let row (indexed : Bool) (i : Nat) : Nat :=
      if indexed then ((c.raw w w.a).toNat + elem (8 * n) (c.vec w.b).toNat (i / n)) % 2 ^ 64 else c.addr w
    let fits (indexed : Bool) : Prop := ∀ i, i < 256 → act.getD i false = true → row indexed i < 2 ^ 10
    let homes (indexed : Bool) : List (Nat × Nat) :=
      ((List.range 256).filter (fun i => act.getD i false)).map (fun i => (i, laneKey s.cur.ck i (row indexed i)))
    let free (indexed wr : Bool) : Prop := c.laneWait ((homes indexed).map (fun h => h.2)) wr = none
    let reads (i : Instr) (indexed : Bool) : Prop :=
      ∃ t, exec i s = .next t ∧ SameMemory s t ∧ Issued s t (.v w.d.idx.toNat) (acquireOf w) (.lanes (homes indexed))
    let writes (i : Instr) (indexed : Bool) : Prop :=
      let bytes := (homes indexed).map (fun h => (h.2, byteOf (c.vec w.c).toNat h.1))
      DoesTo i s w { s.put { c.consume [w.a, w.b, w.c] with
          prods := c.prods ++ (if bytes = [] then [] else [{ id := s.serial, serial := c.opn.serial, kind := .store [bytes] }]) } with
        serial := s.serial + 1 }
    (w.d.cls = 1 → Runs s w (withMask w [w.a, w.b]) [w.d] → c.orderWait false = none →
      (fits false → free false false → reads (.vld w) false) ∧ (fits true → free true false → reads (.vgath w) true)) ∧
    (Runs s w (withMask w [w.a, w.b, w.c]) [] → c.orderWait (Fields.rel w) = none → c.releaseWait (Fields.rel w) = none →
      (fits false → free false true → writes (.vst w) false) ∧ (fits true → free true true → writes (.vscat w) true))) ∧
  ∀ (s : State) (x : CtxId) (k d : Nat) (p : Prod) (l : List (Nat × Nat)),
    (s.ctx x).prods[k]? = some p → p.kind = .lanes l → p.dst = .v d → d < 32 → (l.map (fun e => e.1)).Nodup →
    ((s.ctx x).prods.take k).any (fun o => o.lanesAlso l) = false →
    ∃ t, exec (.loadDataArrival x k .clean) s = .next t ∧ SameMemory s t ∧ (t.ctx x).arch.full (.v d) = true ∧
      (∀ e ∈ l, e.1 < 256 → byteOf ((t.ctx x).arch.rv d).toNat e.1 = memGet s.mem e.2) ∧
      ∀ i, i < 256 → (∀ e ∈ l, e.1 ≠ i) → byteOf ((t.ctx x).arch.rv d).toNat i = byteOf ((s.ctx x).arch.rv d).toNat i

/-- PREF, CFLUSH and CINV (R133, R144): they move nothing but cache sectors. PREF returns nothing; CFLUSH leaves no sector of its range dirty in
L2, CINV none in the cell's L1; with translations at hand, not one byte of memory changes. -/
def Obligations.CacheMaintenance : Prop :=
  ∀ (w : Fields) (s : State),
    let c := s.ctx s.cur
    let a := c.addr w
    let n := min (c.raw w w.c).toNat (2 ^ 32)
    let cachedAt (va : Nat) : Option Nat := s.cached (.ctx s.cur) c.arch.asid.toNat va false false
    (Runs s w [w.a, w.b] [] →
      ∃ t, exec (.pref w) s = .next t ∧ MovesOn s t ∧ SameOthers s t ∧ SetsNone c.arch (t.ctx s.cur).arch ∧
        ((cachedAt a).isSome = true → SameMemory s t)) ∧
    (Runs s w [w.a, w.b, w.c] [] → n = 0 → DoesTo (.cflush w) s w s ∧ DoesTo (.cinv w) s w s) ∧
    (∀ pa, Runs s w [w.a, w.b, w.c] [] → 0 < n → a + n ≤ 2 ^ 49 →
      a / 128 * 128 / 2 ^ 16 = ((a + n - 1) / 128 * 128 + 127) / 2 ^ 16 → cachedAt (a / 128 * 128) = some pa →
      let len := (a + n - 1) / 128 * 128 + 128 - a / 128 * 128
      DoesTo (.cflush w) s w { s with l2dirty := s.l2dirty.filter (fun e => !inSectors pa len e) } ∧
      DoesTo (.cinv w) s w (s.modCell s.cur.ck (fun k => { k with l1 := k.l1.filter (fun e => !inSectors pa len e.pa) })))

/-! ### Rings, atomics, waits and barriers -/

/-- The ring words (R137 to R143): BINIT sets geometry and counters, BPUSH writes a part of the slot at the tail in the cell's own scratch and
moves the tail with the last part, BPOP reads a part at the speculative head and moves it, BRET skips slots, BHT reads the state. Every
other register, ring and byte of memory stays, and every port, but that BPUSH takes a beat of a port it reads. What a ring word waits for is
over: pending acquires, rows queued on its ring, appends to it, and direct stores and atomics of its bytes (R136, R142, R147, R188). Which engine
commands count as a stream bound to a ring is the model's reading (log 80), and where a slot lies for a counter its choice (log 88). -/
def Obligations.RingWords : Prop :=
  ∀ (w : Fields) (s : State), Sound s →
    let c := s.ctx s.cur
    let b := w.d.idx.toNat
    let src := w.a.idx.toNat
    let k := (immOf w w.b).toNat
    let geo := (c.raw w w.b).toNat
    let base := (c.raw w w.a).toNat
    let sz := fld geo 3 0
    let n := fld geo 28 16
    (Runs s w [w.a, w.b] [] → sz ≤ 8 → fld geo 15 4 = 0 → 2 ≤ n → n ≤ 4096 → geo < 2 ^ 29 → base % 128 = 0 →
      base + n * 2 ^ (sz + 7) ≤ (s.cell s.cur.ck).scratch * 2 ^ 17 → (c.ring b).tail = (c.ring b).chead →
      s.ringBound s.cur.ck (c.ring b) = false →
      Does (.binit w) s w (fun c => c.setRing b { c.ring b with
        declared := true, sz := sz, n := n, base := base, tail := 0, shead := 0, chead := 0, gen := (c.ring b).gen + 1 })) ∧
    (Runs s w [w.a] [] → (c.ring b).fed = false → 1 ≤ (c.ring b).free →
      let r := c.ring b
      let size := if r.sz = 0 then 128 else 256
      let at' := tileKey s.cur.ck (r.slot r.tail + (if r.sz = 0 then 0 else 256 * k))
      k < r.parts → s.appending s.cur false b = false → (c.orderWait false).isNone = true → (c.atomicWait at' size).isNone = true →
      ∃ t, exec (.bpush w) s = .next t ∧ MovesOn s t ∧ SameOthers s t ∧ SetsNone c.arch (t.ctx s.cur).arch ∧
        (t.ctx s.cur).ring b = { r with tail := if r.sz = 0 ∨ k + 1 = r.parts then r.tail + 1 else r.tail } ∧
        (∀ i, i ≠ b → (t.ctx s.cur).ring i = c.ring i) ∧
        (∀ q, (t.ctx s.cur).port q = if q ∈ consumed [w.a] then (c.port q).take else c.port q) ∧
        (∀ i, i < size → memGet t.mem (at' + i) = byteOf (c.vec w.a).toNat ((if r.sz = 0 then 128 * k else 0) + i)) ∧
        ∀ h, (h < at' ∨ at' + size ≤ h) → memGet t.mem h = memGet s.mem h) ∧
    (w.d.cls = 1 → Runs s w [] [w.d] → 1 ≤ (c.ring src).held → s.queuedOn s.cur src = 0 →
      let r := c.ring src
      let size := if r.sz = 0 then 128 else 256
      k < (if r.sz = 0 then 1 else r.parts) → (c.orderWait false).isNone = true →
      (c.atomicWait (tileKey s.cur.ck (r.slot r.shead + 256 * k)) size).isNone = true →
      ∃ t, exec (.bpop w) s = .next t ∧ MovesOn s t ∧ SameOthers s t ∧ SameMemory s t ∧
        SetsV c.arch (t.ctx s.cur).arch w.d.idx.toNat
          (BitVec.ofNat 2048 (s.num (tileKey s.cur.ck (r.slot r.shead + 256 * k)) size)) ∧
        (t.ctx s.cur).ring src = { r with shead := if r.sz = 0 ∨ k + 1 = r.parts then r.shead + 1 else r.shead } ∧
        (∀ i, i ≠ src → (t.ctx s.cur).ring i = c.ring i) ∧ ∀ q, (t.ctx s.cur).port q = c.port q) ∧
    (w.d.cls = 0 → Runs s w [] [w.d] →
      GivesS (.bht w) s w [] (BitVec.ofNat 64 ((c.ring src).tail.toNat + (c.ring src).shead.toNat * 2 ^ 16
        + (c.ring src).chead.toNat * 2 ^ 32 + (c.ring src).sz * 2 ^ 48 + ((c.ring src).n - 1) * 2 ^ 52))) ∧
    (Runs s w [w.b] [] → 1 ≤ geo → geo ≤ (c.ring src).n → geo ≤ (c.ring src).held → s.queuedOn s.cur src = 0 →
      Does (.bret w) s w (fun c => c.setRing src { c.ring src with shead := (c.ring src).shead + BitVec.ofNat 16 geo }))

/-- An atomic word issues once nothing is pending that it must follow, its round is the head of its domain, and its address has its form, is aligned,
translates and meets no store buffered in its round (R128, R135, R145 to R147, R200): its destination is empty, no byte of memory changes, and a
producer holds its operation, its home and its operands. Nothing earlier of the context has yet to touch its bytes: no atomic or direct store, no
load, no island operation (R135, R142; log 71).
An issued atomic is performed at its home and returns the old value in one move, ATOMIC_OLD_VALUE_RETURN (R145, R146): its bytes hold the
operation's result, but for bits that only the device writes (R7), every other byte of memory stays, the destination is full, and ACAS writes
only on equality. That performing and returning are one move is the model's choice. (DEDUCED, log 15)
Atomics on host memory (R366) leave memory to the host: the word issues, and a request with the operation and its operands goes out. -/
def Obligations.Atomics : Prop :=
  ((∀ (w : Fields) (s : State) (h : Nat), w.d.cls = 0 → s.isHead s.cur = true →
      let c := s.ctx s.cur
      let sp := Fields.space w
      let ty := w.ty.toNat
      let n := tyBits ty / 8
      let a := c.addr w
      let ok (i : Instr) (op : Nat) (hostBar : Bool) (e : Nat) : Prop :=
        c.syncTrap s sp (0x200 + op) a n true = none → s.partHome sp a (sp == .g) hostBar = some h →
        ∃ t, exec i s = .next t ∧ SameMemory s t ∧
          Issued s t (.s w.d.idx.toNat) (acquireOf w)
            (.atomic op ty h (BitVec.ofNat 64 (c.scalar w ty w.c)) (BitVec.ofNat 64 e) c.arch.asid.toNat a)
            (s.pageLg s.cur c.arch.asid.toNat a)
      (c.orderWait (Fields.rel w)).isNone = true → (c.atomicWait h n).isNone = true → (c.loadWait h n).isNone = true →
      (s.scaleWaitAt h n).isNone = true → isHostKey h = false →
      (Runs s w [w.a, w.b, w.c] [w.d] →
        ok (.aadd w) 0 false 0 ∧ ok (.amin w) 1 true 0 ∧ ok (.amax w) 2 true 0 ∧ ok (.aand w) 3 true 0 ∧ ok (.aor w) 4 true 0 ∧
        ok (.axor w) 5 true 0 ∧ ok (.axchg w) 6 false 0 ∧ ok (.afadd w) 8 true 0 ∧ ok (.ainc w) 9 true 0) ∧
      (Runs s w [w.a, w.b, w.c, w.e] [w.d] → ok (.acas w) 7 false (c.scalar w ty w.e))) ∧
   (∀ (s : State) (x : CtxId) (k d op ty h : Nat) (a e : Word) (asid va : Nat) (p : Prod), Sound s → d < 64 →
      (s.ctx x).prods[k]? = some p → p.kind = .atomic op ty h a e asid va → p.dst = .s d →
      let n := tyBits ty / 8
      let old := memNum s.mem h n
      let new : Option Nat :=
        if op = 0 then some (wrap (tyBits ty) (tyVal ty old + tyVal ty a.toNat))
        else if op = 1 then some (wrap (tyBits ty) (min (tyVal ty old) (tyVal ty a.toNat)))
        else if op = 2 then some (wrap (tyBits ty) (max (tyVal ty old) (tyVal ty a.toNat)))
        else if op = 3 then some (old &&& a.toNat)
        else if op = 4 then some (old ||| a.toNat)
        else if op = 5 then some (old ^^^ a.toNat)
        else if op = 6 then some a.toNat
        else if op = 7 then (if old = a.toNat then some e.toNat else none)
        else if op = 8 then some (f32add old a.toNat)
        else some (if a.toNat ≤ old then 0 else old + 1)
      ∃ t, exec (.atomicOldValueReturn x k) s = .next t ∧
        (t.ctx x).arch.rs d = (if d = 0 then 0 else extTy ty old) ∧ (t.ctx x).arch.full (.s d) = true ∧ (∀ q ∈ (t.ctx x).prods, q.id ≠ p.id) ∧
        (∀ i, i < n → memGet t.mem (h + i) = match new with
          | some v => (memGet s.mem (h + i) &&& ownBits (h + i)) ||| (byteOf v i &&& ~~~(ownBits (h + i)))
          | none => memGet s.mem (h + i)) ∧
        ∀ b, (b < h ∨ h + n ≤ b) → memGet t.mem b = memGet s.mem b)) ∧
  (∀ (w : Fields) (s : State) (h : Nat), w.d.cls = 0 → s.isHead s.cur = true → Fields.space w = .g →
     let c := s.ctx s.cur
     let ty := w.ty.toNat
     let n := tyBits ty / 8
     let ok (i : Instr) (op : Nat) (e : Word) : Prop :=
       c.syncTrap s .g (0x200 + op) (c.addr w) n true = none → s.partHome .g (c.addr w) true false = some h →
       ∃ t, exec i s = .next t ∧ SameMemory s t ∧
         Issued s t (.s w.d.idx.toNat) (acquireOf w) (.hostAtomic h n c.arch.asid.toNat (c.addr w))
           (s.pageLg s.cur c.arch.asid.toNat (c.addr w)) ∧
         t.host.reqs = s.host.reqs ++ [.atomic s.cur s.serial op ty h (BitVec.ofNat 64 (c.scalar w ty w.c)) e]
     (c.orderWait (Fields.rel w)).isNone = true → (c.atomicWait h n).isNone = true → (c.loadWait h n).isNone = true →
     (s.scaleWaitAt h n).isNone = true → isHostKey h = true →
     (Runs s w [w.a, w.b, w.c] [w.d] → ok (.aadd w) 0 0 ∧ ok (.axchg w) 6 0) ∧
     (Runs s w [w.a, w.b, w.c, w.e] [w.d] → ok (.acas w) 7 (BitVec.ofNat 64 (c.scalar w ty w.e))))

/-- FENCE lets the context go on once no memory access of it is pending and, where it orders earlier stores, no closed round of it holds any;
`.acq` at `.pg` or wider drops from L1 every sector that the context did not write itself; WAITW waits at the home of its word, which tests it at once, and no byte of memory changes (R136, R148, R149).
The barrier words at their object (R150 to R152, R273, R274): BARINIT sets EXPECT and the fields above it, BARARR adds an arrival and gives the phase
as it was before, BARTX adds to PEND, BARWAIT goes on once the phase has left its c[0] or a flip has answered it. Every other byte of memory stays, and
so do bits that only the device writes (R7); for the counts that an arrival leaves, the object has none of them. Which bits those are is the model's
reading (log 85). -/
def Obligations.FencesWaitsAndBarriers : Prop :=
  (∀ (w : Fields) (s : State),
     let c := s.ctx s.cur
     (Runs s w [] [] → c.prods.all (fun p => !p.access) = true →
       (c.releaseWait (Fields.rel w || !Fields.acq w)).isNone = true →
       DoesTo (.fence w) s w (if Fields.acq w = true ∧ 2 ≤ Fields.scope w then
         s.modCell s.cur.ck (fun k => { k with l1 := k.l1.filter (fun e => e.own.contains s.cur.ctx) }) else s)) ∧
     (∀ h, w.d.cls = 0 → Runs s w [w.a, w.b, w.c] [w.d] → s.isHead s.cur = true → (c.orderWait false).isNone = true →
       c.syncTrap s (Fields.space w) 0x241 (c.addr w) 4 false = none →
       s.partHome (Fields.space w) (c.addr w) false true = some h → (c.atomicWait h 4).isNone = true →
       (c.loadWait h 4).isNone = true → (s.scaleWaitAt h 4).isNone = true →
       let target : BitVec 32 := (c.raw w w.c).setWidth 32
       let word : BitVec 32 := BitVec.ofNat 32 (memNum s.mem h 4)
       ∃ t, exec (.waitw w) s = .next t ∧ SameMemory s t ∧
         Issued s t (.s w.d.idx.toNat) (acquireOf w) (.waitw h c.arch.asid.toNat (c.addr w))
           (s.pageLg s.cur c.arch.asid.toNat (c.addr w)) ∧
         t.watches = s.watches ++ [{ x := s.cur, id := s.serial, home := h, target := target,
                                     got := if (word - target).toNat < 2 ^ 31 then some word else none }])) ∧
  (∀ (w : Fields) (s : State) (o : Nat), Sound s → s.isHead s.cur = true →
     let c := s.ctx s.cur
     let sp := Fields.space w
     let a := c.addr w
     let v := (c.raw w w.c).toNat
     let there (opc : Nat) (release writes : Bool) : Prop :=
       (c.orderWait release).isNone = true ∧ c.syncTrap s sp opc a 32 writes = none ∧
       s.partHome sp a (writes && sp == .g) false = some o ∧ (c.atomicWait o 32).isNone = true ∧
       (c.loadWait o 32).isNone = true ∧ (s.scaleWaitAt o 32).isNone = true
     let kept (t : State) (h n v : Nat) : Prop :=
       ∀ i, i < n → memGet t.mem (h + i) = (memGet s.mem (h + i) &&& ownBits (h + i)) ||| (byteOf v i &&& ~~~(ownBits (h + i)))
     let plain : Prop := ∀ i, i < 32 → ownBits (o + i) = 0
     (Runs s w [w.a, w.b, w.c] [] → there 0x242 false true → memNum s.mem (o + 4) 4 = 0 → memNum s.mem (o + 8) 4 = 0 →
       fld v 59 58 ≠ 3 → fld v 63 60 = 0 → fld v 36 32 = 0 →
       ∃ t, exec (.barinit w) s = .next t ∧ MovesOn s t ∧ SameOthers s t ∧ SetsNone c.arch (t.ctx s.cur).arch ∧
         kept t o 32 (v % 2 ^ 32 + fld v 59 32 * 2 ^ 128) ∧ (plain → memNum t.mem o 32 = v % 2 ^ 32 + fld v 59 32 * 2 ^ 128) ∧
         ∀ h, (h < o ∨ o + 32 ≤ h) → memGet t.mem h = memGet s.mem h) ∧
     (w.d.cls = 0 → Runs s w [w.a, w.b] [w.d] → there 0x243 true true →
       memNum s.mem (o + 4) 4 + 1 ≤ memNum s.mem o 4 →
       let last := memNum s.mem (o + 4) 4 + 1 = memNum s.mem o 4 ∧ memNum s.mem (o + 8) 4 = 0
       ∃ t, exec (.bararr w) s = .next t ∧ MovesOn s t ∧ SameOthers s t ∧
         SetsS c.arch (t.ctx s.cur).arch w.d.idx.toNat (if bit (memNum s.mem (o + 12) 1) 0 then 1 else 0) ∧
         (plain → ¬last → memNum t.mem (o + 4) 4 = memNum s.mem (o + 4) 4 + 1 ∧ memNum t.mem (o + 12) 1 = memNum s.mem (o + 12) 1) ∧
         (plain → last → memNum t.mem (o + 4) 4 = 0 ∧
           (s.barKind o = 0 → memNum t.mem (o + 12) 1 = memNum s.mem (o + 12) 1 ^^^ 1) ∧
           (s.barKind o ≠ 0 → t.barMsgs = s.barMsgs ++ [.arrival o (s.barParent o) false])) ∧
         ∀ h, (h < o + 4 ∨ o + 13 ≤ h ∨ (o + 8 ≤ h ∧ h < o + 12)) → memGet t.mem h = memGet s.mem h) ∧
     (Runs s w [w.a, w.b, w.c] [] → there 0x244 false true → memNum s.mem (o + 8) 4 + v % 2 ^ 32 < 2 ^ 32 →
       ∃ t, exec (.bartx w) s = .next t ∧ MovesOn s t ∧ SameOthers s t ∧ SetsNone c.arch (t.ctx s.cur).arch ∧
         kept t (o + 8) 4 (memNum s.mem (o + 8) 4 + v % 2 ^ 32) ∧
         (plain → memNum t.mem (o + 8) 4 = memNum s.mem (o + 8) 4 + v % 2 ^ 32) ∧
         ∀ h, (h < o + 8 ∨ o + 12 ≤ h) → memGet t.mem h = memGet s.mem h) ∧
     (Runs s w [w.a, w.b, w.c] [] → there 0x245 false false →
       (bit (memNum s.mem (o + 12) 1) 0 ≠ bit v 0 ∨ s.barWaits.any (fun b => b.x == s.cur && b.obj == o && b.answered) = true) →
       ∃ t, exec (.barwait w) s = .next t ∧ MovesOn s t ∧ SameOthers s t ∧ SetsNone c.arch (t.ctx s.cur).arch ∧ SameMemory s t) ∧
     (Runs s w [w.a, w.b, w.c] [] → there 0x245 false false → bit (memNum s.mem (o + 12) 1) 0 = bit v 0 →
       (s.barWaits.any (fun b => b.x == s.cur && b.obj == o)) = false →
       ∃ t, exec (.barwait w) s = .next t ∧ SameMemory s t ∧ (t.ctx s.cur).wait = .barrier ∧
         (t.ctx s.cur).arch.pos = c.arch.pos ∧ t.barWaits = s.barWaits ++ [{ obj := o, x := s.cur, c0 := bit v 0 }]))

/-! ### Ports and messages -/

/-- QFILT binds an inbound stream port to a row of a ranked list, or unbinds it (R161).
The port words (R153 to R160): QBIND replaces the binding of a drained port, QPUSH appends a data beat of VC bytes and zeros past them,
QMARK appends a bare mark or raises the mark of the round's last data beat, QCLOSE appends EOF or closes an inbound port, QSTAT reads
the state. Only the port named in D changes, and a port read as a source loses its head beat; a word that names an outbound port waits for appends
that earlier words left to the closing unit, one that names an inbound port for merges that still take its beats (R188, R194), and QBIND leaves in
the snapshots the DROP and EOFSEEN that the old binding came to (R160). What a QBIND keeps of the old binding, and that beats consumed before it hold
their slots, is the model's choice (log 90). -/
def Obligations.PortWords : Prop :=
  (∀ (w : Fields) (s : State),
     let c := s.ctx s.cur
     let q := w.d.idx.toNat
     let acc := c.acc w.a.idx.toNat
     Runs s w [w.b] [] → 2 ≤ q → (c.port q).out = false → (c.port q).kind = 1 → (s.cell s.cur.ck).listK acc ≠ 0 →
       s.merging s.cur q = false →
       (c.raw w w.b = BitVec.allOnes 64 → Does (.qfilt w) s w (fun c => (c.keepPort q).setPort q { c.port q with
         filt := none, gen := (c.port q).gen + 1 })) ∧
       ((c.raw w w.b).toNat < 32 → Does (.qfilt w) s w (fun c => (c.keepPort q).setPort q { c.port q with
         filt := some (acc, (c.raw w w.b).toNat), drop := 0, gen := (c.port q).gen + 1 }))) ∧
  (∀ (w : Fields) (s : State),
     let c := s.ctx s.cur
     let q := w.d.idx.toNat
     let p := c.port q
     let a := (c.raw w w.a).toNat
     let vc := (c.raw w w.b).toNat
     let lvl := w.fn.toNat % 8
     (Runs s w [w.a] [] → 2 ≤ q → bindOk a = true →
       (if p.out then p.fifo = [] else p.avail = [] ∧ (p.kind = 0 ∨ s.delivering s.cur q = false)) →
       let peer := if bit a 0 ∧ fld a 3 1 = 1 then s.absBox s.cur (fld a 19 4) else fld a 19 4
       s.appending s.cur true q = false → s.merging s.cur q = false →
       Does (.qbind w) s w (fun c => (c.keepPort q).setPort q ((c.port q).rebind (BitVec.ofNat 24 (putFld a 4 16 peer))))) ∧
     (Runs s w [w.a, w.b] [] → 2 ≤ q → p.out = true → p.closed = false → 1 ≤ vc → vc ≤ 256 →
       p.old.length + p.fifo.length < p.depth →
       s.appending s.cur true q = false →
       ∃ t x, exec (.qpush w) s = .next t ∧ MovesOn s t ∧ SameOthers s t ∧ SameMemory s t ∧
         SetsNone c.arch (t.ctx s.cur).arch ∧
         ((t.ctx s.cur).port q).fifo = p.fifo ++ [x] ∧ x.sb = BitVec.ofNat 16 (vc + lvl * 2 ^ 9) ∧
         (∀ i, byteOf x.data.toNat i = if i < vc then byteOf (c.vec w.a).toNat i else 0) ∧
         ∀ r, r ≠ q → (t.ctx s.cur).port r = (c.consume [w.a]).port r) ∧
     (Runs s w [] [] → 2 ≤ q → p.out = true → p.closed = false → s.appending s.cur true q = false →
       (w.fn.getLsbD 3 = true → p.old.length + p.fifo.length < p.depth →
         Does (.qmark w) s w (fun c => c.setPort q { c.port q with
           fifo := (c.port q).fifo ++ [{ sb := BitVec.ofNat 16 (0x1000 + lvl * 2 ^ 9), data := 0 }] })) ∧
       (w.fn.getLsbD 3 = false → c.marks q = true →
         ∃ l b, p.fifo = l ++ [b] ∧ Does (.qmark w) s w (fun c => c.setPort q { c.port q with
           fifo := l ++ [{ b with sb := BitVec.ofNat 16 (putFld b.sb.toNat 9 3 (max (beatMark b.sb) lvl)) }] })) ∧
       (p.old.length + p.fifo.length < p.depth →
         Does (.qclose w) s w (fun c => c.setPort q { c.port q with
           fifo := (c.port q).fifo ++ [{ sb := 0x1000, data := 0 }], closed := true }))) ∧
     (Runs s w [] [] → 2 ≤ q → p.out = false → s.merging s.cur q = false →
       Does (.qclose w) s w (fun c => c.setPort q { c.port q with closed := true })) ∧
     (w.d.cls = 0 → Runs s w [] [w.d] →
       let r := c.port (if w.a.idx = 1 then 0 else w.a.idx.toNat)
       let beats := if r.out then r.fifo else r.avail
       beats.length < 2 ^ 10 → r.depth < 2 ^ 10 →
       ∃ v : Word, GivesS (.qstat w) s w [] v ∧ fld v.toNat 9 0 = beats.length ∧ fld v.toNat 19 10 = r.depth ∧
         (beats = [] → fld v.toNat 23 20 = 0) ∧ (∀ b l, beats = b :: l → fld v.toNat 23 20 = beatClass b.sb) ∧
         bit v.toNat 24 = r.out ∧ fld v.toNat 27 25 = r.kind ∧ bit v.toNat 28 = r.closed ∧ bit v.toNat 30 = r.filt.isSome ∧
         fld v.toNat 47 32 = r.drop.toNat))

/-- SEND, SENDI and CANCEL put one message into the open round, stamped with %asid (R134, R164, R165, R218): nothing leaves before the commit,
and every byte of memory and every register stays. That CANCEL goes to the scheduler of the die in A is the model's choice (log 18). -/
def Obligations.MessagesAreBuffered : Prop :=
  ∀ (w : Fields) (s : State),
    let c := s.ctx s.cur
    let box := (c.raw w w.a).toNat
    let adds (i : Instr) (srcs : List Operand) (b : Buffered) : Prop :=
      Does i s w (fun c => { c.consume srcs with opn := { c.opn with msgs := c.opn.msgs ++ [b] } })
    c.opn.used < 1024 →
    (Runs s w [w.a, w.b] [] → boxOk box = true →
      ∃ m : Msg, adds (.send w) [w.b] (.message (s.absBox s.cur box) m) ∧ m.extractLsb' 48 16 = c.arch.asid ∧
        ∀ i, i < 64 → i ≠ 6 → i ≠ 7 → byteOf m.toNat i = byteOf (c.vec w.b).toNat i) ∧
    (Runs s w [w.a, w.b, w.c] [] → boxOk box = true →
      ∃ m : Msg, adds (.sendi w) [] (.message (s.absBox s.cur box) m) ∧ m.extractLsb' 48 16 = c.arch.asid ∧
        m.extractLsb' 0 48 = (c.raw w w.b).extractLsb' 0 48 ∧ m.extractLsb' 256 64 = c.raw w w.c ∧
        m.extractLsb' 64 192 = 0 ∧ m.extractLsb' 320 192 = 0) ∧
    (Runs s w [w.a] [] → ∀ d off, addrWord box = some (.die d off) → off + 32 ≤ 2 ^ 24 →
      ∃ m : Msg, adds (.cancel w) [] (.cancel (schedBox d) m) ∧ m.extractLsb' 0 8 = 0x33 ∧ m.extractLsb' 48 16 = c.arch.asid ∧
        m.extractLsb' 24 16 = 0xFFFF ∧ m.extractLsb' 256 64 = c.raw w w.a ∧ m.extractLsb' 320 8 = w.fn)

/-! ### The matrix island and the ranked lists -/

/-- MLDB, MSWAP and MMA of the holder of the island enter the row queue in program order, MMA with one entry per selected row (R178, R181 to R184);
nothing else changes until a row fires, and MSTAT reads the state (R186). No acquire and no direct store of the context is pending, and no atomic on
the slots that a row might read (R135, R136, R147). (DEDUCED, log 70 and 71) -/
def Obligations.RowQueueWords : Prop :=
  ∀ (w : Fields) (s : State),
    let c := s.ctx s.cur
    let i := (s.cell s.cur.ck).island
    let ring := c.ring w.a.idx.toNat
    let queues (ins : Instr) (ops : List RowOp) (reads : List (Nat × Nat)) : Prop :=
      i.rq.length + ops.length ≤ 64 → (c.scratchWait reads).isNone = true → DoesTo ins s w (s.modCell s.cur.ck (fun k => { k with island := { k.island with
        rq := k.island.rq ++ ops.map (fun o => { ctx := s.cur.ctx, serial := c.opn.serial, ord := k.island.ord, op := o }),
        ord := k.island.ord + 1 } }))
    (i.holder = some s.cur.ctx →
      (Runs s w [] [] → ring.sz = 8 → queues (.mldb w) [.mldb w.a.idx.toNat w.ty.toNat] [s.ringSpan c w.a.idx.toNat]) ∧
      (Runs s w [] [] → queues (.mswap w) [.mswap] []) ∧
      (∀ rows, Runs s w (if w.b.cls = 2 then [] else [w.b]) [] → ring.declared = true → ring.sz = 0 →
        ((s.cell s.cur.ck).listK (c.acc w.d.idx.toNat) = 0 ∨ scaled w.ty.toNat = true) →
        (i.tiles.after i.rq).aty = w.ty.toNat →
        (if w.b.cls = 2 then rows = (List.range 32).filter (fun r => (c.arch.rm (w.b.idx.toNat - 16)).getLsbD r)
         else 1 ≤ (c.raw w w.b).toNat ∧ (c.raw w w.b).toNat ≤ 32 ∧ rows = List.range (c.raw w w.b).toNat) →
        (scaled w.ty.toNat = true → i.bound c.opn.serial + rows.length ≤ 64) →
        (ring.fed = true ∨ s.queuedOn s.cur w.a.idx.toNat + rows.length ≤ ring.held + s.ringAppends s.cur w.a.idx.toNat) →
        queues (.mma w) (rows.map (fun r => .row (c.acc w.d.idx.toNat) r w.ty.toNat w.a.idx.toNat)) [s.ringSpan c w.a.idx.toNat])) ∧
    (w.d.cls = 0 → Runs s w [] [w.d] → i.rq.length < 2 ^ 7 → i.pq.length < 2 ^ 7 → i.cq.length < 2 ^ 6 → i.tiles.aty < 16 →
      i.tiles.lty < 16 →
      ∃ v : Word, GivesS (.mstat w) s w [] v ∧ fld v.toNat 6 0 = i.rq.length ∧ fld v.toNat 13 7 = i.pq.length ∧
        bit v.toNat 14 = i.filling.isSome ∧ fld v.toNat 18 15 = i.tiles.aty ∧ fld v.toNat 22 19 = i.tiles.lty ∧
        bit v.toNat 25 = i.holder.isSome ∧ fld v.toNat 31 26 = i.cq.length)

/-- The words that the closing unit performs later enter its queue in program order, in the round that issued them (R178, R185 to R188, R191 to
R199); nothing else of the cell changes until it performs them. An MSCA waits for acquires and direct stores of its context and for atomics on the bytes it
reads. (DEDUCED, log 25 and 71)
RLMERGE from a port q2 to q15 leaves issue with an entry in the closing queue once the port has a beat or EOF and the queue has room (R178, R194);
nothing of the port changes there, unless it can be seen never to get what it needs (R240, log 65). The closing unit then takes the beats one after
another: it inserts the pairs of each into the row (R60), and ends after the first with a mark, or at EOF, which stays. That it may come to other
contexts' operations while a beat is missing is the model's reading. (DEDUCED, log 25) -/
def Obligations.ClosingQueueWords : Prop :=
  (∀ (w : Fields) (s : State),
     let c := s.ctx s.cur
     let k := s.cell s.cur.ck
     let d := c.acc w.d.idx.toNat
     let row := (c.raw w w.a).toNat
     let queues (ins : Instr) (acc : Nat) (op : CloseOp) : Prop :=
       k.island.cq.length < 32 → DoesTo ins s w (s.modCell s.cur.ck (fun k => { k with island := { k.island with
         cq := k.island.cq ++ [{ ctx := s.cur.ctx, serial := c.opn.serial, ord := k.island.ord, acc := acc, op := op }],
         ord := k.island.ord + 1 } }))
     (Runs s w [] [] → k.listK d = 0 → queues (.mzero w) d .mzero) ∧
     (Runs s w [w.a] [] → row ≤ 64 → queues (.rldecl w) d (.rldecl row)) ∧
     (Runs s w [w.a] [] → k.listK d ≠ 0 → c.raw w w.a = BitVec.allOnes 64 → queues (.rlclr w) d (.rlclr none)) ∧
     (Runs s w [w.a] [] → k.listK d ≠ 0 → row < 32 → queues (.rlclr w) d (.rlclr (some row))) ∧
     (Runs s w [w.a] [] → k.listK d = 0 → row < 32 → queues (.rscan w) d (.rscan row)) ∧
     (w.b.cls ≠ 1 → Runs s w [w.a, w.c] [] → k.listK d ≠ 0 → row < 32 → k.listK (c.acc w.b.idx.toNat) = 0 →
       queues (.rlpush w) d (.rlpushA row (c.acc w.b.idx.toNat) ((c.raw w w.c).setWidth 32))) ∧
     (w.b.cls = 1 → Runs s w (w.a :: w.b :: withMask w [w.c]) [] → k.listK d ≠ 0 → row < 32 →
       ∃ act : Mask, (∀ j, j < 64 → bit act.toNat (4 * j) = isActive c w 8 j) ∧
         queues (.rlpush w) d (.rlpushV row (c.vec w.b) (c.vec w.c) act)) ∧
     (w.b.idx = 0 → Runs s w [w.a, w.b] [] → k.listK d ≠ 0 → row < 32 → queues (.rlmerge w) d (.rlmerge row [c.arch.tok])) ∧
     (∀ n, (c.raw w w.c).toNat = n → k.island.holder = some s.cur.ctx → Runs s w [w.a, w.b, w.c] [] → 1 ≤ n → n ≤ 32 →
       (let tags := (((k.island.pq.filter (fun p => p.used.isNone)).map (fun p => (p.acc, p.ty))) ++ k.island.scaledRows).drop
           (k.island.claims (fun _ => true))
        n ≤ tags.length ∧ (tags.take n).all (fun t => t == (d, w.ty.toNat)) = true) →
       k.listK d = 0 → s.spanTrap row 128 = none → s.spanTrap (c.raw w w.b).toNat 1024 = none →
       (c.scratchWait [(tileKey s.cur.ck row, 128), (tileKey s.cur.ck (c.raw w w.b).toNat, 1024)]).isNone = true →
       queues (.msca w) d (.msca w.ty.toNat row (c.raw w w.b).toNat n))) ∧
  ((∀ (w : Fields) (s : State),
     let c := s.ctx s.cur
     let q := w.b.idx.toNat
     let p := c.port q
     let k := s.cell s.cur.ck
     let d := c.acc w.d.idx.toNat
     Runs s w [w.a, w.b] [] → w.b.cls = 4 → 2 ≤ q → k.listK d ≠ 0 → (c.raw w w.a).toNat < 32 → k.island.cq.length < 32 →
     (p.closed = true ∨ (∃ b ∈ p.avail, b.sb = 0x1000 ∨ beatMark b.sb ≠ 0) ∨ c.fullIn q = false) →
     DoesTo (.rlmerge w) s w (s.modCell s.cur.ck (fun k => { k with island := { k.island with
       cq := k.island.cq ++ [{ ctx := s.cur.ctx, serial := c.opn.serial, ord := k.island.ord, acc := d, op := .rlmergeQ (c.raw w w.a).toNat q }],
       ord := k.island.ord + 1 } }))) ∧
   ∀ (die cell : Nat) (s : State) (e : CloseEnt) (rest : List CloseEnt) (row q : Nat) (b : Beat),
     let ck := cellKey die cell
     let k := s.cell ck
     let x := ctxAt ck e.ctx
     let p := (s.ctx x).port q
     k.island.cq = e :: rest → k.island.behindRow e = false → e.op = .rlmergeQ row q → p.head? = some b →
     ∃ t, exec (.closingUnitOperation die cell) s = .next t ∧ SameMemory s t ∧ (t.ctx x).arch = (s.ctx x).arch ∧
       (∀ r, r ≠ q → (t.ctx x).port r = (s.ctx x).port r) ∧
       (b.sb = 0x1000 → (t.ctx x).port q = p ∧ (t.cell ck).accs = k.accs) ∧
       (b.sb ≠ 0x1000 → (t.ctx x).port q = p.take ∧
         (t.cell ck).accRow e.acc row = offerRow (k.accRow e.acc row) (beatPairs b) % 2 ^ 8192 ∧
         ∀ a i, 32 * a + i ≠ 32 * e.acc + row → (t.cell ck).accRow a i = k.accRow a i) ∧
       (t.cell ck).island.cq = if b.sb = 0x1000 ∨ beatMark b.sb ≠ 0 then rest.filter (fun f => f.ord != e.ord) else k.island.cq)

/-- The results of the closing unit: MDRN and RLREAD into a v register are producers, RLTH and RNORM results that later words of the context only
wait for (R187, R195, R197, R198). Each enters the closing queue with its operands as read at issue. -/
def Obligations.ClosingUnitResults : Prop :=
  ∀ (w : Fields) (s : State),
    let c := s.ctx s.cur
    let k := s.cell s.cur.ck
    let a := c.acc w.a.idx.toNat
    let row := (c.raw w w.b).toNat
    let part := (immOf w w.c).toNat
    let queued (t : State) (op : CloseOp) : Prop :=
      (t.cell s.cur.ck).island.cq = k.island.cq ++ [{ ctx := s.cur.ctx, serial := c.opn.serial, ord := k.island.ord, acc := a, op := op }]
    row < 32 → k.island.cq.length < 32 →
    (w.d.cls = 1 → Runs s w [w.b] [w.d] → k.listK a = 0 →
      ∃ t, exec (.mdrn w) s = .next t ∧ SameMemory s t ∧ Issued s t (.v w.d.idx.toNat) none .closing ∧
        queued t (.mdrn (w.fn.toNat / 16) w.ty.toNat (w.fn.toNat % 8) (Fields.sat w) row w.d.idx.toNat part s.serial)) ∧
    (w.d.cls = 1 → Runs s w [w.b] [w.d] → k.listK a ≠ 0 →
      ∃ t, exec (.rlread w) s = .next t ∧ SameMemory s t ∧ Issued s t (.v w.d.idx.toNat) none .closing ∧
        queued t (.rlread row part w.d.idx.toNat s.serial)) ∧
    (w.d.cls = 0 → Runs s w [w.b] [w.d] → k.listK a ≠ 0 →
      ∃ t, exec (.rlth w) s = .next t ∧ MovesOn s t ∧ SameMemory s t ∧ SetsNone c.arch (t.ctx s.cur).arch ∧
        (t.ctx s.cur).settling (.s w.d.idx.toNat) = true ∧ queued t (.rlth row w.d.idx.toNat s.serial)) ∧
    (w.d.cls = 0 → Runs s w [w.b, w.c] [w.d] → k.listK a = 0 →
      ∃ t, exec (.rnorm w) s = .next t ∧ MovesOn s t ∧ SameMemory s t ∧ SetsNone c.arch (t.ctx s.cur).arch ∧
        (t.ctx s.cur).settling (.s w.d.idx.toNat) = true ∧ queued t (.rnorm row (c.raw w w.c) w.d.idx.toNat s.serial))

/-- MDRN into a port or ring and RLSEND enter the closing queue once there is room for what they will append, earlier appends of the queue counted
(R178, R187, R188, R194). The closing unit then appends whole beats to the port, the last with the level of C, or fills the slot at the ring's
tail. That the words leave issue here and the unit appends later, and that RLSEND waits for the room its list may need, is the model's reading.
(DEDUCED, log 25) -/
def Obligations.DrainsToPortsAndRings : Prop :=
  (∀ (w : Fields) (s : State),
    let c := s.ctx s.cur
    let k := s.cell s.cur.ck
    let a := c.acc w.a.idx.toNat
    let d := w.d.idx.toNat
    let row := (c.raw w w.b).toNat
    let lvl := (immOf w w.c).toNat
    let wb := tyBits w.ty.toNat / 8
    let queues (ins : Instr) (op : CloseOp) : Prop :=
      DoesTo ins s w (s.modCell s.cur.ck (fun k => { k with island := { k.island with
        cq := k.island.cq ++ [{ ctx := s.cur.ctx, serial := c.opn.serial, ord := k.island.ord, acc := a, op := op }],
        ord := k.island.ord + 1 } }))
    Runs s w [w.b] [] → row < 32 → k.island.cq.length < 32 →
    (w.d.cls = 4 → 2 ≤ d → (c.port d).out = true → (c.port d).closed = false →
      (k.listK a = 0 → (c.port d).old.length + (c.port d).fifo.length + (s.appends s.cur d + wb) ≤ (c.port d).depth →
        queues (.mdrn w) (.drainQ (w.fn.toNat / 16) w.ty.toNat (w.fn.toNat % 8) (Fields.sat w) row d lvl wb)) ∧
      (∀ n, k.listK a ≠ 0 →
        n = (if k.island.quiet a then max 1 (((rowPairs (k.accRow a row)).length + 31) / 32) else max 1 ((k.listK a + 31) / 32)) →
        (c.port d).old.length + (c.port d).fifo.length + (s.appends s.cur d + n) ≤ (c.port d).depth →
        queues (.rlsend w) (.rlsend row d lvl n))) ∧
    (w.d.cls = 5 → k.listK a = 0 → (c.ring d).fed = false → 256 * wb ≤ (c.ring d).size → s.ringAppends s.cur d < (c.ring d).free →
      (c.scratchWait [s.ringSpan c d]).isNone = true →
      queues (.mdrn w) (.drainB (w.fn.toNat / 16) w.ty.toNat (w.fn.toNat % 8) (Fields.sat w) row d))) ∧
  ∀ (die cell : Nat) (s : State) (e : CloseEnt) (rest : List CloseEnt), Sound s →
    let ck := cellKey die cell
    let k := s.cell ck
    let x := ctxAt ck e.ctx
    let c := s.ctx x
    k.island.cq = e :: rest → k.island.behindRow e = false →
    let bytes (src dst rnd : Nat) (sat : Bool) (row : Nat) : Nat := pack (tyBits dst) (drainRow src dst rnd sat (k.accRow e.acc row))
    let appends (q : Nat) (good : List Beat → Prop) : Prop :=
      ∃ t l, exec (.closingUnitOperation die cell) s = .next t ∧ SameMemory s t ∧
        (t.cell ck).island.cq = rest.filter (fun f => f.ord != e.ord) ∧
        ((t.ctx x).port q).fifo = (c.port q).fifo ++ l ∧ (∀ r, r ≠ q → (t.ctx x).port r = c.port r) ∧ (t.ctx x).arch = c.arch ∧ good l
    (∀ src dst rnd sat row q lvl n, e.op = .drainQ src dst rnd sat row q lvl n →
      appends q (fun l => l.length = tyBits dst / 8 ∧ ∀ i b, l[i]? = some b →
        b.sb = BitVec.ofNat 16 (256 + (if i + 1 = tyBits dst / 8 then lvl else 0) * 2 ^ 9) ∧
        b.data = BitVec.ofNat 2048 (bytes src dst rnd sat row >>> (2048 * i)))) ∧
    (∀ row q lvl n, e.op = .rlsend row q lvl n →
      let pairs := rowPairs (k.accRow e.acc row)
      appends q (fun l =>
        (pairs = [] → l = [{ sb := BitVec.ofNat 16 (0x1000 + lvl * 2 ^ 9), data := 0 }]) ∧
        (pairs ≠ [] → l.length = (pairs.length + 31) / 32 ∧ l.flatMap beatPairs = pairs.map (fun e => (e.1 % 2 ^ 32, e.2 % 2 ^ 32)) ∧
          ∀ i b, l[i]? = some b → beatMark b.sb = if i + 1 = l.length then lvl % 8 else 0))) ∧
    ∀ src dst rnd sat row b, e.op = .drainB src dst rnd sat row b →
      ∃ t, exec (.closingUnitOperation die cell) s = .next t ∧ (t.cell ck).island.cq = rest.filter (fun f => f.ord != e.ord) ∧
        (t.ctx x).ring b = { c.ring b with tail := (c.ring b).tail + 1 } ∧ (t.ctx x).arch = c.arch ∧
        let at' := tileKey ck ((c.ring b).slot (c.ring b).tail)
        (∀ i, i < (c.ring b).size → memGet t.mem (at' + i) = byteOf (bytes src dst rnd sat row) i) ∧
        ∀ h, (h < at' ∨ at' + (c.ring b).size ≤ h) → memGet t.mem h = memGet s.mem h

/-- How a ranked list ranks (R60, R61, R191): pairs stand in descending value and, for equal values, ascending index, without a repeat, at most k of
them; a NaN is counted, up to 0xFFFF_FFFF, and not held; what is held does not depend on the order in which pairs are offered; and the threshold of a
row is the k-th value, −∞ while fewer are held. A row of list storage to which pairs are offered holds just these and the count. -/
def Obligations.RankedListsKeepTheBest : Prop :=
  ∀ (k : Nat) (ps : List (Nat × Nat)), 1 ≤ k → k ≤ 64 →
    let held (ps : List (Nat × Nat)) : List (Nat × Nat) := ps.foldl (fun l p => (offer k l p).1) []
    (held ps).length ≤ k ∧ (held ps).Pairwise (fun a b => ranksBefore a b = true) ∧
    (∀ p ∈ held ps, f32nan p.1 = false ∧ ∃ q ∈ ps, p = (if q.1 = 0x80000000 then 0 else q.1, q.2)) ∧
    (∀ q ∈ ps, f32nan q.1 = false → q.1 < 2 ^ 32 →
      let p := (if q.1 = 0x80000000 then 0 else q.1, q.2)
      p ∈ held ps ∨ ((held ps).length = k ∧ ∀ x ∈ held ps, ranksBefore x p = true)) ∧
    (∀ n, (held ps).length < k → rowThreshold (listRow k (held ps) n) = 0xFF800000) ∧
    (∀ n e, (held ps)[k - 1]? = some e → rowThreshold (listRow k (held ps) n) = e.1 % 2 ^ 32) ∧
    (∀ l p, (offer k l p).2 = f32nan p.1 ∧ (f32nan p.1 = true → (offer k l p).1 = l)) ∧
    (∀ n, n < 2 ^ 32 →
      let nans := min (n + (ps.filter (fun p => f32nan p.1)).length) 0xFFFFFFFF
      offerRow (listRow k [] n) ps = listRow k (held ps) nans ∧ rowNans (listRow k (held ps) nans) = nans) ∧
    ∀ qs, qs.Perm ps → (∀ q ∈ ps, q.1 < 2 ^ 32) → held qs = held ps

/-! ### Control words, rounds and traps -/

/-- NOP does nothing; BRF and SKIPT go forward inside the block and trap where the target leaves it; PEEK gives a beat of q0 to come, EOF
from the end of the stream on; PUSHN names the next nonterminal; TSSET raises the timestamp of a round that has buffered nothing;
HANDOFF buffers the transfer of the stream; YIELD gives way for 1 to 4,095 clocks; ENDA ends the block (R86, R89 to R92, R95 to R98). -/
def Obligations.ControlWords : Prop :=
  ∀ (w : Fields) (s : State),
    let c := s.ctx s.cur
    let d := (immOf w w.a).toNat
    let a := c.raw w w.a
    (c.arch.guards w = true → DoesTo (.nop w) s w s) ∧
    (∀ pc first last, c.arch.pos = .word pc first last →
      (c.arch.guards w = true → pc + d ≤ last → GoesTo (.brf w) s w s (pc + d)) ∧
      (last < pc + d → Traps (.brf w) s 1 8) ∧
      (Runs s w [w.b] [] → pc + (d + 1) ≤ last →
        (bit (c.raw w w.b).toNat (beatClass c.arch.tok.sb) = true → GoesTo (.skipt w) s w s (pc + (d + 1))) ∧
        (bit (c.raw w w.b).toNat (beatClass c.arch.tok.sb) = false → DoesTo (.skipt w) s w s)) ∧
      (last < pc + (d + 1) → Traps (.skipt w) s 1 8)) ∧
    (w.d.cls = 0 → Runs s w [] [w.d] → c.handing = false → 1 ≤ d →
      (∀ b, (c.steer.take d).all (fun b => b.sb != 0x1000) = true → c.arch.tok.sb ≠ 0x1000 → c.steer[d - 1]? = some b →
        GivesS (.peek w) s w [] (BitVec.ofNat 64 (b.sb.toNat + beatClass b.sb * 2 ^ 16))) ∧
      ((c.steer.take d).any (fun b => b.sb == 0x1000) = true ∨ c.arch.tok.sb = 0x1000 → GivesS (.peek w) s w [] 0x81000)) ∧
    (Runs s w [w.a] [] → a.toNat < (s.gramOf s.cur).nnt → c.arch.pushn = none →
      Does (.pushn w) s w (fun c => { c with arch := { c.arch with pushn := some a.toNat } })) ∧
    (Runs s w [w.a] [] → c.opn.ents = [] → c.opn.msgs = [] → c.opn.ts.toNat ≤ a.toNat % 2 ^ 32 →
      (match c.opn.prev with
        | some p => p.toNat < a.toNat % 2 ^ 32
        | none => c.info.ts0.toNat ≤ a.toNat % 2 ^ 32) →
      Does (.tsset w) s w (fun c => { c with opn := { c.opn with ts := a.setWidth 32 } })) ∧
    (Runs s w [w.a] [] → beatMark c.arch.tok.sb = 7 → a.toNat < 64 → c.opn.hands = false → c.opn.used < 1024 →
      let y := ctxAt (s.pageCell s.cur.ck (fld a.toNat 5 2)) (a.toNat % 4)
      (s.ctx y).life = .live → (s.ctx y).info.hrecv = true → (s.ctx y).info.sdie = c.info.sdie →
      (s.ctx y).info.lkey = c.info.lkey →
      (s.ctx y).info.page = c.info.page →
      Does (.handoff w) s w (fun c => { c with opn := { c.opn with
        msgs := c.opn.msgs ++ [.handoff (fld a.toNat 5 2) (a.toNat % 4)] } })) ∧
    (Runs s w [w.a] [] → Does (.yield w) s w (fun c => { c with yieldTo := s.clk.toNat + 1 + max 1 (min a.toNat 4095) })) ∧
    (c.arch.trapped = none → LeavesTo (.enda w) s w
      (s.modCtx s.cur (fun c => { c with arch := { c.arch with pos := .step, sym := c.arch.pushn, pushn := none } }))) ∧
    (c.arch.trapped ≠ none → LeavesTo (.enda w) s w (s.failUnit s.cur c.cause.toNat c.finfo))

/-- COMMIT closes the open round and opens the next with a timestamp one higher and a snapshot of the context at the word after it; ABORT voids
the open round, which starts again at its snapshot with the timestamp it had (R84, R93, R94, R243, R246): every port has its binding back, an inbound
one offers again what the round consumed and an outbound one loses what it pushed, and every ring has its speculative head back and, where the context
feeds it, its tail, or all its geometry where a BINIT is undone. DROP, and an outbound EOFSEEN, go on where the binding is the same (R160). Nothing is
stored by either; stores to `.s` and `.l` and atomics that have issued stay to be performed, an atomic for no register (R32, R94). (DEDUCED, log 15) -/
def Obligations.RoundWords : Prop :=
  ∀ (w : Fields) (s : State),
    let c := s.ctx s.cur
    c.arch.guards w = true →
    (c.cancel = false → c.closed = none → c.opn.ts ≠ 0xFFFFFFFF →
      ∃ t r, exec (.commit w) s = .next t ∧ SameMemory s t ∧ SameOthers s t ∧
        (t.ctx s.cur).closed = some r ∧ r.ts = c.opn.ts ∧ r.serial = c.opn.serial ∧ r.ents = c.opn.ents ∧ r.msgs = c.opn.msgs ∧
        r.ranges = c.opn.ranges ∧ r.snap = c.opn.snap ∧ r.final = false ∧
        (t.ctx s.cur).opn.ts = c.opn.ts + 1 ∧ (t.ctx s.cur).opn.prev = some c.opn.ts ∧ (t.ctx s.cur).opn.serial = s.serial ∧
        (t.ctx s.cur).opn.used = 0 ∧ (t.ctx s.cur).opn.ranges = [] ∧
        (t.ctx s.cur).arch = { c.arch.advance with closePend := false } ∧
        (t.ctx s.cur).opn.snap.arch = (t.ctx s.cur).arch ∧ (t.ctx s.cur).opn.snap.rings = c.rings ∧
        (t.ctx s.cur).ports = c.ports ∧ (t.ctx s.cur).rings = c.rings ∧ (t.ctx s.cur).prods = c.prods) ∧
    (∃ t, exec (.abort w) s = .next t ∧ SameMemory s t ∧ SameOthers s t ∧
      (t.ctx s.cur).arch = c.opn.snap.arch ∧ (t.ctx s.cur).closed = c.closed ∧ (t.ctx s.cur).opn.ts = c.opn.ts ∧
      (t.ctx s.cur).opn.prev = c.opn.prev ∧ (t.ctx s.cur).opn.snap = c.opn.snap ∧ (t.ctx s.cur).opn.used = 0 ∧
      (t.ctx s.cur).opn.ranges = [] ∧
      (t.ctx s.cur).prods = c.prods.filterMap (fun p => if p.serial < c.opn.serial || p.stores then some p
        else (match p.kind with
          | .atomic .. => some { p with dst := .s 0, acq := none }
          | _ => none)) ∧
      (∀ q p n, c.ports.get? q = some p → c.opn.snap.ports.get? q = some n →
        ∃ p', (t.ctx s.cur).ports.get? q = some p' ∧ p'.bind = n.bind ∧ p'.filt = n.filt ∧ p'.closed = n.closed ∧ p'.gen = n.gen ∧
          p'.depth = p.depth ∧ (p.gen = n.gen → p'.drop = p.drop) ∧
          (n.bind.getLsbD 0 = false → p'.base = p.base - p.old.length ∧ p'.fifo = p.old ++ (if p.out then [] else p.fifo) ∧
            p'.shead = max n.shead p'.base ∧ p'.old = []) ∧
          (n.bind.getLsbD 0 = true → p'.base = p.base ∧ p'.fifo = p.fifo.take (n.stail - p.base))) ∧
      ∀ b r n, c.rings.get? b = some r → c.opn.snap.rings.get? b = some n →
        (t.ctx s.cur).rings.get? b = some (if r.gen = n.gen then { r with shead := n.shead, tail := if r.fed then r.tail else n.tail } else n))

/-- Taking a trap (R203): %cause, %finfo and %tepc are written, the block named in the image runs, and the trapping word has no effect: every
register, port, ring, the round and memory stay. ILL and TRAP trap so; RTT goes back to the word, or with 1 to the word after it (R97, R204).
HALT fails the unit: with cause 0 and the value of A, or inside a trap action with the trap's own (R205). A closed round stays to be
committed; without one the context is freed at once, its outbound ports ending with EOF, and the record of its launch counts it as failed, the first
failure with its cause, unit and value (R216). Other memory stays but for direct stores and atomics that have issued: they are performed then; only
atomics that the host performs for a round that stays are still waited for. (DEDUCED, log 13, 15 and 85) -/
def Obligations.TrapsAndHalt : Prop :=
  (∀ (w : Fields) (s : State),
     let c := s.ctx s.cur
     (∀ i cause finfo, Traps i s cause finfo → c.arch.trapped = none → ∀ n last, c.info.trapw = some n →
       (s.cell s.cur.ck).block n = some last →
       ∃ t, exec i s = .next t ∧ SameMemory s t ∧ SameOthers s t ∧
         t.ctx s.cur = { c with
           cause := BitVec.ofNat 8 cause
           finfo := finfo
           tepc := (match c.arch.pos with
             | .step => 0xFFFF
             | .word pc _ _ => BitVec.ofNat 16 pc)
           wait := .none
           arch := { c.arch with trapped := some c.arch.pos, pos := .word n n last } }) ∧
     Traps (.ill w) s 1 1 ∧
     (Runs s w [w.a] [] → Traps (.trap w) s 0x0F (c.raw w w.a)) ∧
     (c.arch.guards w = true → c.arch.trapped = none → Traps (.rtt w) s 1 1) ∧
     (c.arch.guards w = true → ∀ p, c.arch.trapped = some p →
       LeavesTo (.rtt w) s w (s.modCtx s.cur (fun c => { c with arch := { c.arch with
         trapped := none
         pos := (match p with
           | .step => .step
           | .word pc first last => if immOf w w.a = 1 then .word (pc + 1) first last else .word pc first last) } })))) ∧
  (∀ (w : Fields) (s : State), Runs s w [w.a] [] →
     let c := s.ctx s.cur
     let quiet : Prop := ∀ p ∈ c.prods, p.stores = false ∧ p.performed = false
     let how : Nat × Word := if c.arch.trapped = none then (0, c.raw w w.a) else (c.cause.toNat, c.finfo)
     ∃ t, exec (.halt w) s = .next t ∧ (t.ctx s.cur).arch = c.opn.snap.arch ∧
       (∀ r, c.closed = some r → (t.ctx s.cur).closed = some r ∧ (t.ctx s.cur).life = .failed how.1 how.2 ∧
         (t.ctx s.cur).prods = c.prods.filter (fun p => decide (p.serial < c.opn.serial) && p.hosted) ∧
         (quiet → SameMemory s t)) ∧
       (c.closed = none → (t.ctx s.cur).life = .empty ∧ (t.ctx s.cur).prods = [] ∧
         (Sound s → quiet →
           (s.launch? c.info.sdie c.info.lkey = none → SameMemory s t) ∧
           ∀ l tile, s.launch? c.info.sdie c.info.lkey = some l → l.insts[c.info.inst]? = some tile → tile.tiled = false →
             (∀ i, i < 32 → ownBits (l.crec + i) = 0) →
             let n (o : Nat) : Nat := memNum s.mem (l.crec + o) 4
             let first : Prop := l.noted = false ∧ s.faulted l.crec = false
             n 4 + (n 8 + 1) + n 12 < n 0 → n 8 + 1 < 2 ^ 32 →
             memNum t.mem (l.crec + 8) 4 = n 8 + 1 ∧
             (first → memNum t.mem (l.crec + 16) 1 = how.1 ∧ memNum t.mem (l.crec + 20) 4 = c.info.unit.toNat ∧
               memNum t.mem (l.crec + 24) 8 = how.2.toNat) ∧
             ∀ h, (h < l.crec + 8 ∨ l.crec + 12 ≤ h) →
               (¬first ∨ h < l.crec + 16 ∨ h = l.crec + 17 ∨ h = l.crec + 18 ∨ h = l.crec + 19 ∨ l.crec + 32 ≤ h) →
               memGet t.mem h = memGet s.mem h) ∧
         ∀ q p n, c.ports.get? q = some p → c.opn.snap.ports.get? q = some n → n.bind = p.bind → n.closed = false →
           p.out = true →
           ∃ p', (t.ctx s.cur).ports.get? q = some p' ∧ p'.fifo = p.fifo.take (n.stail - p.base) ++ [eofBeat] ∧ p'.closed = true))

/-! ### System and launch words -/

/-- SRD reads the special registers (R34, R35, R202): those of the package, of the unit, of the round, of the token and of the last trap; %la1 and
%la2 give the class of a beat to come at once, or empty their destination until it comes, or, while a HANDOFF is buffered, until it has
committed. SWR sets %asid or %prio in a privileged
context and traps with PRIV in another (R36, R200). -/
def Obligations.SpecialRegisters : Prop :=
  ∀ (w : Fields) (s : State),
    let c := s.ctx s.cur
    let id := (immOf w w.a).toNat
    let table : List (Nat × Word) :=
      [(0x000, BitVec.ofNat 64 s.cur.ctx), (0x001, BitVec.ofNat 64 (((s.cell s.cur.ck).page.map (fun p => p.2)).getD 0)),
       (0x002, c.info.pageOrd.zeroExtend 64), (0x003, BitVec.ofNat 64 s.cur.die), (0x004, c.info.unit.zeroExtend 64),
       (0x005, c.info.nunit.zeroExtend 64), (0x006, c.info.launch.zeroExtend 64), (0x007, c.info.domain.zeroExtend 64),
       (0x008, c.arch.prio.zeroExtend 64), (0x009, c.arch.asid.zeroExtend 64), (0x010, c.opn.ts.zeroExtend 64),
       (0x011, c.rseq.zeroExtend 64), (0x020, BitVec.ofNat 64 (c.arch.tok.sb.toNat + beatClass c.arch.tok.sb * 2 ^ 16)),
       (0x030, c.cause.zeroExtend 64), (0x031, c.finfo), (0x032, c.tepc.zeroExtend 64), (0x040, s.clk)]
    (w.d.cls = 0 → Runs s w [] [w.d] →
      (∀ r ∈ table, id = r.1 → GivesS (.srd w) s w [] r.2) ∧
      (id = 0x023 → ∃ v : Word, GivesS (.srd w) s w [] v ∧ ∀ q, 2 ≤ q → q < 16 →
        bit v.toNat q = (if (c.port q).out then !(c.port q).room 1 else (c.port q).head?.isSome) ∧
        ((c.port q).closed = true ∨ (c.port q).eof = true → bit v.toNat (16 + q) = true)) ∧
      (∀ n, (n = 1 ∨ n = 2) → id = 0x020 + n →
        (∀ b, c.handing = false → c.look n = some b → GivesS (.srd w) s w [] (BitVec.ofNat 64 (beatClass b.sb))) ∧
        (c.handing = true ∨ (c.look n = none ∧ c.stuckIn 0 n = false) → ∃ t, exec (.srd w) s = .next t ∧ SameMemory s t ∧
          Issued s t (.s w.d.idx.toNat) none (.look ((c.port 0).shead + n - 1))))) ∧
    (c.priv = true → Runs s w [w.b] [] →
      (id = 0x009 → Does (.swr w) s w (fun c => { c with arch := { c.arch with asid := (c.raw w w.b).setWidth 16 } })) ∧
      (id = 0x008 → Does (.swr w) s w (fun c => { c with arch := { c.arch with prio := (c.raw w w.b).setWidth 3 } }))) ∧
    (c.priv = false → c.arch.guards w = true → id < 2 ^ 12 → Traps (.swr w) s 0x0C (BitVec.ofNat 64 (0x381 + id * 2 ^ 10)))

/-- The digest words (R211, R212): CRC32C takes n bytes through the reflected register bit by bit, without inversion; SM3C applies the
compression function to the state in the first 32 bytes of A and the block in the first 64 of B, and writes zeros past the new state. What that compression function is comes
from the standard, not from the manual (log 21). -/
def Obligations.DigestWords : Prop :=
  ∀ (w : Fields) (s : State),
    let c := s.ctx s.cur
    let data := if w.b.cls = 1 then (c.vec w.b).toNat else (c.raw w w.b).toNat
    let shift (r : Nat) : Nat := if r % 2 = 1 then (r / 2) ^^^ 0x82F63B78 else r / 2
    let crc (r : Nat) (i : Nat) : Nat := shift (shift (shift (shift (shift (shift (shift (shift (r ^^^ (byteOf data i).toNat))))))))
    (w.d.cls = 0 → Runs s w [w.a, w.b] [w.d] →
      GivesS (.crc32c w) s w [] (BitVec.ofNat 64 ((List.range (immOf w w.c).toNat).foldl crc ((c.raw w w.a).toNat % 2 ^ 32)))) ∧
    (w.d.cls = 1 → Runs s w [w.a, w.b] [w.d] →
      ∃ v : Vec, GivesV (.sm3c w) s w [] v ∧
        tab 8 (fun i => BitVec.ofNat 32 (elem 32 v.toNat i)) =
          sm3CF (tab 8 (fun i => BitVec.ofNat 32 (elem 32 (c.vec w.a).toNat i))) (tab 64 (byteOf (c.vec w.b).toNat)) ∧
        ∀ i, 8 ≤ i → i < 64 → elem 32 v.toNat i = 0)

/-- LAUNCH takes one entry for the launch and one for each reserved child, from what the issuer's own launch has left in reserve first and then from the pool,
gives the next launch id at once and buffers the message; it traps or waits where they are short or go to LAUNCHes that wait, and traps
where the store buffer is full (R134, R215, R311). Which id is next, and what counts as room in the pool, are the model's choice. (DESIGN CHOICE,
log 6; DEDUCED, log 18 and 38) CSTAT empties its destination until a word of the record has been read, or with bit 2 until its STATUS is not 0
(R217). -/
def Obligations.LaunchWords : Prop :=
  ∀ (w : Fields) (s : State),
    let c := s.ctx s.cur
    let d := s.sched s.cur.die
    let r := (c.raw w w.b).toNat
    let res := min (1 + r) (((s.issuer s.cur).map d.spare).getD 0)
    let granted := 1 + r - res ≤ d.room ∧ (res = 1 + r ∨ d.waits = [])
    (w.d.cls = 0 → Runs s w [{ w.a with bt := false }, w.b] [w.d] → r ≤ 4095 →
      d.waits.any (fun v => v.x == s.cur) = false →
      (granted → c.opn.used < 1024 →
        ∃ t m, exec (.launch w) s = .next t ∧ SameMemory s t ∧ SameOthers s t ∧ MovesOn s t ∧
          SetsS c.arch (t.ctx s.cur).arch w.d.idx.toNat (BitVec.ofNat 64 (launchId s.cur.die d.ids)) ∧
          (t.sched s.cur.die).ids = d.ids + 1 ∧ (t.sched s.cur.die).pool = d.pool - (1 + r - res) ∧
          (t.ctx s.cur).opn.msgs = c.opn.msgs ++ [.launch ⟨launchId s.cur.die d.ids, res, 1 + r - res, c.info.sdie, c.info.lkey⟩
            (schedBox s.cur.die) m] ∧
          (t.ctx s.cur).opn.ents = c.opn.ents ∧
          m.extractLsb' 0 8 = 0x30 ∧ m.extractLsb' 24 16 = 0xFFFF ∧ m.extractLsb' 48 16 = c.arch.asid ∧
          m.extractLsb' 256 64 = c.raw w w.a ∧ m.extractLsb' 320 64 = c.raw w w.b) ∧
      (granted → 1024 ≤ c.opn.used → Traps (.launch w) s 8 5) ∧
      (¬granted → w.a.bt = true → Traps (.launch w) s 0x0B 1) ∧
      (¬granted → w.a.bt = false →
        ∃ t, exec (.launch w) s = .next t ∧ SameMemory s t ∧ (t.ctx s.cur).wait = .pool (1 + r) ∧
          (t.ctx s.cur).arch = c.arch.clear (.s w.d.idx.toNat) ∧
          (t.sched s.cur.die).waits = d.waits ++
            [{ x := s.cur, need := 1 + r, lkey := ((s.issuer s.cur).map (fun l => l.key)).getD 0 }])) ∧
    (Runs s w [{ w.a with bt := false }, w.b] [w.d] → 4095 < r → Traps (.launch w) s 0x0B 2) ∧
    (w.d.cls = 0 → Runs s w [w.a] [w.d] → (c.orderWait false).isNone = true → ∀ die off,
      addrWord (c.raw w w.a).toNat = some (.die die off) → off + 32 ≤ 2 ^ 24 → (c.atomicWait (dieKey die off) 32).isNone = true →
      (c.loadWait (dieKey die off) 32).isNone = true →
      let rec' := dieKey die off
      let sel := (immOf w w.b).toNat
      (memNum s.mem (rec' + 17) 1 = w.fn.toNat →
        ∃ t, exec (.cstat w) s = .next t ∧ SameMemory s t ∧
          Issued s t (.s w.d.idx.toNat) (if bit sel 2 then some 4 else none) (.cstat rec' (sel % 4) (bit sel 2)) ∧
          (t.ctx s.cur).opn = c.opn.read .d die off 32) ∧
      (memNum s.mem (rec' + 17) 1 ≠ w.fn.toNat → Traps (.cstat w) s 0x0B 3))

/-- TLBINV leaves no entry of its range and ASID in any translation cache of the package, raises their generations, and waits for its acknowledge
(R207, R356, R357). That a page which overlaps the range goes whole is the model's reading. (DEDUCED, log 18) -/
def Obligations.ShootDown : Prop :=
  ∀ (w : Fields) (s : State), Runs s w [w.a, w.b, w.c] [] →
    let c := s.ctx s.cur
    let a := (c.raw w w.a).toNat
    let n := (c.raw w w.b).toNat
    let d := (c.raw w w.c).toNat
    let hi := min (a + n - 1) (2 ^ 49 - 1)
    let asid : Option Nat := if bit d 16 then none else some (d % 2 ^ 16)
    c.priv = true → s.isHead s.cur = true → a < 2 ^ 49 → d < 2 ^ 17 →
      (n = 0 → DoesTo (.tlbinv w) s w s) ∧
      (0 < n → ∃ t, exec (.tlbinv w) s = .next t ∧ SameMemory s t ∧ (t.ctx s.cur).wait = .tlbinv ∧
        t.shoots = s.shoots ++ [{ x := s.cur, lo := a, hi := hi, asid := asid, since := s.serial }] ∧
        (∀ ck e, e ∈ (t.cell ck).tlb.ents ↔ e ∈ (s.cell ck).tlb.ents ∧
          ¬((asid = none ∨ asid = some e.asid) ∧ e.va ≤ hi ∧ a < e.va + 2 ^ e.lg)) ∧
        (∀ ck k, s.cells.get? ck = some k → (t.cell ck).tlb.gen = k.tlb.gen + 1) ∧
        ∀ b k, s.boxes.get? b = some k → ∃ k', t.boxes.get? b = some k' ∧ k'.tlb.gen = k.tlb.gen + 1 ∧
          ∀ e, e ∈ k'.tlb.ents ↔ e ∈ k.tlb.ents ∧ ¬((asid = none ∨ asid = some e.asid) ∧ e.va ≤ hi ∧ a < e.va + 2 ^ e.lg))

/-- The configuration network (R208 to R210): CFGWR reaches the cell it names, or each cell of the rectangle in C; a data word reaches a cell that is
loading and enters its RCRC, or writes its scratch; a begin empties a cell that is free, a seal accepts it or rejects it by its CRC, a clear
empties it; a cell that does not load rejects data; CFGRD gives the word. A rectangle that does not fit traps. Fused, spare and retired cells take
nothing. That a spare is treated so until a repair enables it is the model's reading of R2. (DEDUCED, log 17 and 81)
The load commands at their cell (R209, R259): begin needs a cell that is neither fused, spare, retired nor busy, seal one that loads, clear one
that is not busy; any other cell ignores them. -/
def Obligations.ConfigurationAndLoading : Prop :=
  (∀ (w : Fields) (s : State), Sound s →
     let c := s.ctx s.cur
     let a := (c.raw w w.a).toNat
     let v := c.raw w w.b
     let rect := (c.raw w w.c).toNat
     let cell := fld a 7 0
     let at' (i j : Nat) : Nat := cellKey (fld a 9 8) (cell + 12 * i + j)
     let k := s.cell (at' 0 0)
     let rows := if rect = 0 then 1 else rect % 16 + 1
     let cols := if rect = 0 then 1 else rect / 16 % 16 + 1
     let fits := rect = 0 ∨ (rect / 2 ^ 8 = 1 ∧ cell / 12 + rows ≤ 12 ∧ cell % 12 + cols ≤ 12)
     let inside (ck : Nat) : Prop := ∃ i j, i < rows ∧ j < cols ∧ ck = at' i j
     let takes (ck : Nat) : Prop := inside ck ∧ s.unusable ck = false
     let each (f : State → Nat → State) : State :=
       ((List.range rows).flatMap (fun i => (List.range cols).map (at' i))).foldl (fun s ck => if s.unusable ck then s else f s ck) s
     let region := fld a 15 12
     let off := fld a 39 16
     let summed (k : Cell) : BitVec 32 := BitVec.ofNat 32 (crcMore k.rcrc.toNat (toBytes 8 v.toNat))
     (c.priv = true → Runs s w [w.a, w.b, w.c] [] → s.isHead s.cur = true → kilnOk a = true →
       (¬fits → Traps (.cfgwr w) s 7 (permInfo a 1 0)) ∧
       (fits → region < 6 →
         ∃ t, DoesTo (.cfgwr w) s w t ∧ t.mem = s.mem ∧
           (∀ ck, ¬takes ck → t.cell ck = s.cell ck) ∧
           ∀ ck, takes ck →
             ((s.cell ck).st = 1 → (t.cell ck).word region off = v ∧ (t.cell ck).rcrc = summed (s.cell ck) ∧ (t.cell ck).st = 1 ∧
               ∀ r o, r < 6 → o < 2 ^ 24 → (r ≠ region ∨ o ≠ off) → (t.cell ck).word r o = (s.cell ck).word r o) ∧
             ((s.cell ck).st ≠ 1 → t.cell ck = if (s.cell ck).busy then s.cell ck else { s.cell ck with st := 3 })) ∧
       (fits → region = 7 →
         let lands (ck : Nat) : Prop := takes ck ∧ (s.cell ck).st = 1 ∧ off / 16384 < (s.cell ck).scratch
         ∃ t, DoesTo (.cfgwr w) s w t ∧
           (∀ ck, ¬takes ck → t.cell ck = s.cell ck) ∧
           (∀ ck, takes ck → t.cell ck =
             if (s.cell ck).st = 1 then
               (if off / 16384 < (s.cell ck).scratch then { s.cell ck with rcrc := summed (s.cell ck) } else { s.cell ck with st := 3 })
             else if (s.cell ck).busy then s.cell ck else { s.cell ck with st := 3 }) ∧
           (∀ ck i, lands ck → i < 8 → memGet t.mem (tileKey ck (8 * off) + i) = byteOf v.toNat i) ∧
           ∀ h, (∀ ck i, lands ck → i < 8 → h ≠ tileKey ck (8 * off) + i) → memGet t.mem h = memGet s.mem h) ∧
       (fits → region = 6 →
         (v.toNat % 2 ^ 32 = 1 → DoesTo (.cfgwr w) s w (each State.kilnBegin)) ∧
         (v.toNat % 2 ^ 32 = 2 → DoesTo (.cfgwr w) s w (each (fun s ck => s.kilnSeal ck (v.extractLsb' 32 32)))) ∧
         (v.toNat % 2 ^ 32 = 3 → DoesTo (.cfgwr w) s w (each State.kilnClear)) ∧
         (v.toNat % 2 ^ 32 = 0 ∨ 3 < v.toNat % 2 ^ 32 → DoesTo (.cfgwr w) s w s))) ∧
     (c.priv = true → w.d.cls = 0 → Runs s w [w.a] [w.d] → s.isHead s.cur = true → kilnOk a = true →
       (region < 6 → GivesS (.cfgrd w) s w [] (if s.unusable (at' 0 0) then 0 else k.word region off)) ∧
       (region = 7 → GivesS (.cfgrd w) s w [] (if s.unusable (at' 0 0) ∨ k.scratch ≤ off / 16384 then 0
         else BitVec.ofNat 64 (memNum s.mem (tileKey (at' 0 0) (8 * off)) 8))) ∧
       (region = 6 → ∃ r : Word, GivesS (.cfgrd w) s w [] r ∧ r.extractLsb' 0 2 = k.st ∧ bit r.toNat 2 = fusedOff (at' 0 0) ∧
         bit r.toNat 3 = k.spare ∧ bit r.toNat 4 = k.retired ∧ bit r.toNat 5 = k.busy ∧ (k.tiles ≤ 24 → fld r.toNat 10 6 = k.tiles) ∧
         r.extractLsb' 32 32 = k.rcrc)) ∧
     (c.priv = false → c.arch.guards w = true →
       Traps (.cfgwr w) s 0x0C 0x384 ∧ Traps (.cfgrd w) s 0x0C 0x385 ∧ Traps (.tlbinv w) s 0x0C 0x383)) ∧
  (∀ (die cell : Nat) (crc : BitVec 32) (s : State), Sound s →
     let ck := cellKey die cell
     let k := s.cell ck
     let ignored (i : Instr) : Prop := exec i s = .next s
     (s.unusable ck = false → k.busy = false →
       ∃ t, exec (.beginLoad die cell) s = .next t ∧ (t.cell ck).st = 1 ∧ (t.cell ck).rcrc = 0 ∧ (t.cell ck).l1 = [] ∧
         (∀ r o, (t.cell ck).word r o = 0) ∧ (t.cell ck).ctxs = k.ctxs ∧ (∀ ck', ck' ≠ ck → t.cell ck' = s.cell ck') ∧
         ∀ h, memGet t.mem h = if tileKey ck 0 ≤ h ∧ h < tileKey ck (2 ^ 22) then 0 else memGet s.mem h) ∧
     (s.unusable ck = true ∨ k.busy = true → ignored (.beginLoad die cell)) ∧
     (k.st = 1 → exec (.sealLoad die cell crc) s =
       .next (s.modCell ck (fun k => { k with st := if k.rcrc = crc then 2 else 3 }))) ∧
     (k.st ≠ 1 → ignored (.sealLoad die cell crc)) ∧
     (k.busy = false → ∃ t, exec (.clearLoad die cell) s = .next t ∧ t.mem = s.mem ∧ (t.cell ck).st = 0 ∧
       (∀ r o, (t.cell ck).word r o = 0) ∧ (∀ ck', ck' ≠ ck → t.cell ck' = s.cell ck')) ∧
     (k.busy = true → ignored (.clearLoad die cell)))

/-! ### The sampler -/

/-- The logit words (R289): each transform changes the logit in transit alone, selections, draw and count words note what lap 2 does, and LEND
gives the logit to its row: NaN counts as −∞, the largest value, the ranked list and the replay queue follow it (R291). LTEMP, LSCALE, LPEN_REP and
LPEN_FREQ multiply or divide, and the sign of an exactly zero product or quotient is the model's choice (log 73). -/
def Obligations.LogitWords : Prop :=
  ∀ (s : State) (r : Row) (l : Logit) (a b : BitVec 3), (s.sampler s.die).row = some r → (s.sampler s.die).cur = some l →
    let k := s.sampler s.die
    let g (i : BitVec 3) : Nat := r.hdr.g.getD i.toNat 0
    let turns (i : Instr) (x : Nat) : Prop :=
      exec i s = .next (s.setSampler s.die { k with cur := some { l with l := x, pc := l.pc + 1 } })
    let notes (i : Instr) (r' : Row) : Prop :=
      exec i s = .next (s.setSampler s.die { k with row := some r', cur := some { l with pc := l.pc + 1 } })
    let biases := r.hdr.bias.filter (fun e => e.1 == l.id)
    (biases = [] → turns .lbias l.l) ∧ (∀ e, biases = [e] → turns .lbias (f32add l.l e.2)) ∧
    (l.c ≤ 0 → turns (.lpenRep a) l.l ∧ turns (.lpenPres a) l.l) ∧
    (0 < l.c → f32lt 0 l.l = true → turns (.lpenRep a) (fdivc .f32 .rne false l.l (g a))) ∧
    (0 < l.c → f32lt 0 l.l = false → turns (.lpenRep a) (f32mul l.l (g a))) ∧
    (0 < l.c → turns (.lpenPres a) (f32sub l.l (g a))) ∧
    turns (.lpenFreq a) (roundVal .f32 .rne false
      (FVal.add .rne (FVal.ofCode .f32 l.l) (FVal.neg (FVal.mul (FVal.ofInt false l.c 0) (FVal.ofCode .f32 (g a)))))) ∧
    turns .ltemp (f32mul l.l r.hdr.rtemp) ∧ turns (.lscale a) (f32mul l.l (g a)) ∧ turns (.laddc a) (f32add l.l (g a)) ∧
    turns (.lclamp a b) (fminmax .f32 false (fminmax .f32 true l.l (g a)) (g b)) ∧
    (∀ x, r.bits[l.id / 8]? = some x →
      (x.getLsbD (l.id % 8) = true → turns .lvmaskAllow l.l ∧ turns .lvmaskBan 0xFF800000) ∧
      (x.getLsbD (l.id % 8) = false → turns .lvmaskAllow 0xFF800000 ∧ turns .lvmaskBan l.l)) ∧
    notes .ltopk { r with topk := true } ∧ notes .ltopp { r with topp := true } ∧ notes (.lminp a) { r with minp := some (g a) } ∧
    notes .ldraw { r with draw := some false } ∧ notes .ldrawGreedy { r with draw := some true } ∧
    notes .lcount { r with count := true } ∧
    (∃ t r', exec .lend s = .next t ∧ t = s.setSampler s.die { k with row := some r', cur := none } ∧ r'.n = r.n + 1 ∧
      (f32nan l.l = false → r'.lap = r.lap ++ [l.l] ∧ r'.nans = r.nans ∧ r'.maxp = fminmax .f32 true r.maxp l.l ∧
        r'.list = (offer r.hdr.topk r.list (l.l, l.id)).1) ∧
      (f32nan l.l = true → r'.lap = r.lap ++ [0xFF800000] ∧ r'.nans = r.nans + 1))

/-- SSEQ gives a sequence its seed, sets its draw index to 0 and with its CLEAR bit empties its counts (R285); a batch starts with the feeder named in it, its rows
begin in order with what their entries and headers say, take beats and logits from the feeder, draw, and end with their records, the
completion word, which holds CVAL, or CVAL + 0x4000_0000 where a row failed, and the reply (R176, R282 to R288, R293 to R300). Here for tables and
words in die scratch; bits there that only the device writes stay (R7). A fault, and a fatal one, is of what it stopped alone: the command at the head
of the queue, a row, or the completion (R351).
What is read and written when, which entry fails how, and where a batch stands between its rows, are the model's reading. (DEDUCED, log 34, 35
and 36; the entropy of a seed: DESIGN CHOICE, log 2) -/
def Obligations.SamplerCommands : Prop :=
  ∀ (m : Msg) (s : State) (c : Cmd), Sound s →
    let b := s.sampler s.die
    let free (job : Nat) := s.faulting (.sampler s.die job) = false ∧ b.fatalOf job = none
    (∀ d off, b.batch = none → b.queue.head? = some c → c.m = m → free headJob → c.phase = 0 → c.cw = false →
      addrWord (c.op 256 64) = some (.die d off) → off % 128 = 0 → off + 128 + 2048 + 2 * 2 ^ 18 ≤ 2 ^ 24 →
      let h := memNum s.mem (dieKey d off) 128
      hdrOk h = true →
      ∃ t, exec (.sseq m) s = .next t ∧
        (t.sampler s.die).queue.head? = some { c with phase := 5, status := 0, faddr := 0 } ∧
        memNum t.mem (dieKey d off + 24) 8 =
          (if c.m.getLsbD 320 then fld h 255 192 else Config.entropy s.fresh % 2 ^ 64) ∧
        memNum t.mem (dieKey d off + 32) 8 = 0 ∧
        (c.m.getLsbD 321 = true → ∀ i, i < 2 * fld h 82 64 → memGet t.mem (dieKey d off + countOff + i) =
          memGet s.mem (dieKey d off + countOff + i) &&& ownBits (dieKey d off + countOff + i)) ∧
        ∀ a, (a < dieKey d off + 24 ∨ dieKey d off + 40 ≤ a) →
          (c.m.getLsbD 321 = false ∨ a < dieKey d off + countOff ∨ dieKey d off + countOff + 2 * fld h 82 64 ≤ a) →
          memGet t.mem a = memGet s.mem a) ∧
    (b.batch = none → b.queue.head? = some c → c.opc = 0x21 → c.cw = false → memWord (c.op 256 64) = true →
      s.away (if c.op 336 16 = 0xFFFF then c.src else c.op 336 16) = false →
      ∃ t, exec (.batchStart s.die) s = .next t ∧ t.mem = s.mem ∧ (t.sampler s.die).batch = some c ∧
        (t.sampler s.die).queue = b.queue.drop 1 ∧ (t.sampler s.die).nrows = c.op 320 16 ∧ (t.sampler s.die).next = 0 ∧
        (t.sampler s.die).src = (if c.op 336 16 = 0xFFFF then c.src else c.op 336 16) ∧ (t.sampler s.die).port = c.op 352 4) ∧
    (∀ d0 t0 d1 sq d2 rs d3 pg, b.batch = some c → c.m = m → c.phase = 0 → b.row = none → b.next < b.nrows → b.lap2 = [] →
      free (rowJob b.next) → b.bad = false → b.cancel = false → b.ended = false →
      addrWord (c.op 256 64) = some (.die d0 t0) → t0 % 32 = 0 → t0 + 32 * b.nrows ≤ 2 ^ 24 →
      let e := memNum s.mem (dieKey d0 (t0 + 32 * b.next)) 32
      addrWord (fld e 63 0) = some (.die d1 sq) → sq % 128 = 0 → sq + 128 ≤ 2 ^ 24 →
      addrWord (fld e 127 64) = some (.die d2 rs) → rs % 32 = 0 → fld e 255 128 = 0 →
      let h := memNum s.mem (dieKey d1 sq) 128
      hdrOk h = true → fld h 383 320 = 0 → addrWord (fld h 63 0) = some (.die d3 pg) → pg + 128 ≤ 2 ^ 24 →
      let ws := progWords 32 (memGets s.mem (dieKey d3 pg) 128)
      progOk ws = true → uses ws 1 = false → uses ws 5 = false → uses ws 9 = false →
      ∃ t r, exec (.sbatch m) s = .next t ∧ t.mem = s.mem ∧ (t.sampler s.die).next = b.next + 1 ∧
        (t.sampler s.die).row = some r ∧ r.r = b.next ∧ r.seq = fld e 63 0 ∧ r.res = some (fld e 127 64) ∧ r.replay = false ∧
        r.status = 0 ∧ r.n = 0 ∧ r.words = ws ∧ r.hdr.v = fld h 82 64 ∧ r.hdr.topk = fld h 118 112 ∧ r.hdr.seed = fld h 255 192 ∧
        r.hdr.ndraw = fld h 319 256) ∧
    (∀ r y beat rest, b.batch = some c → c.phase = 0 → b.cur = none → b.pend = [] → b.mark = 0 → b.ended = false →
      b.row = some r → free (rowJob r.r) → r.status = 0 → s.away b.src = false → s.receiver b.src = y →
      let p := (s.ctx y).port b.port
      p.out = true → p.kind = 3 → p.fifo = beat :: rest → p.base < p.ctail → (s.ctx y).frozen = false →
      beat.sb.getLsbD 12 = false → fld beat.sb.toNat 8 0 % 4 = 0 →
      ∃ t, exec (.lap1 s.die) s = .next t ∧ t.mem = s.mem ∧ ((t.ctx y).port b.port).fifo = rest ∧
        (t.sampler s.die).pend = elems 32 (fld beat.sb.toNat 8 0 / 4) beat.data.toNat ∧
        (t.sampler s.die).mark = fld beat.sb.toNat 11 9) ∧
    (∀ r x rest, b.batch = some c → b.cur = none → b.pend = x :: rest → b.row = some r → free (rowJob r.r) → r.status = 0 →
      r.n < r.hdr.v → uses r.words 2 = false → r.undoId = none →
      exec (.lap1 s.die) s = .next (s.setSampler s.die { b with pend := rest, cur := some { id := r.n, l := x, c := 0, pc := 0 } })) ∧
    (∀ r, b.batch = some c → b.lap2 = [r] → free (rowJob r.r) → r.status = 0 → r.maxp = f32negInf →
      exec (.lap2 s.die) s = .next (s.setSampler s.die { b.unfault (rowJob r.r) with lap2 := [{ r with status := 0x0C }] })) ∧
    (∀ r d off w, b.batch = some c → b.lap2 = [r] → free (rowJob r.r) → r.res = some w → addrWord w = some (.die d off) → off + 32 ≤ 2 ^ 24 →
      (∀ i, i < 32 → ownBits (dieKey d off + i) = 0) →
      (r.status ≠ 0 →
        ∃ t, exec (.lap2 s.die) s = .next t ∧ (t.sampler s.die).lap2 = [] ∧
          fld (memNum t.mem (dieKey d off) 32) 31 0 = 0xFFFFFFFF ∧ fld (memNum t.mem (dieKey d off) 32) 39 32 = r.status % 256 ∧
          ∀ a, (a < dieKey d off ∨ dieKey d off + 32 ≤ a) → memGet t.mem a = memGet s.mem a) ∧
      (r.status = 0 → r.maxp ≠ f32negInf → r.replay = false → r.count = false →
        (r.draw = some true → ∀ x id l, r.list = (x, id) :: l →
          ∃ t, exec (.lap2 s.die) s = .next t ∧ (t.sampler s.die).lap2 = [] ∧
            fld (memNum t.mem (dieKey d off) 32) 31 0 = id % 2 ^ 32 ∧
            ∀ a, (a < dieKey d off ∨ dieKey d off + 32 ≤ a) → memGet t.mem a = memGet s.mem a) ∧
        (r.draw = some false → ∀ sd sq, addrWord r.seq = some (.die sd sq) → sq + 128 ≤ 2 ^ 24 →
          (∀ i, i < 8 → ownBits (dieKey sd sq + 32 + i) = 0) →
          (dieKey sd sq + 128 ≤ dieKey d off ∨ dieKey d off + 32 ≤ dieKey sd sq) →
          ∃ t, exec (.lap2 s.die) s = .next t ∧ (t.sampler s.die).lap2 = [] ∧
            fld (memNum t.mem (dieKey d off) 32) 31 0 = r.drawn.id % 2 ^ 32 ∧
            memNum t.mem (dieKey sd sq + 32) 8 = (r.hdr.ndraw + 1) % 2 ^ 64 ∧
            ∀ a, (a < dieKey d off ∨ dieKey d off + 32 ≤ a) → (a < dieKey sd sq + 32 ∨ dieKey sd sq + 40 ≤ a) →
              memGet t.mem a = memGet s.mem a))) ∧
    (b.batch = some c → c.phase = 0 → b.next = b.nrows → b.row = none → b.lap2 = [] → free batchJob →
      exec (.batchCompletion s.die) s = .next (s.setSampler s.die { b.unfault batchJob with batch := some { c with
        phase := 5, status := (b.fail.getD (0, 0)).2, faddr := (b.fail.getD (0, 0)).1, bytes := 4 * b.logits } })) ∧
    (b.batch = some c → free batchJob →
      (c.phase = 5 → c.cw = false →
        exec (.batchCompletion s.die) s = .next (s.setSampler s.die { b.unfault batchJob with batch := some { c with phase := 6 } })) ∧
      (∀ d off, c.phase = 5 → c.cw = true → addrWord (c.op 64 64) = some (.die d off) → off % 64 ≤ 60 → off + 4 ≤ 2 ^ 24 →
        let v := (c.op 128 32 + (if c.status = 0 then 0 else 0x40000000)) % 2 ^ 32
        let h := dieKey d off
        ∃ t, exec (.batchCompletion s.die) s = .next t ∧ (t.sampler s.die).batch = some { c with phase := 6 } ∧
          (∀ i, i < 4 → memGet t.mem (h + i) = (memGet s.mem (h + i) &&& ownBits (h + i)) ||| (byteOf v i &&& ~~~(ownBits (h + i)))) ∧
          ∀ a, (a < h ∨ h + 4 ≤ a) → memGet t.mem a = memGet s.mem a) ∧
      (c.phase = 6 →
        ∃ t, exec (.batchCompletion s.die) s = .next t ∧ t.mem = s.mem ∧ (t.sampler s.die).batch = some { c with phase := 7 } ∧
          t.transit = s.transit ++ (if (c.status ≠ 0 ∨ c.ack = true) ∧ c.op 24 16 ≠ 0xFFFF then
            [{ src := samplerBox s.die, box := c.op 24 16, node := c.node,
               m := replyMsg c.status (samplerBox s.die) (c.m.extractLsb' 0 64) c.bytes c.faddr }] else [])) ∧
      (c.phase = 7 → b.ended = true → exec (.batchCompletion s.die) s = .next (s.setSampler s.die { b with batch := none }))) ∧
    (∀ x port beat rest, ((s.ctx x).port port).fifo = beat :: rest → beat.sb = 0x1000 → ((s.ctx x).port port).out = true →
      ((s.ctx x).port port).kind = 3 → ((s.ctx x).port port).base < ((s.ctx x).port port).ctail → (s.ctx x).frozen = false →
      (s.sampler x.die).batch = none →
      ∃ t, exec (.samplerEofDiscard x port) s = .next t ∧ t.mem = s.mem ∧ ((t.ctx x).port port).fifo = rest)

/-! ### Engines -/

/-- A started engine command moves on (R170 to R172, R175), one run, part, beat or element at a time, up to the end of its payload, here for arrays in
die scratch: which run a stream comes to, how its bytes are read and delivered, when it has no further run, how ESCATTER, EFILL and EREDUCE
write, what EVERIFY and ESIGNAL answer and what EJOIN waits for. Bits of die scratch that only the device writes stay (R7). With BAR = 1 the
bytes delivered so far may be subtracted first, a free choice (DESIGN CHOICE, log 31); here none is outstanding. How the work is cut into moves
is the model's reading. (DEDUCED, log 29, 32 and 33) -/
def Obligations.EngineCommandsAdvance : Prop :=
  ∀ (m : Msg) (s : State) (c : Cmd), Sound s →
    let box := s.eng.1
    s.cmd? box s.eng.2 = some c → c.m = m → c.started = true → firmwareOwn box m = false → s.faulting (.engine box c.seq) = false →
    c.phase = 0 → (c.bar = false ∨ c.bytes ≤ c.sub) →
    let becomes (i : Instr) (c' : Cmd) : Prop := ∃ t, exec i s = .next t ∧ t.mem = s.mem ∧ t.cmd? box s.eng.2 = some c'
    let stores (i : Instr) (c' : Cmd) (a : Nat) (bs : List Byte) : Prop :=
      ∃ t, exec i s = .next t ∧ t.cmd? box s.eng.2 = some c' ∧
        ∀ h, memGet t.mem h = if a ≤ h ∧ h < a + bs.length then
          (memGet s.mem h &&& ownBits h) ||| (bs.getD (h - a) 0 &&& ~~~(ownBits h)) else memGet s.mem h
    let word (d off i : Nat) : Nat := memNum s.mem (dieKey d (off + 4 * i)) 4
    let streams (i : Instr) : Prop :=
      c.opc = 1 ∧ i = .ecopy m ∨ c.opc = 2 ∧ i = .estride m ∨ c.opc = 3 ∧ i = .eragged m ∨ c.opc = 4 ∧ i = .egather m
    let nextRun (c : Cmd) : Cmd :=
      if c.opc = 3 then { c with cur := none, off := 0, aux := c.aux + 1 } else { c with cur := none, off := 0, run := c.run + 1 }
    (c.checked = true →
      (∀ sd so, addrWord c.srcWord = some (.die sd so) → c.cur = none → c.flvl = 0 →
        (c.opc = 1 → c.run = 0 → becomes (.ecopy m) { c with cur := some ((so : Int), c.ml 0, c.len) }) ∧
        (c.opc = 2 → ∀ i1 i2 i3, i1 < c.count 1 → i2 < c.count 2 → i3 < c.count 3 →
          c.run = i1 + c.count 1 * (i2 + c.count 2 * i3) →
          becomes (.estride m) { c with cur := some (so + i1 * c.stride 1 + i2 * c.stride 2 + i3 * c.stride 3,
            (if i1 + 1 < c.count 1 then c.ml 0
             else if i2 + 1 < c.count 2 then max (c.ml 0) (c.ml 1)
             else if i3 + 1 < c.count 3 then max (max (c.ml 0) (c.ml 1)) (c.ml 2)
             else max (max (max (c.ml 0) (c.ml 1)) (c.ml 2)) (c.ml 3)), c.len) }) ∧
        (∀ ad ao, addrWord c.auxWord = some (.die ad ao) → ao % 4 = 0 → ao + 4 * c.count 1 + 4 ≤ 2 ^ 24 → c.run < c.count 1 →
          (c.opc = 4 → becomes (.egather m) { c with cur := some (so + word ad ao c.run * c.stride 1,
            (if c.run + 1 = c.count 1 then max (c.ml 0) (c.ml 1) else c.ml 0), c.len) }) ∧
          (c.opc = 3 →
            let lo := word ad ao c.run
            let hi := word ad ao (c.run + 1)
            let top := if c.run + 1 = c.count 1 then max (c.ml 1) (c.ml 2) else c.ml 1
            (lo + c.aux < hi → becomes (.eragged m) { c with cur := some (so + (lo + c.aux : Nat) * c.stride 1,
              (if lo + c.aux + 1 < hi then c.ml 0 else top), c.len) }) ∧
            (hi = lo → c.aux = 0 → becomes (.eragged m) { c with cur := some (0, top, 0) }) ∧
            (lo ≤ hi → hi ≤ lo + c.aux → c.aux ≠ 0 → becomes (.eragged m) { c with cur := none, off := 0, run := c.run + 1, aux := 0 }) ∧
            (hi < lo → ∃ c', becomes (.eragged m) c' ∧ c'.status = 2 ∧ 2 ≤ c'.phase)))) ∧
      (∀ i, streams i → c.cur = none →
        (c.opc = 1 ∧ c.run ≠ 0 ∨ c.opc = 2 ∧ c.count 1 * c.count 2 * c.count 3 ≤ c.run ∨ (c.opc = 3 ∨ c.opc = 4) ∧ c.count 1 ≤ c.run) →
        (∀ dd do_, addrWord c.dstWord = some (.die dd do_) → becomes i { c with phase := 3 }) ∧
        (∀ pb q, addrWord c.dstWord = some (.port pb q) → becomes i { c with phase := if c.isOpen then 3 else 2 }) ∧
        (∀ d off, addrWord c.dstWord = some (.ring d off) → becomes i { c with phase := 1 })) ∧
      (∀ sd so base lvl len i, addrWord c.srcWord = some (.die sd so) → c.cur = some (Int.ofNat base, lvl, len) →
        base + len ≤ 2 ^ 24 → streams i →
        let a := base + c.off
        let n := min (len - c.off) (64 - a % 64)
        (∀ dd do_, addrWord c.dstWord = some (.die dd do_) → do_ + c.bytes + 64 ≤ 2 ^ 24 →
          (c.off < len → c.held = [] → becomes i { c with held := memGets s.mem (dieKey sd a) n }) ∧
          (c.off < len → c.held ≠ [] →
            let k := min c.held.length (64 - (do_ + c.bytes) % 64)
            stores i { c with bytes := c.bytes + k, held := c.held.drop k, off := c.off + k } (dieKey dd (do_ + c.bytes)) (c.held.take k)) ∧
          (c.off = len → becomes i (nextRun c))) ∧
        (∀ d off, addrWord c.dstWord = some (.ring d off) →
          (c.off < len → becomes i { c with held := c.held ++ memGets s.mem (dieKey sd a) n, off := c.off + n }) ∧
          (c.off = len → becomes i (nextRun c))) ∧
        (∀ pb q, addrWord c.dstWord = some (.port pb q) →
          let k := min 256 (len - c.off)
          let delivers (b : Beat) (f : Cmd → Cmd) : Prop := ∀ u,
            { s with fresh := s.fresh + 1 }.portPut pb q b = .done u → exec i s = .next (u.modCmd box c.seq f)
          (c.off < len → c.held.length < k →
            let more := memGets s.mem (dieKey sd (a + c.held.length)) (min (k - c.held.length) (64 - (a + c.held.length) % 64))
            becomes i { c with held := c.held ++ more }) ∧
          (c.off + k < len → c.held.length = k → delivers (dataBeat k 0 (BitVec.ofNat 2048 (ofBytes c.held)))
            (fun d => { d with bytes := d.bytes + k, held := [], off := d.off + k })) ∧
          (0 < len → c.off + k = len → c.held.length = k → delivers (dataBeat k lvl (BitVec.ofNat 2048 (ofBytes c.held)))
            (fun d => nextRun { d with bytes := d.bytes + k, held := [], off := d.off + k })) ∧
          (len = 0 → lvl < 8 → delivers (bareBeat lvl) nextRun))) ∧
      (∀ dd do_, addrWord c.dstWord = some (.die dd do_) → c.opc = 5 →
        (∀ ad ao, addrWord c.auxWord = some (.die ad ao) → ao % 4 = 0 → ao + 4 * c.count 1 ≤ 2 ^ 24 → c.cur = none → c.run < c.count 1 →
          becomes (.escatter m) { c with cur := some (do_ + word ad ao c.run * c.stride 1, 0, c.len) }) ∧
        (∀ sd so base, addrWord c.srcWord = some (.die sd so) → c.cur = some (Int.ofNat base, 0, c.len) → c.off < c.len →
          (c.held = [] → so + c.len * c.count 1 ≤ 2 ^ 24 → c.run < c.count 1 →
            let a := so + (c.run * c.len + c.off)
            becomes (.escatter m) { c with held := memGets s.mem (dieKey sd a) (min (c.len - c.off) (64 - a % 64)) }) ∧
          (c.held ≠ [] → base + c.len ≤ 2 ^ 24 →
            let k := min (min c.held.length (c.len - c.off)) (64 - (base + c.off) % 64)
            stores (.escatter m) { c with bytes := c.bytes + k, held := c.held.drop k, off := c.off + k } (dieKey dd (base + c.off))
              (c.held.take k))) ∧
        (∀ base, c.cur = some (base, 0, c.len) → c.off = c.len → becomes (.escatter m) { c with cur := none, off := 0, run := c.run + 1 }) ∧
        (c.cur = none → c.count 1 ≤ c.run → becomes (.escatter m) { c with phase := 3 })) ∧
      (∀ dd do_, addrWord c.dstWord = some (.die dd do_) → c.opc = 6 → do_ + c.len ≤ 2 ^ 24 →
        (c.off < c.len →
          let k := min (min 64 (c.len - c.off)) (64 - (do_ + c.off) % 64)
          stores (.efill m) { c with bytes := c.bytes + k, off := c.off + k } (dieKey dd (do_ + c.off))
            (tab k (fun i => byteOf c.auxWord ((c.off + i) % 8)))) ∧
        (c.off = c.len → becomes (.efill m) { c with phase := 3 })) ∧
      (c.opc = 7 →
        (∀ dd do_, c.fresh = true → c.aux ≤ c.ndst → addrWord (c.dstN c.aux) = some (.die dd do_) → do_ + c.len ≤ 2 ^ 24 →
          (c.off < c.len → becomes (.ereduce m) { c with off := c.off + min (c.len - c.off) (2 ^ 16 - (do_ + c.off) % 2 ^ 16) }) ∧
          (c.len ≤ c.off → becomes (.ereduce m) { c with aux := c.aux + 1, off := 0 })) ∧
        (c.fresh = true → c.ndst < c.aux → becomes (.ereduce m) { c with fresh := false, aux := 0, off := 0 }) ∧
        (∀ sd so size, c.fresh = false → c.run ≤ c.ndst → c.off < c.len → reduceSize c.rty = some size → c.held.length < size →
          c.off + c.held.length < c.len → addrWord c.srcWord = some (.die sd so) → so + c.len ≤ 2 ^ 24 →
          let a := so + (c.off + c.held.length)
          becomes (.ereduce m) { c with held := c.held ++ memGets s.mem (dieKey sd a) (min (c.len - c.off - c.held.length) (64 - a % 64)) }) ∧
        (∀ dd do_ size, addrWord (c.dstN c.run) = some (.die dd do_) → c.fresh = false → c.run ≤ c.ndst → c.off < c.len →
          reduceSize c.rty = some size → size ≤ c.held.length → (do_ + c.off) % 64 + size ≤ 64 → do_ + c.len + size ≤ 2 ^ 24 →
          let d := memNum s.mem (dieKey dd (do_ + c.off)) size
          let x := ofBytes (c.held.take size)
          stores (.ereduce m) { c with bytes := c.bytes + size, held := c.held.drop size, off := c.off + size } (dieKey dd (do_ + c.off))
            (toBytes size (match c.rty with
              | 1 => d + x
              | 2 => f32add d x
              | 3 => fminmax .f32 true d x
              | 4 => fminmax .f32 false d x
              | 5 => faddc .bf16 .rne false d x
              | 6 => if sgn 32 d < sgn 32 x then x else d
              | _ => x))) ∧
        (c.fresh = false → c.run ≤ c.ndst → c.off = c.len → becomes (.ereduce m) { c with run := c.run + 1, off := 0, held := [] }) ∧
        (c.fresh = false → c.ndst < c.run → becomes (.ereduce m) { c with phase := 3 })) ∧
      (c.opc = 0x0A →
        (∀ d off, c.run < 3 →
          addrWord (if c.run = 0 then c.srcWord else if c.run = 1 then c.auxWord else c.par 256 64) = some (.die d off) →
          let n := if c.run = 0 then c.len else 64
          off + n ≤ 2 ^ 24 →
          (c.off < n → let k := min (n - c.off) (64 - (off + c.off) % 64)
            becomes (.everify m) { c with held := c.held ++ memGets s.mem (dieKey d (off + c.off)) k, off := c.off + k }) ∧
          (c.off = n → becomes (.everify m) { c with run := c.run + 1, off := 0 })) ∧
        (c.run = 3 →
          let good := sm2Verify (c.held.drop (c.len + 64)) ((c.held.drop c.len).take 64) (c.held.take c.len)
          (good = true → becomes (.everify m) { c with phase := 3 }) ∧
          (good = false → becomes (.everify m) { c with phase := 3, status := 8, faddr := 0 })))) ∧
    (c.headerWordsBad = false → c.opc = 8 → c.op 260 252 = 0 → 1 ≤ c.op 256 4 →
      (s.joinWaits box c.seq (c.op 256 4) = false → becomes (.ejoin m) { c with phase := 3 }) ∧
      (s.joinWaits box c.seq (c.op 256 4) = true → becomes (.ejoin m) c)) ∧
    (c.headerWordsBad = false → c.opc = 9 → c.op 288 224 = 0 → becomes (.esignal m) { c with bytes := c.op 256 32, phase := 3 })

/-- How engine commands start, move, deposit a record and finish (R174, R176, R177): the first of a queue starts, a free one may move to an idle
engine; a record goes to the tail of its message ring with its length and its sender; then what was delivered is subtracted at the barrier, which
is tested (an ESIGNAL's TXB there too), then come the completion word and the reply. A command without data forms no record. The claims about bytes are of memory outside the fields that only the
device writes (R7). (DESIGN CHOICE, log 31; DEDUCED, log 30, 32, 33 and 85) -/
def Obligations.EngineCommandsStartAndFinish : Prop :=
  ∀ (box q j : Nat) (s : State) (c : Cmd), Sound s → s.queued box q j = some c →
    let reach (i : Instr) (n : Nat) : Prop :=
      ∃ t, exec i s = .next t ∧ t.mem = s.mem ∧ t.queued box q j = some { c with phase := n }
    (c.started = false → firmwareOwn box c.m = false → (j = 0 ∨ c.free = true) →
      ∃ t, exec (.engineCommandStart box q j) s = .next t ∧ t.mem = s.mem ∧ t.queued box q j = some { c with started := true }) ∧
    (∀ box2, c.free = true → c.started = false → c.opc ≠ 8 → box2 ≠ box → fld box 15 12 = 2 → box / 8 = box2 / 8 →
      let b := s.boxes.getD box2 {}
      b.out = false → (∀ n l, (n, l) ∈ b.qs → l = []) →
      ∃ t, exec (.commandMigration box q j box2) s = .next t ∧ t.mem = s.mem ∧
        t.queued box2 c.queue 0 = some { c with seq := b.seq, orig := some (c.orig.getD (box, c.seq)) } ∧
        ∀ q' j' d, t.queued box q' j' = some d → d.seq ≠ c.seq) ∧
    (∀ d off, c.phase = 1 → addrWord c.dstWord = some (.ring d off) → s.ringOk d off = true → c.held = [] →
      ∃ t c', exec (.messageRingRecord box q j) s = .next t ∧ t.mem = s.mem ∧ t.queued box q j = some c' ∧ c'.bytes = 0 ∧ c'.phase = 3) ∧
    (∀ d off, c.phase = 1 → addrWord c.dstWord = some (.ring d off) → s.ringOk d off = true → c.held ≠ [] → s.ringHeld d off = false →
      let k := dieKey d off
      let base := memNum s.mem k 4
      let size := memNum s.mem (k + 4) 4
      let tail := memNum s.mem (k + 8) 4
      let n := ceilTo 64 (8 + c.held.length)
      (tail + 2 ^ 32 - memNum s.mem (k + 12) 4) % 2 ^ 32 + n ≤ size → tail % size + n ≤ size → (off + 32 ≤ base ∨ base + size ≤ off) →
      c.held.length < 2 ^ 32 → (∀ i, i < n → ownBits (dieKey d (base + tail % size) + i) = 0) → (∀ i, i < 4 → ownBits (k + 8 + i) = 0) →
      ∃ t, exec (.messageRingRecord box q j) s = .next t ∧
        memNum t.mem (k + 8) 4 = (tail + n) % 2 ^ 32 ∧
        memNum t.mem (dieKey d (base + tail % size)) 8 = (c.held.length + c.src * 2 ^ 32) % 2 ^ 64 ∧
        memGets t.mem (dieKey d (base + tail % size) + 8) c.held.length = c.held ∧
        ∃ c', t.queued box q j = some c' ∧ c'.bytes = c.held.length ∧ c'.held = [] ∧ c'.phase = 3) ∧
    (s.faulting (.engine box c.seq) = false →
      let fin := Instr.engineCommandFinish box q j
      (c.phase = 3 → (c.dirty = none ∨ memNum s.mem (dieKey (s.partyDie (.engine box c.seq)) (tcb + 16)) 8 = 0) → reach fin 4) ∧
      (c.phase = 4 → (c.bar = false ∨ (c.bytes ≠ 0 ∧ c.sub = c.bytes)) → reach fin 5) ∧
      (∀ d off, c.phase = 4 → c.bar = true → addrWord (c.op 192 64) = some (.die d off) → off + 32 ≤ 2 ^ 24 →
        (c.bytes = 0 ∨ c.sub ≠ c.bytes) → fld box 15 12 = 2 →
        let o := dieKey d off
        (∀ i, i < 32 → ownBits (o + i) = 0) →
        let pend := memNum s.mem (o + 8) 4
        let n := c.bytes - c.sub
        let last := pend ≤ n ∧ memNum s.mem (o + 4) 4 = memNum s.mem o 4
        ∃ t, exec fin s = .next t ∧
          t.queued box q j = some { c with phase := 5, sub := c.bytes, status := if pend < n ∧ c.status = 0 then 7 else c.status } ∧
          memNum t.mem (o + 8) 4 = pend - n ∧
          (¬last → memNum t.mem (o + 4) 4 = memNum s.mem (o + 4) 4 ∧ memNum t.mem (o + 12) 1 = memNum s.mem (o + 12) 1) ∧
          (last → memNum t.mem (o + 4) 4 = 0 ∧
            (s.barKind o = 0 → memNum t.mem (o + 12) 1 = memNum s.mem (o + 12) 1 ^^^ 1) ∧
            (s.barKind o ≠ 0 → t.barMsgs = s.barMsgs ++ [.arrival o (s.barParent o) false])) ∧
          ∀ h, (h < o + 4 ∨ o + 13 ≤ h) → memGet t.mem h = memGet s.mem h) ∧
      (c.phase = 5 → c.cw = false → reach fin 6) ∧
      (∀ d off, c.phase = 5 → c.cw = true → addrWord (c.op 64 64) = some (.die d off) → off % 64 ≤ 60 → off + 4 ≤ 2 ^ 24 →
        (∀ i, i < 4 → ownBits (dieKey d off + i) = 0) →
        ∃ t, exec fin s = .next t ∧ t.queued box q j = some { c with phase := 6 } ∧
          memNum t.mem (dieKey d off) 4 = (c.op 128 32 + (if c.status = 0 then 0 else 0x40000000)) % 2 ^ 32 ∧
          ∀ h, (h < dieKey d off ∨ dieKey d off + 4 ≤ h) → memGet t.mem h = memGet s.mem h) ∧
      (6 ≤ c.phase → ∃ t, exec fin s = .next t ∧ t.mem = s.mem ∧ (∀ q' j' d, t.queued box q' j' = some d → d.seq ≠ c.seq) ∧
        ((c.status ≠ 0 ∨ c.ack = true) → c.op 24 16 ≠ 0xFFFF → c.status < 2 ^ 8 → box < 2 ^ 16 →
          ∃ r : Msg, t.transit = s.transit ++ [{ src := box, priv := false, box := c.op 24 16, m := r, node := c.node }] ∧ r.extractLsb' 0 8 = 0x7F ∧
            r.extractLsb' 64 64 = c.m.extractLsb' 0 64) ∧
        (c.status = 0 → c.ack = false → t.transit = s.transit)))

/-! ### Sharing a cell, and the sequencer -/

/-- The arbiter (R252, R253): a grant goes to a ready context with credit, the first from the pointer on, or to the lowest that has waited 4,093
times with beats; it spends one credit and ends the wait of the one granted, every other ready context waits once more, and the pointer moves past
a context whose credit is spent. The weights follow the occupancies; a yield ends when its clocks have passed (R98). Which contexts are ready, by trying their next word or step, is
the model's reading of R252. (DEDUCED, log 10) -/
def Obligations.Arbitration : Prop :=
  ∀ (die cell : Nat) (s : State),
    let ck := cellKey die cell
    let a := (s.cell ck).arb
    let rdy := s.readySet ck
    let forced (i : Nat) : Prop := i ∈ rdy ∧ 0 < (s.ctx (ctxAt ck i)).occ ∧ 4093 ≤ a.wait.getD i 0
    let granted (t : State) (a : Arb) (g : Nat) : Prop :=
      t.mem = s.mem ∧ (∀ y, t.ctx y = s.ctx y) ∧ (t.cell ck).grant = some g ∧ (t.cell ck).undo = (s.cell ck).arb ∧
      (t.cell ck).arb.w = a.w ∧
      (∀ i, i < 4 → (t.cell ck).arb.credit.getD i 0 = if i = g then a.credit.getD i 0 - 1 else a.credit.getD i 0) ∧
      (∀ i, i < 4 → (t.cell ck).arb.wait.getD i 0 =
        if i = g then 0 else if i ∈ rdy then a.wait.getD i 0 + 1 else a.wait.getD i 0) ∧
      (t.cell ck).arb.ptr = (if a.credit.getD g 0 ≤ 1 then (g + 1) % 4 else g)
    ((s.cell ck).grant = none →
      (∀ g, forced g → (∀ i, forced i → g ≤ i) →
        (∃ t, exec (.arbiterGrant die cell) s = .next t ∧ granted t a g) ∧
        (∃ t, exec (.forcedGrant die cell) s = .next t ∧ granted t a g)) ∧
      (∀ i0, (∀ i, ¬forced i) → i0 ∈ rdy → 0 < a.credit.getD i0 0 →
        ∃ t g j, exec (.arbiterGrant die cell) s = .next t ∧ granted t a g ∧ g ∈ rdy ∧ 0 < a.credit.getD g 0 ∧
          j < 4 ∧ g = (a.ptr + j) % 4 ∧ ∀ i, i < j → (a.ptr + i) % 4 ∈ rdy → a.credit.getD ((a.ptr + i) % 4) 0 = 0) ∧
      (∀ i0, (∀ i, ¬forced i) → i0 ∈ rdy → (∀ i, i ∈ rdy → a.credit.getD i 0 = 0) → (∀ i, i < 4 → 1 ≤ a.w.getD i 1) →
        ∃ t g, exec (.arbiterGrant die cell) s = .next t ∧ g ∈ rdy ∧
          granted t { a with credit := tab 4 (fun i => min (a.credit.getD i 0 + a.w.getD i 1) (2 * a.w.getD i 1)) } g)) ∧
    (s.clk.toNat % 1024 = 0 → ∃ t, exec (.arbiterWeightRefresh die cell) s = .next t ∧ t.mem = s.mem ∧ (∀ y, t.ctx y = s.ctx y) ∧
      (∀ i, i < 4 → (t.cell ck).arb.w.getD i 0 = 1 + min ((s.cell ck).ctx i).occ 255) ∧
      (t.cell ck).arb.credit = a.credit ∧ (t.cell ck).arb.wait = a.wait ∧ (t.cell ck).arb.ptr = a.ptr) ∧
    (∀ x, (s.ctx x).yieldTo ≤ s.clk.toNat → exec (.yieldExpiry x) s = .next (s.modCtx x (fun c => { c with yieldTo := 0 })))

/-- The steps of the sequencer (R82 to R86, R240, R244, R248, R249): a terminal that matches takes the beat, one that does not match traps with PARSE
where no frame recovers; a nonterminal expands by the production its column names, or in place when only the end symbol follows;
an action block starts at its first word; the end symbol pops its frame, and with the last one the unit is accepted after EOF; a pending
close ends the round, and the step it comes before keeps the grant; recovery discards beats up to a mark of its level. -/
def Obligations.SequencerSteps : Prop :=
  ∀ (x : CtxId) (s : State),
    let c := s.ctx x
    let k := s.cell x.ck
    let g := s.gramOf x
    let p := c.port 0
    c.life = .live → k.grant = some x.ctx → c.arch.pos = .step → c.frozen = false → s.waved x.ck = false → c.info.bad = false →
    let ends (i : Instr) (c' : Ctx) : Prop := exec i s = .next (({ s with cur := x }.setCtx x c').issued x)
    let traps (i : Instr) (cause info : Nat) : Prop :=
      exec i s = .next (({ s with cur := x }.issued x).takeTrap x cause (BitVec.ofNat 64 info))
    let shifted (b : Beat) : Ctx := { c.setPort 0 p.take with
      arch := { c.arch with tok := b, closePend := c.arch.closePend || c.info.rlvl ≤ beatMark b.sb } }
    let head (b : Beat) : Prop := c.handing = false ∧ c.handed = none ∧ c.arch.tok.sb ≠ 0x1000 ∧ p.closed = false ∧
      p.avail.head? = some b ∧ b.sb ≠ 0x1000
    (c.arch.closePend = false → c.arch.recov = none →
      (∀ b n f r, s.symbolOf x = .term n → c.arch.stack = f :: r → head b →
        (beatClass b.sb = n → ends (.terminalShift x) { shifted b with arch := { (shifted b).arch with
          stack := { f with off := f.off + 1 } :: r } }) ∧
        (beatClass b.sb ≠ n → k.recoverFrame g c.arch.stack = .ok none →
          traps (.terminalShift x) 3 (beatClass b.sb + f.nt * 2 ^ 4 + f.prod * 2 ^ 10))) ∧
      (∀ b n f r pr, s.symbolOf x = .nonterm n true → c.arch.stack = f :: r → head b →
        k.gword (g.base + g.opt + 2 * (16 * n + beatClass b.sb)) = 2 ^ 15 + pr → pr < g.nprod → pr < 2 ^ 12 →
        let next := k.symbol g f.prod (f.off + 1)
        let broken (o : Nat) (act : Bool) : Prop := next = .bad o act ∧ (act = false ∨ 8191 < k.gword o % 2 ^ 14)
        (∀ o act, broken o act → traps (.nonterminalLookup x) 1 (9 + o * 2 ^ 16)) ∧
        (next = .stop →
          ends (.nonterminalLookup x) { c with arch := { c.arch with stack := { prod := pr, off := 0, nt := n } :: r } }) ∧
        (next ≠ .stop → (∀ o act, ¬broken o act) → r.length + 1 < 64 →
          ends (.nonterminalLookup x) { c with arch := { c.arch with
            stack := { prod := pr, off := 0, nt := n } :: { f with off := f.off + 1 } :: r } }) ∧
        (next ≠ .stop → (∀ o act, ¬broken o act) → 64 ≤ r.length + 1 → traps (.nonterminalLookup x) 4 n)) ∧
      (∀ f h r, s.symbolOf x = .stop → c.arch.stack = f :: h :: r →
        ends (.endStep x) { c with arch := { c.arch with stack := h :: r } }) ∧
      (∀ f, s.symbolOf x = .stop → c.arch.stack = [f] → c.arch.tok.sb ≠ 0x1000 →
        traps (.endStep x) 3 (beatClass c.arch.tok.sb + f.nt * 2 ^ 4 + 0xFFE * 2 ^ 10)) ∧
      (∀ f, s.symbolOf x = .stop → c.arch.stack = [f] → c.arch.tok.sb = 0x1000 → c.cancel = false → c.closed = none →
        ∃ t e, exec (.endStep x) s = .next t ∧ t.mem = s.mem ∧ (t.ctx x).life = .accepted ∧ (t.ctx x).closed = some e ∧
          e.final = true ∧ e.ts = c.opn.ts ∧ e.ents = c.opn.ents ∧ e.msgs = c.opn.msgs ∧ (t.ctx x).opn.used = 0)) ∧
    (∀ o act, s.symbolOf x = .bad o act → c.arch.recov = none → (c.arch.closePend = false ∨ act = true) →
      traps (.endStep x) 1 (9 + o * 2 ^ 16)) ∧
    (∀ n last f r, s.symbolOf x = .action n → c.arch.stack = f :: r → k.block n = some last → c.arch.recov = none →
      ends (.actionStep x) { c with arch := { c.arch with stack := { f with off := f.off + 1 } :: r, pos := .word n n last } }) ∧
    (c.arch.closePend = true → c.arch.recov = none → (∀ n, s.symbolOf x ≠ .action n) → (∀ o, s.symbolOf x ≠ .bad o true) →
      c.cancel = false → c.closed = none → c.opn.ts ≠ 0xFFFFFFFF →
      ∃ t e, exec (.roundClose x) s = .next t ∧ t.mem = s.mem ∧ (t.ctx x).closed = some e ∧ e.ts = c.opn.ts ∧
        e.serial = c.opn.serial ∧ e.ents = c.opn.ents ∧ e.msgs = c.opn.msgs ∧ e.ranges = c.opn.ranges ∧ e.final = false ∧
        (t.ctx x).opn.ts = c.opn.ts + 1 ∧ (t.ctx x).opn.used = 0 ∧ (t.ctx x).opn.ranges = [] ∧
        (t.ctx x).arch = { c.arch with closePend := false } ∧ (t.ctx x).opn.snap.arch = (t.ctx x).arch ∧ (t.cell x.ck).grant = some x.ctx) ∧
    (∀ e b last, c.arch.recov = some e → k.block e.act = some last → head b →
      (beatMark b.sb < e.level → ends (.recovery x) (shifted b)) ∧
      (e.level ≤ beatMark b.sb → ends (.recovery x) { shifted b with arch := { (shifted b).arch with
        recov := none, pos := .word e.act e.act last } }))

/-! ### Rounds, messages and results -/

/-- The commit of a round (R263, R264, R266). In a domain the round first asks, once it is settled, which only notes the clock and its context; it then waits while
it may not commit. That asking is a move of its own is the model's choice (log 67). Then, here of a round whose stores are to `.s`, `.n` and `.d`:
all stores become visible at once, the last to a byte holding, but for bits that only the device writes (R7); the messages go to the cell's queue
in order; the round is over, %rseq rises. In a domain, the floor reaches its timestamp, and a later open round of another unit that has read a byte
it writes goes back to its snapshot. -/
def Obligations.RoundCommits : Prop :=
  (∀ (x : CtxId) (s : State) (r : Round), (s.ctx x).closed = some r → (s.ctx x).info.domain ≠ 0 →
    (r.asked = none → s.settledRound x r = true →
      exec (.roundCommit x) s = .next (s.modCtx x (fun c => { c with closed := some { r with asked := some (s.clk.toNat, x.box) } }))) ∧
    (s.settledRound x r = false ∨ (r.asked.isSome = true ∧ s.mayCommit x r = false) → exec (.roundCommit x) s = .next s)) ∧
  ∀ (x : CtxId) (s : State) (r : Round), Sound s → (s.ctx x).closed = some r → s.mayCommit x r = true →
    let c := s.ctx x
    let written := r.ents.flatMap (fun e => e.bytes.map (fun b => (homeOf e.sp e.base (64 * e.blk) + b.1, b.2)))
    (∀ e ∈ r.ents, e.sp = .s ∨ e.sp = .n ∨ e.sp = .d) →
    (∀ e ∈ r.ents, (c.atomicWait (homeOf e.sp e.base (64 * e.blk)) 64).isNone = true) →
    (c.info.domain = 0 → c.life = .live → c.prods = [] → r.final = false → c.dirty = none →
      (∀ b ∈ r.msgs, ∃ box m, b = .message box m) →
      ∃ t, exec (.roundCommit x) s = .next t ∧ (t.ctx x).closed = none ∧ (t.ctx x).rseq = c.rseq + 1 ∧
        { (t.ctx x).opn with snap := c.opn.snap } = c.opn ∧ (t.ctx x).opn.snap.arch = c.opn.snap.arch ∧
        (t.ctx x).life = .live ∧ (t.ctx x).arch = c.arch ∧
        (∀ h, memGet t.mem h = match written.reverse.find? (fun b => b.1 == h) with
          | some b => (memGet s.mem h &&& ownBits h) ||| (b.2 &&& ~~~(ownBits h))
          | none => memGet s.mem h) ∧
        (t.cell x.ck).queue = (s.cell x.ck).queue ++ r.msgs.filterMap (fun b => match b with
          | .message box m => some { ctx := x.ctx, box := box, priv := c.priv, m := m, launch := some (c.info.sdie, c.info.lkey) }
          | _ => none)) ∧
    (c.info.domain ≠ 0 →
      (∃ t, exec (.roundCommit x) s = .next t ∧ t.floor c.info.domain =
        (if (s.floor c.info.domain).toNat < r.ts.toNat then r.ts else s.floor c.info.domain)) ∧
      ∀ (y : CtxId) (k : Cell) (e : Entry) (g : Range) (i : Nat), y ≠ x → (s.cells.get? y.ck) = some k → k.ctxs.get? y.ctx = some (s.ctx y) →
        (s.ctx y).life = .live → (s.ctx y).info.domain = c.info.domain → (s.ctx y).closed = none → (s.ctx y).frozen = false →
        r.ts.toNat < (s.ctx y).opn.ts.toNat → e ∈ r.ents → g ∈ (s.ctx y).opn.ranges → g.sp = e.sp → g.base = e.base → i < 64 →
        e.en.getLsbD i = true → g.lo ≤ 64 * e.blk + i → 64 * e.blk + i ≤ g.hi → (∀ b ∈ r.msgs, ∃ box m, b = .message box m) →
        ∃ t, exec (.roundCommit x) s = .next t ∧ (t.ctx y).arch = (s.ctx y).opn.snap.arch ∧ (t.ctx y).opn.ts = (s.ctx y).opn.ts)

/-- How units end (R205, R216, R244, R322): an accepted unit with nothing pending is done, its context is free and its launch's record counts it;
a cancelled unit that waits, or whose next word or step would, stops, with its open round lost and a closed one kept; with no closed round its
launch's record counts it as cancelled. Other memory stays but for direct stores and atomics that have issued, which are performed then; only
atomics that the host performs for a round that stays are still waited for. (DEDUCED, log 13, 15 and 85) -/
def Obligations.UnitsEnd : Prop :=
  ∀ (x : CtxId) (s : State), Sound s →
    let c := s.ctx x
    let i := (s.cell x.ck).island
    (c.life = .accepted → c.closed = none → c.prods = [] → c.frozen = false → (∀ e ∈ i.rq, e.ctx ≠ x.ctx) → (∀ e ∈ i.cq, e.ctx ≠ x.ctx) →
      ∃ t, exec (.unitDone x) s = .next t ∧ (t.ctx x).life = .empty ∧ (t.cell x.ck).island.holder ≠ some x.ctx ∧
        ∀ l tile, s.launch? c.info.sdie c.info.lkey = some l → l.insts[c.info.inst]? = some tile → tile.tiled = false → c.dirty = none →
          (∀ i, i < 32 → ownBits (l.crec + i) = 0) →
          let n (o : Nat) : Nat := memNum s.mem (l.crec + o) 4
          n 4 + 1 + n 8 + n 12 < n 0 → n 4 + 1 < 2 ^ 32 →
          memNum t.mem (l.crec + 4) 4 = n 4 + 1 ∧
          ∀ h, (h < l.crec + 4 ∨ l.crec + 8 ≤ h) → memGet t.mem h = memGet s.mem h) ∧
    (c.life = .live → c.cancel = true → c.frozen = false →
      (c.stopsNow = true ∧ s.waitOver x = false) ∨ (c.wait = .none ∧ ∃ w, s.nextWait x = some w ∧ ({ c with wait := w } : Ctx).stopsNow = true) →
      let quiet : Prop := ∀ p ∈ c.prods, p.stores = false ∧ p.performed = false
      ∃ t, exec (.unitStop x) s = .next t ∧
        (c.closed = none → (t.ctx x).life = .empty ∧ (t.ctx x).prods = [] ∧
          (quiet →
            (s.launch? c.info.sdie c.info.lkey = none → SameMemory s t) ∧
            ∀ l tile, s.launch? c.info.sdie c.info.lkey = some l → l.insts[c.info.inst]? = some tile → tile.tiled = false →
              (∀ i, i < 32 → ownBits (l.crec + i) = 0) →
              let n (o : Nat) : Nat := memNum s.mem (l.crec + o) 4
              n 4 + n 8 + (n 12 + 1) < n 0 → n 12 + 1 < 2 ^ 32 →
              memNum t.mem (l.crec + 12) 4 = n 12 + 1 ∧
              ∀ h, (h < l.crec + 12 ∨ l.crec + 16 ≤ h) → memGet t.mem h = memGet s.mem h)) ∧
        (∀ r, c.closed = some r → (t.ctx x).life = .cancelled ∧ (t.ctx x).closed = some r ∧ (t.ctx x).opn.used = 0 ∧
          (t.ctx x).prods = c.prods.filter (fun p => decide (p.serial < c.opn.serial) && p.hosted) ∧ (quiet → SameMemory s t)))

/-- Messages and beats on their way (R159, R166, R167, R273, R276, R277): those of one context to one inbox leave in order, a committed beat leaves the head
of its port, unless a freeze of its target holds it (R336), and joins the FIFO that it is for, a message becomes a command or a beat at its receiver
or comes back with NORECV, from an id that no receiver can have too (R163), an arrival counts at the parent barrier or waits while the release list is full, a release flips PHASE and answers those who wait.
The claims about bytes are of memory outside the fields that only the device writes (R7). (DEDUCED, log 37 and 85) -/
def Obligations.MessagesAndBeatsMove : Prop :=
  ∀ (s : State), Sound s →
    (∀ die cell k e, (s.cell (cellKey die cell)).queue[k]? = some e → e.log = false →
      (∀ f ∈ (s.cell (cellKey die cell)).queue.take k, f.log = false ∧ (f.ctx ≠ e.ctx ∨ f.box ≠ e.box)) →
      ∃ t, exec (.messageDeparture die cell k) s = .next t ∧ t.mem = s.mem ∧
        (t.cell (cellKey die cell)).queue = dropIdx (s.cell (cellKey die cell)).queue k ∧
        t.transit = s.transit ++ [{ src := (ctxAt (cellKey die cell) e.ctx).box, priv := e.priv, box := e.box, m := e.m, lg := e.lg,
                                    launch := e.launch }]) ∧
    (∀ x q b l, ((s.ctx x).port q).fifo = b :: l → ((s.ctx x).port q).out = true → ((s.ctx x).port q).kind = 1 →
      ((s.ctx x).port q).base < ((s.ctx x).port q).ctail → (s.ctx x).frozen = false →
      let held := s.holdsBeats (fld ((s.ctx x).port q).bind.toNat 19 4) (fld ((s.ctx x).port q).bind.toNat 23 20)
      (held = true → exec (.beatDeparture x q) s = .next s) ∧
      (held = false → ∃ t f, exec (.beatDeparture x q) s = .next t ∧ t.mem = s.mem ∧ ((t.ctx x).port q).fifo = l ∧
        ((t.ctx x).port q).base = ((s.ctx x).port q).base + 1 ∧ t.flights = s.flights ++ [f] ∧ f.beat = b ∧
        f.box = fld ((s.ctx x).port q).bind.toNat 19 4 ∧ f.port = fld ((s.ctx x).port q).bind.toNat 23 20)) ∧
    (∀ k f, s.flights[k]? = some f → (∀ g ∈ s.flights.take k, (g.src ≠ f.src ∨ g.via ≠ f.via) ∧
        (g.tail = false ∨ g.port ≠ f.port ∨ s.receiver g.box ≠ s.receiver f.box)) → s.away f.box = false → 2 ≤ f.port →
      let y := s.receiver f.box
      let p := (s.ctx y).port f.port
      (s.ctx y).life = .live → (s.ctx y).frozen = false → s.pageTakes y.ck = true → p.shut = false → p.out = false → p.kind = 1 →
      p.old.length + p.fifo.length < p.depth →
      ∃ t, exec (.beatArrival k) s = .next t ∧ t.mem = s.mem ∧ ((t.ctx y).port f.port).fifo = p.fifo ++ [f.beat] ∧
        t.flights = dropIdx s.flights k) ∧
    (∀ k m, s.transit[k]? = some m → (∀ u ∈ s.transit.take k, u.src ≠ m.src ∨ u.via ≠ m.via ∨
        (u.box ≠ m.box ∧ (fld u.box 15 12 ≠ 0 ∨ fld m.box 15 12 ≠ 0 ∨ s.receiver u.box ≠ s.receiver m.box))) → fld m.src 15 12 ≠ 7 →
      let b := s.boxes.getD m.box {}
      let y := s.receiver m.box
      (boxOk m.box = true → fld m.box 15 12 = 2 → b.out = false → s.sys.dies.getD (fld m.box 11 10) true = true → refusal 2 m.m = none →
        (b.qs.getD (m.m.extractLsb' 16 2).toNat []).length < 64 →
        ∃ t, exec (.inboxMessageDelivery k) s = .next t ∧ t.mem = s.mem ∧ t.transit = dropIdx s.transit k ∧
          (t.boxes.getD m.box {}).qs.getD (m.m.extractLsb' 16 2).toNat [] = b.qs.getD (m.m.extractLsb' 16 2).toNat [] ++
            [{ m := m.m, src := m.src, priv := m.priv, seq := b.seq, free := m.m.getLsbD 8, lg := m.lg,
               launch := m.launch, node := m.node }]) ∧
      (∀ q, boxOk m.box = true → fld m.box 15 12 = 0 → s.away m.box = false → (s.ctx y).inboxPort = some q → (s.ctx y).life = .live → fusedOff y.ck = false →
        (s.ctx y).frozen = false → s.pageTakes y.ck = true → ((s.ctx y).port q).shut = false →
        ((s.ctx y).port q).old.length + ((s.ctx y).port q).fifo.length < ((s.ctx y).port q).depth →
        ∃ t, exec (.inboxMessageDelivery k) s = .next t ∧ t.mem = s.mem ∧ t.transit = dropIdx s.transit k ∧
          ((t.ctx y).port q).fifo = ((s.ctx y).port q).fifo ++ [{ sb := 0x0240, data := m.m.zeroExtend 2048 }]) ∧
      (boxOk m.box = false ∨ fld m.box 15 12 = 0 ∧ s.away m.box = false ∧ (s.ctx y).inboxPort = none ∧ (s.ctx y).frozen = false →
        (m.m.extractLsb' 0 8).toNat ≠ 0x7F → (m.m.extractLsb' 24 16).toNat ≠ 0xFFFF → m.box < 2 ^ 16 →
        ∃ t r, exec (.inboxMessageDelivery k) s = .next t ∧ t.mem = s.mem ∧
          t.transit = dropIdx s.transit k ++ [{ src := m.box, priv := false, box := (m.m.extractLsb' 24 16).toNat, m := r,
                                                 node := m.node }] ∧
          r.extractLsb' 0 8 = 0x7F ∧ r.extractLsb' 8 8 = 0x0A)) ∧
    (∀ k child parent waits, s.barMsgs[k]? = some (.arrival child parent waits) → iceHome parent = false →
      (∀ o ∈ (if waits then s.barMsgs.take k else s.barMsgs), o.waitsAt (barHome parent) = false) →
      (waits = false → 1024 ≤ (s.releases.filter (fun r => barHome r.1 == barHome parent)).length →
        exec (.childArrival k) s = .next { s with barMsgs := dropIdx s.barMsgs k ++ [.arrival child parent true] }) ∧
      ((s.releases.filter (fun r => barHome r.1 == barHome parent)).length < 1024 →
      let arrived := memNum s.mem (parent + 4) 4
      arrived < memNum s.mem parent 4 → (∀ i, i < 4 → ownBits (parent + 4 + i) = 0) → (arrived + 1 < memNum s.mem parent 4 ∨ memNum s.mem (parent + 8) 4 ≠ 0) →
      ∃ t, exec (.childArrival k) s = .next t ∧ memNum t.mem (parent + 4) 4 = arrived + 1 ∧
        t.barMsgs = dropIdx s.barMsgs k ∧ t.releases = s.releases ++ [(parent, child)] ∧
        ∀ h, (h < parent + 4 ∨ parent + 8 ≤ h) → memGet t.mem h = memGet s.mem h)) ∧
    (∀ k o, s.barMsgs[k]? = some (.release o) → iceHome o = false → ownBits (o + 12) = 0 →
      ∃ t, exec (.release k) s = .next t ∧ memGet t.mem (o + 12) = memGet s.mem (o + 12) ^^^ 1 ∧
        (∀ h, h ≠ o + 12 → memGet t.mem h = memGet s.mem h) ∧ (∀ w ∈ t.barWaits, w.obj = o → w.answered = true) ∧
        t.barMsgs = dropIdx s.barMsgs k ++ (s.releases.filter (fun r => r.1 == o)).map (fun r => BarMsg.release r.2) ∧
        t.releases = s.releases.filter (fun r => r.1 != o))

/-- Results of long-latency words (R21, R35, R131, R149, R217, R247): each fills its register and no other, and where a later round has opened since, in that
round's snapshot too; a WAITW gives the word as it was when it reached its target, CSTAT the word of the record. -/
def Obligations.ResultsArrive : Prop :=
  ∀ (x : CtxId) (k : Nat) (s : State) (p : Prod) (i : Nat), (s.ctx x).prods[k]? = some p →
    p.dst = .s i → 0 < i → i < 64 → (∀ q ∈ (s.ctx x).prods, q.id = p.id → q = p) →
    let c := s.ctx x
    let fills (e : Instr) (v : Word) : Prop :=
      ∃ t, exec e s = .next t ∧ t.mem = s.mem ∧ (t.ctx x).arch.rs i = v ∧ (t.ctx x).arch.full (.s i) = true ∧
        (∀ j, j ≠ i → (t.ctx x).arch.rs j = c.arch.rs j) ∧ (∀ r, r ≠ .s i → (t.ctx x).arch.full r = c.arch.full r) ∧
        { (t.ctx x).arch with s := c.arch.s, sf := c.arch.sf } = c.arch ∧
        (t.ctx x).prods = c.prods.filter (fun q => q.id != p.id) ∧
        (p.serial < c.opn.serial → (t.ctx x).opn.snap.arch.rs i = v)
    (∀ ty got, p.kind = .load ty false [] got →
      fills (.loadDataArrival x k .clean) (extTy ty (got.foldl (fun v e => putFld v (8 * e.1) 8 e.2.toNat) 0))) ∧
    (∀ w v, s.watches.find? (fun w => w.x == x && w.id == p.id) = some w → w.got = some v →
      fills (.waitwSatisfied x k) (v.zeroExtend 64)) ∧
    (∀ h sel wait, p.kind = .cstat h sel wait →
      (wait = false ∨ memNum s.mem (h + 18) 1 ≠ 0 → fills (.cstatFill x k) (BitVec.ofNat 64 (memNum s.mem (h + 8 * sel) 8))) ∧
      (wait = true → memNum s.mem (h + 18) 1 = 0 → exec (.cstatFill x k) s = .next s)) ∧
    (∀ pos v, p.kind = .look pos → c.lookAt pos = some v → fills (.lookaheadFill x k) (BitVec.ofNat 64 v))

/-! ### Translation and the island -/

/-- Translation (R344 to R352, R356, R357): a walk reads the address-space table, then one entry a level, down to a leaf of 1 GiB, 2 MiB or 64 KiB,
whose A bit it sets when it grants the access; an entry that is not valid, breaks a rule, forbids the write or names nothing ends it, the write
bit tested before the address (that order is the model's choice: DEDUCED, log 69). Its result fills the cell's cache and the word issues again, unless a shoot-down came between; a fault voids the round, takes
a slot and sends XFAULT to the handler, or waits for a slot, or fails the unit when no handler is named; a resolution fails the unit or lets its
access issue again from the snapshot, once it waits on no other slot, and of a context that has been freed only clears the slot; a shoot-down ends
once nothing older is owed, and under a freeze wave its context stops there (R337). -/
def Obligations.TranslationEvents : Prop :=
  ∀ (s : State), Sound s →
    (∀ k w, s.walks[k]? = some w → w.res = none →
      let atab := memNum s.mem (dieKey w.x.die tcb) 8
      let ends (r : WalkRes) : Prop := ∃ t, exec (.translationWalk k) s = .next t ∧ t.mem = s.mem ∧
        t.walks = modIdx (fun w => { w with res := some r }) s.walks k
      let entry (table index : Nat) : Nat := memNum s.mem (paKey (table + 8 * index)) 8
      let table (e : Nat) : Nat := fld e 45 8 * 2 ^ 8
      let broken (e lvl : Nat) : Prop :=
        (e % 2 = 0 → ends (.bad 1 lvl)) ∧ (e % 2 = 1 → s.entryOk e lvl = false → ends (.bad 3 lvl))
      let good (e lvl : Nat) (leaf : Bool) : Prop := e % 2 = 1 ∧ s.entryOk e lvl = true ∧ bit e 1 = leaf
      let leaf (e lvl key lg : Nat) : Prop := good e lvl true →
        let reachable : Bool := s.paOk (table e + w.va % 2 ^ lg) && !(w.hostBar && bit (table e + w.va % 2 ^ lg) 45)
        (w.wr = true → bit e 2 = false → ends (.bad 2 lvl)) ∧
        (w.wr = false ∨ bit e 2 = true → reachable = false → ends (.bad 5 lvl)) ∧
        (w.wr = false ∨ bit e 2 = true → reachable = true →
          ∃ t, exec (.translationWalk k) s = .next t ∧
            t.walks = modIdx (fun w => { w with res := some (.leaf (table e) lg (bit e 2)) }) s.walks k ∧
            ∀ h, memGet t.mem h = if h = key then memGet s.mem h ||| 0x10 else memGet s.mem h)
      (atab % 2 ^ 19 ≠ 0 ∨ 2 ^ 46 ≤ atab ∨ s.paOk atab = false → ends (.bad 4 0)) ∧
      (atab % 2 ^ 19 = 0 → atab < 2 ^ 46 → s.paOk atab = true →
        let e0 := entry atab w.asid
        let root := fld e0 45 13 * 2 ^ 13
        (e0 % 2 = 0 ∨ fld e0 12 1 ≠ 0 ∨ 2 ^ 46 ≤ e0 ∨ s.paOk root = false → ends (.bad 4 0)) ∧
        (fld e0 12 0 = 1 → e0 < 2 ^ 46 → s.paOk root = true →
          let e1 := entry root (fld w.va 48 39)
          let e2 := entry (table e1) (fld w.va 38 30)
          let e3 := entry (table e2) (fld w.va 29 21)
          let e4 := entry (table e3) (fld w.va 20 16)
          broken e1 1 ∧
          (good e1 1 false → broken e2 2 ∧ leaf e2 2 (paKey (table e1 + 8 * fld w.va 38 30)) 30 ∧
            (good e2 2 false → broken e3 3 ∧ leaf e3 3 (paKey (table e2 + 8 * fld w.va 29 21)) 21 ∧
              (good e3 3 false → broken e4 4 ∧ leaf e4 4 (paKey (table e3 + 8 * fld w.va 20 16)) 16)))))) ∧
    (∀ k w r, s.walks[k]? = some w → w.res = some r →
      let tlb := (s.cell w.x.ck).tlb
      (w.gen ≠ tlb.gen → exec (.walkResult k) s = .next { s with walks := modIdx (fun w => { w with res := none, gen := tlb.gen }) s.walks k }) ∧
      (w.gen = tlb.gen → ∀ pa lg wr, r = .leaf pa lg wr →
        ∃ t, exec (.walkResult k) s = .next t ∧ t.mem = s.mem ∧ t.walks = dropIdx s.walks k ∧ t.ctx w.x = s.ctx w.x ∧
          ((s.ctx w.x).wait = .walk → (∀ v ∈ dropIdx s.walks k, v.x ≠ w.x) → t.waitOver w.x = true) ∧
          (t.cell w.x.ck).tlb.find w.asid w.va = some { asid := w.asid, va := w.va / 2 ^ lg * 2 ^ lg, lg := lg, pa := pa, wr := wr }) ∧
      (w.gen = tlb.gen → ∀ kind level, r = .bad kind level →
        let die := w.x.die
        let fbox := memNum s.mem (dieKey die (tcb + 8)) 2
        let fcnt := dieKey die (tcb + 24)
        (memNum s.mem (dieKey die (tcb + 8)) 2 = 0xFFFF → (s.ctx w.x).closed ≠ none →
          ∃ t info, exec (.walkResult k) s = .next t ∧ (t.ctx w.x).life = .failed 6 info ∧ fld info.toNat 48 0 = w.va % 2 ^ 49 ∧
            (kind < 8 → level < 8 → fld info.toNat 51 49 = kind ∧ fld info.toNat 54 52 = level ∧ bit info.toNat 55 = w.wr)) ∧
        (∀ slot, memNum s.mem (dieKey die (tcb + 8)) 2 ≠ 0xFFFF → s.freeSlot die = some slot →
          ∃ t, exec (.walkResult k) s = .next t ∧ (t.ctx w.x).wait = .fault ∧ (t.ctx w.x).arch = (s.ctx w.x).opn.snap.arch ∧
            (t.faults.any (fun f => f.party == .ctx w.x && f.slot == some slot && f.va == w.va) = true) ∧
            memNum t.mem (slotKey die slot) 1 % 8 = 4 ∧ (w.x.box < 2 ^ 16 → memNum t.mem (slotKey die slot + 8) 2 = w.x.box) ∧
            memNum t.mem fcnt 4 = (memNum s.mem fcnt 4 + 1) % 2 ^ 32 ∧
            (∀ h, h ≠ slotKey die slot → (h < slotKey die slot + 8 ∨ slotKey die slot + 10 ≤ h) → (h < fcnt ∨ fcnt + 4 ≤ h) →
              memGet t.mem h = memGet s.mem h) ∧
            ∃ m : Msg, t.transit = s.transit ++ [{ src := w.x.box, priv := false, box := fbox, m := m }] ∧
              (w.asid < 2 ^ 16 → w.x.box < 2 ^ 16 → kind < 8 → level < 8 →
                let f (hi lo : Nat) : Nat := fld m.toNat hi lo
                f 7 0 = 0x50 ∧ f 23 8 = 0 ∧ f 39 24 = 0xFFFF ∧ f 47 40 = 0 ∧ f 63 48 = w.asid ∧ f 255 64 = 0 ∧ f 304 256 = w.va % 2 ^ 49 ∧
                f 319 305 = 0 ∧ f 335 320 = w.x.box ∧ f 338 336 = kind ∧ f 341 339 = level ∧ bit m.toNat 342 = w.wr ∧
                bit m.toNat 343 = false ∧ f 349 344 = slot ∧ f 511 350 = 0)) ∧
        (fbox ≠ 0xFFFF → s.freeSlot die = none →
          ∃ t, exec (.walkResult k) s = .next t ∧ t.mem = s.mem ∧ t.transit = s.transit ∧ (t.ctx w.x).wait = .fault ∧
            (t.ctx w.x).arch = (s.ctx w.x).opn.snap.arch ∧
            t.faults.any (fun f => f.party == .ctx w.x && f.slot == none && f.va == w.va) = true))) ∧
    (∀ die slot f x, s.faults.find? (fun f => f.die == die && f.slot == some slot) = some f → slot < 64 → f.party = .ctx x → f.gone = true →
      (if f.res = 0 then memNum s.mem (slotKey die slot) 1 % 4 else f.res) ≠ 0 →
      s.faults.any (fun f => f.die == die && f.slot.isNone && !f.gone) = false →
      ∃ t, exec (.faultResolution die slot) s = .next t ∧ memNum t.mem (slotKey die slot) 16 = 0 ∧ (∀ y, t.ctx y = s.ctx y) ∧
        t.transit = s.transit ∧ (∀ g ∈ t.faults, ¬(g.die = die ∧ g.slot = some slot)) ∧
        ∀ h, (h < slotKey die slot ∨ slotKey die slot + 16 ≤ h) → memGet t.mem h = memGet s.mem h) ∧
    (∀ die slot f x, s.faults.find? (fun f => f.die == die && f.slot == some slot) = some f → slot < 64 → f.party = .ctx x → f.gone = false →
      f.away = none → (s.ctx x).life = .live → (s.ctx x).frozen = false → (s.ctx x).cancel = false → (s.ctx x).wait = .fault →
      let res := if f.res = 0 then memNum s.mem (slotKey die slot) 1 % 4 else f.res
      (res = 0 → exec (.faultResolution die slot) s = .next s) ∧
      (res = 1 → s.faults.any (fun f => f.die == die && f.slot.isNone && !f.gone) = false →
        ∃ t, exec (.faultResolution die slot) s = .next t ∧ memNum t.mem (slotKey die slot) 16 = 0 ∧
          (∀ h, (h < slotKey die slot ∨ slotKey die slot + 16 ≤ h) → memGet t.mem h = memGet s.mem h) ∧
          (t.ctx x).life = .live ∧ (t.ctx x).arch = (s.ctx x).arch ∧ (∀ g ∈ t.faults, ¬(g.die = die ∧ g.slot = some slot)) ∧
          ((∀ g ∈ s.faults, g.party = .ctx x → g.die = die ∧ g.slot = some slot) → (t.ctx x).wait = .none ∧ t.waitOver x = true) ∧
          ∀ g ∈ s.faults, g.party = .ctx x → ¬(g.die = die ∧ g.slot = some slot) → g.gone = false → g.away = none → (t.ctx x).wait = .fault) ∧
      (2 ≤ res → (s.ctx x).closed ≠ none →
        ∃ t, exec (.faultResolution die slot) s = .next t ∧ (t.ctx x).life = .failed 6 (xlateInfo f))) ∧
    (∀ x h, s.shoots.find? (fun h => h.x == x) = some h → s.allCtxs.any (fun e => e.2.owes h) = false →
      ∃ t, exec (.tlbinvAcknowledge x) s = .next t ∧ t.mem = s.mem ∧ MovesOn { s with cur := x } t ∧
        (t.ctx x).frozen = ((s.ctx x).frozen || s.waved x.ck) ∧ ∀ g ∈ t.shoots, g.x ≠ x)

/-- What the matrix island performs (R49 to R54, R56, R59 to R61, R181 to R189, R191 to R198): a row takes its slot and adds the products of each column, an
i8 row wrapping, a bf16 or f16 row its exact sum rounded once (the sign of a zero sum is the model's choice: log 74, and so is the first element of RSCAN as it is: log 72), a block-scaled row into a row
of block partials that MSCA scales in order; a fill takes the slot of its ring into a store that no snapshot names; a swap makes the loading tile
active; a merge from a port that waits for its next beat lets the operations of other contexts pass (DEDUCED, log 25); the closing unit performs the head of its queue once the earlier rows of its accumulators have fired, and the round keeps the old rows. The
appends of MDRN and RLSEND to ports and rings have a statement of their own. -/
def Obligations.IslandOperations : Prop :=
  ∀ (die cell : Nat) (s : State) (e : RowEnt) (rest : List RowEnt),
    let ck := cellKey die cell
    let i := (s.cell ck).island
    (i.rq = e :: rest →
      let x := ctxAt ck e.ctx
      let c := s.ctx x
      c.frozen = false → s.waved ck = false → c.opn.serial = e.serial → e.ctx < 4 →
      (∀ a row ty b, e.op = .row a row ty b → ty = 0 ∨ (9 ≤ ty ∧ ty ≤ 14) → 1 ≤ (c.ring b).held →
        let slot := memNum s.mem (tileKey ck ((c.ring b).slot (c.ring b).shead)) 128
        let tile := (i.stores.getD i.tiles.act 0).toNat
        let old := (s.cell ck).accRow a row
        let wide : Nat := if ty ≤ 10 then 16 else if ty ≤ 12 then 8 else 4
        let value (code alt : Nat) : FVal :=
          if ty = 14 ∧ code = 8 then FVal.ofInt false (sgn 8 alt) (-3) else FVal.ofCode ((Fmt.ofTy ty).getD .e2m1) code
        let left (k : Nat) : FVal := value (elem wide slot k) (elem 8 slot (64 + k / 32))
        let right (k j : Nat) : FVal := value (elem wide tile (256 * k + j)) (elem 8 tile (16384 + 256 * (k / 32) + j))
        let block (b j : Nat) : FVal := exactDot (tab 32 (fun k => left (32 * b + k))) (tab 32 (fun k => right (32 * b + k) j))
        (ty ≤ 10 → (∀ q ∈ i.cq, a ∈ q.accs → e.ord ≤ q.ord) →
          ∃ t, exec (.mmaRowFire die cell) s = .next t ∧ t.mem = s.mem ∧ (t.cell ck).island.rq = rest ∧
            ((t.ctx x).ring b).shead = (c.ring b).shead + 1 ∧
            (∀ j, j < 256 → elem 32 ((t.cell ck).accRow a row) j =
              if ty = 0 then wrap 32 (sgn 32 (elem 32 old j) +
                ((List.range 64).map (fun k => sgn 8 (elem 8 slot k) * sgn 8 (elem 8 tile (256 * k + j)))).foldl (· + ·) 0)
              else roundVal .f32 .rne false ((FVal.ofCode .f32 (elem 32 old j)).add .rne (block 0 j))) ∧
            (∀ n, n ≠ 32 * a + row → (t.cell ck).accs.getD n 0 = (s.cell ck).accs.getD n 0) ∧
            ((∀ v ∈ c.opn.journal, v.1 ≠ 32 * a + row) →
              (32 * a + row, (s.cell ck).accs.getD (32 * a + row) 0) ∈ (t.ctx x).opn.journal)) ∧
        (11 ≤ ty → i.pq.length < 64 →
          ∃ t sums, exec (.mmaRowFire die cell) s = .next t ∧ t.mem = s.mem ∧ (t.cell ck).island.rq = rest ∧
            ((t.ctx x).ring b).shead = (c.ring b).shead + 1 ∧ (t.cell ck).accs = (s.cell ck).accs ∧
            (t.cell ck).island.pq = i.pq ++ [{ serial := e.serial, acc := a, row := row, ty := ty, sums := sums }] ∧
            ∀ b j, 32 * b < 512 / wide → j < 256 → sums.getD (256 * b + j) .nan = block b j)) ∧
      (∀ b ty n, e.op = .mldb b ty → 1 ≤ (c.ring b).held → i.filling = none → freeStore i.tiles (c.namedStores e.serial) = some n →
        ∃ t, exec (.mldbFill die cell) s = .next t ∧ t.mem = s.mem ∧ (t.cell ck).island.rq = rest ∧
          (t.cell ck).island.tiles = { i.tiles with load := n, lty := ty } ∧ (t.cell ck).island.filling = some (n, e.serial) ∧
          n ≠ i.tiles.act ∧ (t.cell ck).island.stores.getD n 0 =
            BitVec.ofNat 139264 (memNum s.mem (tileKey ck ((c.ring b).slot (c.ring b).shead)) 17408) ∧
          ((t.ctx x).ring b).shead = (c.ring b).shead + 1) ∧
      (e.op = .mswap → i.filling = none →
        ∃ t, exec (.mswapEffect die cell) s = .next t ∧ t.mem = s.mem ∧ (t.cell ck).island.rq = rest ∧
          (t.cell ck).island.tiles = { act := i.tiles.load, load := i.tiles.act, aty := i.tiles.lty, lty := i.tiles.aty } ∧
          (t.ctx x).arch = c.arch)) ∧
    (i.filling.isSome = true → ∃ t, exec (.mldbFill die cell) s = .next t ∧ t.mem = s.mem ∧ (t.cell ck).island.filling = none ∧
      (t.cell ck).island.tiles = i.tiles) ∧
    (∀ q more, i.cq = q :: more → s.mergeStalled (ctxAt ck q.ctx) = false →
      let others := more.filter (fun f => f.ord != q.ord)
      ((∃ r ∈ i.rq, r.ord < q.ord ∧ ∃ a ∈ q.accs, r.acc? = some a) → exec (.closingUnitOperation die cell) s = .next s) ∧
      ((∀ r ∈ i.rq, r.ord < q.ord → ∀ a ∈ q.accs, r.acc? ≠ some a) →
        let y := ctxAt ck q.ctx
        let d := s.ctx y
        let row (a n : Nat) : Nat := (s.cell ck).accRow a n
        -- it ends with this queue, and of the accumulators with only these rows changed, whose old values the round keeps
        let ends (left : List CloseEnt) (rows : List Nat) (P : State → Prop) : Prop :=
          ∃ t, exec (.closingUnitOperation die cell) s = .next t ∧ t.mem = s.mem ∧ (t.cell ck).island.cq = left ∧
            (∀ n, n ∉ rows.map (fun r => 32 * q.acc + r) → (t.cell ck).accs.getD n 0 = (s.cell ck).accs.getD n 0) ∧
            (d.opn.serial = q.serial → ∀ r ∈ rows, (∀ v ∈ d.opn.journal, v.1 ≠ 32 * q.acc + r) →
              (32 * q.acc + r, (s.cell ck).accs.getD (32 * q.acc + r) 0) ∈ (t.ctx y).opn.journal) ∧ P t
        let all := List.range 32
        let now (t : State) (n : Nat) : Nat := (t.cell ck).accRow q.acc n
        -- it fills the register of its producer
        let fills (id : Nat) (dst : Reg) (P : Arch → Prop) : Prop :=
          ∀ p, d.prods.find? (fun p => p.id == id) = some p → p.dst = dst →
            ends others [] (fun t => (t.ctx y).arch.full dst = true ∧ (∀ p ∈ (t.ctx y).prods, p.id ≠ id) ∧ P (t.ctx y).arch)
        let emptyRow (t : State) (n k : Nat) : Prop :=
          (∀ p, p < 64 → elem 32 (now t n) (2 * p) = f32negInf ∧ elem 32 (now t n) (2 * p + 1) = 0xFFFFFFFF) ∧
          elem 32 (now t n) 128 = 0 ∧ elem 32 (now t n) 129 = 0 ∧ elem 32 (now t n) 130 = k
        (q.op = .mzero → ends others all (fun t => ∀ n, n < 32 → now t n = 0)) ∧
        (∀ ty sa sb n, q.op = .msca ty sa sb n →
          (i.pq.find? (fun p => p.used.isNone) = none → exec (.closingUnitOperation die cell) s = .next s) ∧
          (∀ p, i.pq.find? (fun p => p.used.isNone) = some p →
            let factor (o : Nat) : Nat := memNum s.mem (tileKey ck o) 1
            let scaled (acc a b : Nat) (v : FVal) : Nat :=
              if a = 255 ∨ b = 255 ∨ v = .nan ∨ f32nan acc = true then 0x7FC00000
              else roundVal .f32 .rne false ((FVal.ofCode .f32 acc).add .rne (match v with
                | .fin g m e => .fin g m (e + (a : Int) - 127 + ((b : Int) - 127))
                | v => v))
            let next : CloseEnt := { q with op := .msca ty sa sb (n - 1) }
            ends (if n ≤ 1 then others else next :: more.map (fun f => if f.ord != q.ord then f else next)) [p.row] (fun t =>
              (t.cell ck).island.pq = claimPartial q.serial i.pq ∧
              (p.row < 32 → ∀ j, j < 256 → elem 32 (now t p.row) j = ((List.range (kPerRow ty / 32)).foldl (fun acc b =>
                scaled acc (factor (sa + 4 * p.row + b)) (factor (sb + 256 * b + j)) (p.sums.getD (256 * b + j) .nan))
                (elem 32 (row q.acc p.row) j)) % 2 ^ 32)))) ∧
        (∀ src dst rnd sat n v part id, q.op = .mdrn src dst rnd sat n v part id → v < 32 → dst ≤ 12 →
          let wide := 256 / (tyBits dst / 8)
          fills id (.v v) (fun a => ∀ k, k < wide → elem (tyBits dst) (a.rv v).toNat k =
            if wide * part + k < 256 then convert src dst (Rnd.ofCode rnd) sat (elem 32 (row q.acc n) (wide * part + k)) % 2 ^ tyBits dst
            else 0)) ∧
        (∀ k, q.op = .rldecl k → ends others all (fun t => (t.cell ck).lists.getD q.acc 0 = k ∧
          ∀ n, n < 32 → (k = 0 → now t n = 0) ∧ (0 < k → k ≤ 64 → emptyRow t n k))) ∧
        (∀ n vals idx act, q.op = .rlpushV n vals idx act → ends others [n] (fun t =>
          now t n = offerRow (row q.acc n) ((List.range 64).filterMap (fun j =>
            if act.getLsbD (4 * j) then some (elem 32 vals.toNat j, elem 32 idx.toNat j) else none)) % 2 ^ 8192)) ∧
        (∀ n src base, q.op = .rlpushA n src base → ends others [n] (fun t =>
          now t n = offerRow (row q.acc n) (tab 256 (fun j => (elem 32 (row src n) j, (base.toNat + j) % 2 ^ 32))) % 2 ^ 8192)) ∧
        (∀ n beats, q.op = .rlmerge n beats → ends others [n] (fun t =>
          now t n = offerRow (row q.acc n) (beats.flatMap beatPairs) % 2 ^ 8192)) ∧
        (∀ n part v id, q.op = .rlread n part v id → v < 32 → fills id (.v v) (fun a =>
          ∀ p, p < 64 → elem 32 (a.rv v).toNat p = elem 32 (row q.acc n) (2 * p + part))) ∧
        (∀ n v id, q.op = .rlth n v id → 0 < v → v < 64 → fills id (.s v) (fun a => a.rs v =
          BitVec.ofNat 64 (rowThreshold (row q.acc n) + (rowPairs (row q.acc n)).length * 2 ^ 32
            + min (rowNans (row q.acc n)) 0xFFFFFF * 2 ^ 40))) ∧
        (∀ one, q.op = .rlclr one → ends others (match one with
            | some n => [n]
            | none => all) (fun t => ∀ n, (one = some n ∨ (one = none ∧ n < 32)) → rowK (row q.acc n) ≤ 64 → emptyRow t n (rowK (row q.acc n)))) ∧
        (∀ n st v id, q.op = .rnorm n st v id → 0 < v → v < 64 → fills id (.s v) (fun a =>
          let gap (x m : Nat) : Nat := e2c (if x = f32negInf ∧ m = f32negInf then 0 else f32sub x m)
          let r := (tab 256 (fun j => elem 32 (row q.acc n) j)).foldl (fun (ms : Nat × Nat) x =>
            let m := fminmax .f32 true ms.1 x
            (m, f32add (f32mul ms.2 (gap ms.1 m)) (gap x m))) (st.toNat % 2 ^ 32, st.toNat / 2 ^ 32)
          a.rs v = BitVec.ofNat 64 (r.1 + r.2 * 2 ^ 32))) ∧
        (∀ n, q.op = .rscan n → ends others [n] (fun t =>
          elem 32 (now t n) 0 = elem 32 (row q.acc n) 0 ∧
          ∀ j, j + 1 < 256 → elem 32 (now t n) (j + 1) = f32add (elem 32 (now t n) j) (elem 32 (row q.acc n) (j + 1)) % 2 ^ 32))))

/-! ### Schedulers and the pager -/

/-- The commands of a scheduler (R213, R216, R218, R309, R310, R317, R322): SOPEN writes an open record, SLAUNCH admits a launch and writes its record, SGRAPH
takes a graph for its turn, SCANCEL stops what runs under a record of its level; here without a completion word and for
records in die scratch, outside the fields there that only the device writes (R7; DEDUCED, log 85). What SOPEN refuses, and that SCANCEL stops the descendants on every die in one step, is the model's reading (DEDUCED, log 43
and 44). -/
def Obligations.SchedulerCommands : Prop :=
  ∀ (m : Msg) (s : State) (c : Cmd), Sound s →
    let d := s.sched s.die
    d.queue.head? = some c → c.m = m → s.faulting (.sched s.die 0) = false → c.phase = 0 → c.cw = false →
    let answered (t : State) : Prop := (t.sched s.die).queue.head? = some { c with phase := 5, status := 0, faddr := 0 }
    let own (r : Nat) : Prop := ∀ i, i < 32 → ownBits (r + i) = 0
    let only (t : State) (r : Nat) : Prop := ∀ h, (h < r ∨ r + 32 ≤ h) → memGet t.mem h = memGet s.mem h
    (∀ r, recordOf (c.op 256 64) = some r → own r → s.openRecord r = false → c.op 384 64 = 0 → (∀ e ∈ s.scheds, ∀ o ∈ e.2.opened, o.crec ≠ r) →
      ∃ t o, exec (.sopen m) s = .next t ∧ answered t ∧ only t r ∧ memNum t.mem r 32 = c.op 352 32 + c.op 320 3 * 2 ^ 136 ∧
        (t.sched s.die).opened = d.opened ++ [o] ∧ o.crec = r ∧ o.level = c.op 320 3) ∧
    (∀ die off r img, addrWord (c.op 256 64) = some (.die die off) → off % 64 = 0 → off + 64 ≤ 2 ^ 24 → d.fatalOf 0 = none →
      let a := memNum s.mem (dieKey die off) 64
      s.readImage s.die 0 c.asid (fld a 63 0) = (s, .ok img) → img.slots ≠ [] → img.hands = false → recordOf (fld a 447 384) = some r → own r →
      1 ≤ fld a 95 64 → fld a 95 64 ≤ 65536 → fld a 111 96 = 0 → 1 ≤ fld a 117 115 → bit a 118 = false → (bit a 119 = true → c.priv = true) →
      fld a 127 121 = 0 → fld a 191 160 = 0 → fld a 319 256 = 0 → fld a 511 448 = 0 →
      ∃ t l, exec (.slaunch m) s = .next t ∧ answered t ∧ only t r ∧ memNum t.mem r 32 = fld a 95 64 + 2 ^ 136 ∧
        (t.sched s.die).launches = d.launches ++ [l] ∧ l.crec = r ∧ l.nunit = fld a 95 64 ∧ l.level = fld a 114 112 ∧
        l.id = BitVec.ofNat 32 ((c.lg.map (fun g => g.id)).getD (launchId s.die d.ids)) ∧
        (t.sched s.die).pool = (if c.lg.isSome then d.pool else d.pool - (1 + c.op 320 12)) ∧ l.sys = bit a 119 ∧ l.rlvl = fld a 117 115 ∧ l.reserve = c.op 320 12 ∧ l.ended = false) ∧
    (∀ r, recordOf (c.op 320 64) = some r → tableWord (c.op 256 64) 128 = true → c.op 384 64 = 0 →
      ∃ t g, exec (.sgraph m) s = .next t ∧ t.mem = s.mem ∧ (t.sched s.die).queue = d.queue.drop 1 ∧
        (t.sched s.die).graphs = d.graphs ++ [g] ∧ g.crec = r ∧ g.cmd = c ∧ g.admitted = false ∧ g.asid = c.asid) ∧
    (∀ r, recordOf (c.op 256 64) = some r →
      (s.recLevel r ≠ c.op 320 3 ∨ s.recStatus r ≠ 0 → ∃ t, exec (.scancel m) s = .next t ∧ t.mem = s.mem ∧ answered t) ∧
      (∀ l, s.recLevel r = c.op 320 3 → s.recStatus r = 0 → s.scheds = [(s.die, d)] → d.graphs = [] → d.launches = [l] → l.crec = r →
        l.ended = false → s.madeAt r ≤ l.adm → s.launch? s.die l.key = some l →
        ∃ t, exec (.scancel m) s = .next t ∧ answered t ∧
          ∀ x k, s.cells.get? x.ck = some k → k.ctxs.get? x.ctx = some (s.ctx x) → (s.ctx x).life = .live → (s.ctx x).info.sdie = s.die →
            (s.ctx x).info.lkey = l.key → (t.ctx x).cancel = true))

/-- The schedulers' own moves (R215, R311 to R313, R317, R319, R321): a graph is admitted whole when the pool has room, the top entry of a class goes to its target,
a reply ends a node whose messages are all answered, the first descheduled LAUNCH gets its entries, or, while it is short of pool entries, one that
the reserve of its own launch covers, an entry rises one level for 2^16
clocks of waiting, and the youngest job is faulted when the pool has stood still for 2^20 clocks. The launch's id and the rank of equal entries are the model's choice
(log 6, 18 and 42), and so is which of the requests that wait gets the pool's entries (log 38). The claims about records are of memory outside the
fields that only the device writes (DEDUCED, log 85). -/
def Obligations.SchedulerMoves : Prop :=
  ∀ (die : Nat) (s : State), Sound s →
    let d := s.sched die
    let own (r : Nat) : Prop := ∀ i, i < 32 → ownBits (r + i) = 0
    (∀ k g tbl, d.graphs[k]? = some g → s.faulting (.sched die (graphJob g.key)) = false → g.cmd.phase = 0 → g.ended = false →
      g.admitted = false → g.phase = 0 → d.fatalOf (graphJob g.key) = none →
      s.readTable die (graphJob g.key) g.asid (g.cmd.op 256 64) 0 128 (g.cmd.op 448 10 + 1) = (s, .ok tbl) →
      State.checkNodes die (graphJob g.key) g.asid tbl 0 0 s = (s, .ok) →
      let total := (tbl.map (fun d => 1 + fld d 23 12)).foldl (· + ·) 0
      own g.crec → d.waits = [] → total ≤ d.room → (∀ h ∈ d.graphs, h.pwait = true → g.adm ≤ h.adm) → (∀ h ∈ d.graphs, h.key = g.key → h = g) → tbl.length ≤ 1024 →
      ∃ t g', exec (.graphAdmission die k) s = .next t ∧ (t.sched die).pool + total = d.pool ∧ (t.sched die).graphs[k]? = some g' ∧
        g'.admitted = true ∧ g'.nodes.length = tbl.length ∧ memNum t.mem g.crec 32 = tbl.length + 2 * 2 ^ 136 ∧
        ∀ h, (h < g.crec ∨ g.crec + 32 ≤ h) → memGet t.mem h = memGet s.mem h) ∧
    (∀ box r gk i g n msg more u, d.out = false → topEntry (s.classOf die (.engine box)) = some (r, .node gk i) →
      d.graphs.find? (fun g => g.key == gk) = some g → g.nodes[i]? = some n → s.faulting (.sched die (nodeJob gk i)) = false →
      n.loaded = true → n.kind = 3 → n.msgs = msg :: more →
      s.deliver { src := schedBox die, priv := false, box := n.target, m := msg, node := some (die, gk, i) } = some u →
      exec (.dispatch die (.engine box)) s = .next ((u.modNode die gk i (fun n => { n with
        st := 2, msgs := more, outs := n.outs ++ [(n.target, (msg.extractLsb' 0 64).toNat)] })).progress die)) ∧
    (∀ r key l img w, d.out = false → s.pages = [] → topEntry (s.cellsClass die) = some (r, .launch key) → s.launch? die key = some l →
      s.faulting (.sched die (launchJob key)) = false → d.fatalOf (launchJob key) = none → l.key = key →
      s.readImage die (launchJob key) l.asid l.image = (s, .ok img) →
      s.windowFor die img l.page l.barred = some (w, false) →
      ∃ t p, exec (.dispatch die .cells) s = .next t ∧ t.mem = s.mem ∧ t.pages = [p] ∧ p.loading = true ∧ p.skip = false ∧ p.cells = w.cells ∧
        p.shadow = w.shadow ∧ p.sdie = die ∧ p.lkey = key ∧ p.ord = l.page ∧ p.inst = l.inst ∧ p.copy = l.copy ∧ p.done = 0 ∧ p.filled = img.filled l.page ∧
        (t.sched die).blocked = none) ∧
    (∀ k e g n sent, s.transit[k]? = some e → e.box = schedBox die → die < 4 → fld e.src 15 12 ≠ 7 → e.node = some (die, g.key, 0) → e.m.extractLsb' 0 8 = 0x7F → e.m.extractLsb' 8 8 = 0 →
      (∀ u ∈ s.transit.take k, u.src ≠ e.src ∨ u.via ≠ e.via ∨ u.box ≠ e.box) → d.graphs = [g] → g.nodes = [n] → n.st = 2 → n.kind = 3 → n.msgs = [] →
      n.outs = [sent] → n.cancel = false → n.bad = false → own g.crec →
      let v (o : Nat) : Nat := memNum s.mem (g.crec + o) 4
      v 4 + 1 + v 8 + v 12 < v 0 → v 4 + 1 < 2 ^ 32 →
      ∃ t, exec (.nodeReply k) s = .next t ∧ t.transit = dropIdx s.transit k ∧ memNum t.mem (g.crec + 4) 4 = v 4 + 1 ∧
        (t.sched die).pool = d.pool + 1 + n.reserve ∧ ∀ h, (h < g.crec + 4 ∨ g.crec + 8 ≤ h) → memGet t.mem h = memGet s.mem h) ∧
    (∀ v rest w, d.waits = v :: rest → s.frozen = [] → v.x.die = die → (s.ctx v.x).life = .live → w.d.cls = 0 → w.d.idx ≠ 0 → w.d.idx.toNat < 64 →
      (s.ctx v.x).waitingLaunch (s.cell v.x.ck) = some w → s.launch? (s.ctx v.x).info.sdie (s.ctx v.x).info.lkey = none → v.need ≤ d.room →
      (s.ctx v.x).opn.used < 1024 →
      ∃ t m, exec (.poolGrant die) s = .next t ∧ t.mem = s.mem ∧ (t.sched die).waits = rest ∧ (t.sched die).pool + v.need = d.pool ∧
        (t.sched die).ids = d.ids + 1 ∧ (t.ctx v.x).wait = .none ∧ (t.ctx v.x).arch.rs w.d.idx.toNat = BitVec.ofNat 64 (launchId die d.ids) ∧
        (t.ctx v.x).arch.full (.s w.d.idx.toNat) = true ∧
        (t.ctx v.x).opn.msgs = (s.ctx v.x).opn.msgs ++ [.launch ⟨launchId die d.ids, 0, v.need, (s.ctx v.x).info.sdie, (s.ctx v.x).info.lkey⟩
          (schedBox die) m]) ∧
    (∀ v u w l, d.waits = [v, u] → u ≠ v → s.frozen = [] → (s.ctx v.x).life = .live → d.room < v.need - s.reserveFor die (s.ctx v.x) v.need →
      u.x.die = die → (s.ctx u.x).life = .live → w.d.cls = 0 → w.d.idx ≠ 0 → w.d.idx.toNat < 64 →
      (s.ctx u.x).waitingLaunch (s.cell u.x.ck) = some w → (s.ctx u.x).info.sdie = die → s.launch? die (s.ctx u.x).info.lkey = some l →
      l.ended = false → l.key = (s.ctx u.x).info.lkey → 0 < u.need → u.need ≤ l.reserve → (s.ctx u.x).opn.used < 1024 →
      ∃ t m l', exec (.poolGrant die) s = .next t ∧ t.mem = s.mem ∧ (t.sched die).waits = [v] ∧ (t.sched die).pool = d.pool ∧
        (t.ctx u.x).wait = .none ∧ (t.ctx u.x).arch.rs w.d.idx.toNat = BitVec.ofNat 64 (launchId die d.ids) ∧
        t.launch? die l.key = some l' ∧ l'.reserve + u.need = l.reserve ∧
        (t.ctx u.x).opn.msgs = (s.ctx u.x).opn.msgs ++ [.launch ⟨launchId die d.ids, u.need, 0, die, l.key⟩ (schedBox die) m]) ∧
    (∀ k l r, (s.launchEntries die)[k]? = some (r, .launch l.key) → s.launch? die l.key = some l → r.level = l.level → r.since = l.since →
      l.prioSet = none → r.begun = false → l.level < 7 → l.since + 2 ^ 16 ≤ s.clk.toNat →
      ∃ t l', exec (.entryAgeing die k) s = .next t ∧ t.mem = s.mem ∧ t.launch? die l.key = some l' ∧ l'.level = l.level + 1 ∧
        l'.since = s.clk.toNat) ∧
    (∀ adm key r l, d.waits ≠ [] → s.nextGrant die = none → d.progress + 2 ^ 20 ≤ s.clk.toNat →
      youngest (s.jobs die) = some (.launch die adm key r) → (s.jobFamily (.launch die adm key r)).2 = [(die, key)] →
      (∀ e ∈ s.scheds, e.2.graphs = []) → s.launch? die key = some l → l.crec = r → own r → l.node = none → recordOf l.parent = none →
      l.ended = false → s.unitsOf die key = [] → s.frozen = [] → s.pages = [] → l.insts.length ≤ l.inst →
      ∃ t, exec (.poolFault die) s = .next t ∧ memNum t.mem (r + 16) 1 = 0x0B ∧ memNum t.mem (r + 24) 8 = 4 ∧
        (t.sched die).progress = s.clk.toNat)

/-- The pager (R13, R241, R333 to R343, R387): a page load writes its words to the cells one after the other, the load of each pattern begun and sealed
(that a word is a move of its own is the model's choice: log 46); sealed cells get their units with the registers of R13, and a cell that has
rejected its words gives the window up. A descheduled page is frozen, or a page of lower level once the top entry could not place for 4,096 clocks;
it goes through the wave, the stop of its contexts and the readout of its image (its place and parts of its form are the model's choice: log 22), and
a restore
finds a window, loads the words of section 1 there like a page load, and then brings its contexts back as they stopped, while a rejected load or
another freeze keeps the image (DEDUCED, log 49); budgets are renewed each window (log 50) and set by the governor once a window. -/
def Obligations.PagerMoves : Prop :=
  ∀ (s : State), Sound s →
    (∀ k p l img, s.pages[k]? = some p → s.launch? p.sdie p.lkey = some l → l.key = p.lkey → p.thaw = false → p.loading = true →
      s.faulting (.sched p.sdie (launchJob l.key)) = false → (s.sched p.sdie).fatalOf (launchJob l.key) = none →
      s.readImage p.sdie (launchJob l.key) l.asid l.image = (s, .ok img) →
      (∀ cells o, p.skip = false → (img.loadOps p)[p.done]? = some (cells, o) →
        exec (.pageLoad k) s = .next ((cells.foldl (fun s ck => s.kilnOp ck o) s).modPage p.key (fun p => { p with done := p.done + 1 })) ∧
        ∀ ck, cells = [ck] → s.unusable ck = false →
          (o = .start → (s.cell ck).busy = false → ∃ t, exec (.pageLoad k) s = .next t ∧ (t.cell ck).st = 1 ∧ (t.cell ck).rcrc = 0 ∧
            (t.cell ck).cfg = [] ∧ ∀ h, memGet t.mem h = if tileKey ck 0 ≤ h ∧ h < tileKey ck (2 ^ 22) then 0 else memGet s.mem h) ∧
          (∀ r off v, o = .item r off v → r < 6 → (s.cell ck).st = 1 → ∃ t, exec (.pageLoad k) s = .next t ∧ t.mem = s.mem ∧
            (t.cell ck).word r off = v ∧ (t.cell ck).st = 1 ∧
            (t.cell ck).rcrc = BitVec.ofNat 32 (crcMore (s.cell ck).rcrc.toNat (toBytes 8 v.toNat))) ∧
          (∀ crc, o = .seal crc → (s.cell ck).st = 1 → ∃ t, exec (.pageLoad k) s = .next t ∧ t.mem = s.mem ∧
            (t.cell ck).st = if (s.cell ck).rcrc = crc then 2 else 3)) ∧
      (p.skip = true ∨ (img.loadOps p)[p.done]? = none → p.freeze = .no →
        (∀ e more, (img.cellsOf p).filter (fun e => (s.cell e.1).st != 2) = e :: more → p.again = false → p.tries = 0 →
          ∃ t l', exec (.pageLoad k) s = .next t ∧ (∀ g ∈ t.pages, g.key ≠ p.key) ∧ t.launch? p.sdie p.lkey = some l' ∧
            l'.barred = p.window :: p.barred ∧ l'.tries = 1) ∧
        (∀ u j cx, (∀ e ∈ img.cellsOf p, (s.cell e.1).st = 2) → p.skip = false → l.units p.copy p.ord = [(u, j, cx)] →
          p.cells.getD j 0 < 144 → cx < 4 → l.seof = false →
          ∃ t, exec (.pageLoad k) s = .next t ∧ t.mem = s.mem ∧
            let c := t.ctx { die := p.die, cell := p.cells.getD j 0, ctx := cx }
            c.life = .live ∧ c.info.unit = BitVec.ofNat 32 u ∧ c.info.launch = l.id ∧ c.opn.ts = l.ts0 ∧ c.arch.pos = .step ∧ c.arch.stack = [] ∧
            (∀ i, c.arch.rs i = 0) ∧ (∀ i, i < 32 → c.arch.rv i = 0) ∧ (∀ r, Reg.exists? r = true → c.arch.full r = true) ∧
            c.arch.tok.sb = 0 ∧ c.cause = 0 ∧ c.closed = none ∧ c.prods = []))) ∧
    (∀ die p, (s.pages.filter (fun p => p.die == die)).find? (fun p => p.freeze == .no && s.descheduled p) = some p →
      ∃ t, exec (.preemptFreeze die) s = .next t ∧ t.mem = s.mem ∧
        t.pages = s.pages.map (fun g => if g.key = p.key then { g with freeze := .asked, toDie := die } else g)) ∧
    (∀ die r e since p, let mine := s.pages.filter (fun p => p.die == die)
      (∀ g ∈ mine, g.freeze = .no ∧ s.descheduled g = false) → topEntry (s.cellsClass die) = some (r, e) →
      (s.sched die).blocked = some (e, since) →
      (s.clk.toNat < since + 4096 → exec (.preemptFreeze die) s = .next s) ∧
      (since + 4096 ≤ s.clk.toNat →
        s.victim (mine.filter (fun p => !p.sys && decide (s.pageLevel p < r.level) && (p.loading || (s.pageCtxs p).any (fun e => e.2.life != .empty))))
          = some p →
        ∃ t, exec (.preemptFreeze die) s = .next t ∧ t.mem = s.mem ∧
          t.pages = s.pages.map (fun g => if g.key = p.key then { g with freeze := .asked, toDie := die } else g))) ∧
    (∀ k p, s.pages[k]? = some p → p.freeze = .asked → p.loading = false →
      ∃ t, exec (.freezeWave k) s = .next t ∧ t.mem = s.mem ∧ t.pages[k]? = some { p with freeze := .wave }) ∧
    (∀ x, s.waved x.ck = true → (s.ctx x).frozen = false → (s.ctx x).life ≠ .empty →
      (s.ctx x).atStop = true ∨ (s.nextWait x).isSome = true →
      ∃ t, exec (.contextStop x) s = .next t ∧ t.mem = s.mem ∧ t.ctx x = { s.ctx x with frozen := true } ∧
        (t.cell x.ck).grant ≠ some x.ctx) ∧
    (∀ k p, s.pages[k]? = some p → p.freeze = .wave →
      (∀ e ∈ s.pageCtxs p, e.2.life ≠ .empty → e.2.frozen = true ∧ s.quiet e.1 e.2 = true) →
      (∀ c ∈ p.cells, (s.cell (cellKey p.die c)).queue = []) →
      ∃ t f, exec (.imageReadout k) s = .next t ∧ f ∈ t.frozen ∧ f.page.key = p.key ∧ f.st = 0 ∧ (∀ g ∈ t.pages, g.key ≠ p.key) ∧
        (s.sys.retiring = [] → ∀ c ∈ p.cells, (t.cell (cellKey p.die c)).ctxs = [] ∧ (t.cell (cellKey p.die c)).cfg = [] ∧
          (t.cell (cellKey p.die c)).st = 0) ∧
        (s.sys.retiring = [] → ∀ l, s.launch? p.sdie p.lkey = some l → let a := hbmKey (Config.freezeArea p.toDie p.key)
          memNum t.mem a 4 = 1 ∧ memNum t.mem (a + 8) 8 = l.image % 2 ^ 64 ∧ memNum t.mem (a + 16) 4 = p.ord % 2 ^ 32) ∧
        ∀ i c, p.cells[i]? = some c → i ∈ p.filled →
          ∃ z ∈ f.cells, z.idx = i ∧ z.accs = (s.cell (cellKey p.die c)).accs ∧
            ∀ e ∈ (s.cell (cellKey p.die c)).ctxs, e.2.life ≠ .empty → e ∈ z.ctxs) ∧
    (∀ k f w l, s.frozen[k]? = some f → s.pages = [] → (s.sched f.die).out = false →
      (topEntry (s.cellsClass f.die)).map (fun e => e.2) = some (.frozen f.page.key) →
      s.launch? f.page.sdie f.page.lkey = some l → f.st = 0 →
      s.redirects f.die + (f.cells.map (fun c => c.ctxs.length)).foldl (· + ·) 0 ≤ 64 →
      s.pickWindow f.die (tab 16 (fun i => ((f.cells.find? (fun c => c.idx == i)).map (fun c => roleTiles (c.cfg.getD (4 * 2 ^ 24) 0).toNat)).getD 0))
        f.page.barred (fun _ => false) = some (w, false) →
      ∃ t p, exec (.restore k) s = .next t ∧ t.mem = s.mem ∧ t.frozen = s.frozen ∧ t.pages = [p] ∧ p.key = f.page.key ∧ p.cells = w.cells ∧
        p.die = f.die ∧ p.loading = true ∧ p.thaw = true ∧ p.done = 0 ∧ p.freeze = .no) ∧
    (∀ k p f, s.pages[k]? = some p → p.thaw = true → s.frozen.find? (fun f => f.page.key == p.key) = some f →
      let home (z : FrozenCell) : Nat := cellKey p.die (p.cells.getD z.idx 0)
      let kept (t : State) (tries : Nat) : Prop := (∀ g ∈ t.pages, g.key ≠ p.key) ∧
        ∃ g ∈ t.frozen, g.page.key = p.key ∧ g.cells = f.cells ∧ g.page.tries = tries
      (∀ ck o, (f.loadOps p)[p.done]? = some (ck, o) →
        exec (.pageLoad k) s = .next ((s.kilnOp ck o).modPage p.key (fun p => { p with done := p.done + 1 }))) ∧
      ((f.loadOps p)[p.done]? = none → p.freeze ≠ .no → ∃ t, exec (.pageLoad k) s = .next t ∧ kept t f.page.tries) ∧
      ((f.loadOps p)[p.done]? = none → p.freeze = .no →
        ((∃ z ∈ f.cells, (s.cell (home z)).st ≠ 2) → f.page.tries < 2 →
          ∃ t, exec (.pageLoad k) s = .next t ∧ kept t (f.page.tries + 1)) ∧
        (∀ z i c, f.cells = [z] → z.ctxs = [(i, c)] → (s.cell (home z)).st = 2 → i < 4 → f.watches = [] → c.life = .live → c.opn.void = false →
          c.closed = none → c.poolFault = false → p.cells.getD z.idx 0 < 144 →
          ∃ t, exec (.pageLoad k) s = .next t ∧ (∀ g ∈ t.frozen, g.page.key ≠ p.key) ∧ (∃ g ∈ t.pages, g.key = p.key ∧ g.loading = false) ∧
            (t.cell (home z)).accs = z.accs ∧ (t.cell (home z)).lists = z.lists ∧
            let c' := t.ctx (ctxAt (home z) i)
            c'.arch = c.arch ∧ c'.ports = c.ports ∧ c'.rings = c.rings ∧ c'.c = c.c ∧ c'.frozen = false ∧ c'.life = .live ∧ c'.opn.ts = c.opn.ts))) ∧
    (∀ k p, s.pages[k]? = some p →
      (p.win < s.clk.toNat / 1024 → ∃ t, exec (.budgetWindow k) s = .next t ∧ t.mem = s.mem ∧
        t.pages[k]? = some { p with taken := 0, win := s.clk.toNat / 1024 }) ∧
      (∀ b, s.sys.governor.get? p.key ≠ some (s.clk.toNat / 1024) → ∃ t, exec (.governorUpdate k b) s = .next t ∧ t.mem = s.mem ∧
        t.pages[k]? = some { p with budget := b } ∧ t.sys.governor.get? p.key = some (s.clk.toNat / 1024)))

/-! ### The host and the network -/

/-- A host window (R363, R364): bytes collect, each once or again, until all 64 are there; the message then joins the queue with the ASID of CTL, or is discarded
and ERR rises; the oldest sets out for the TARGET it was completed under, of whatever kind, and SENT rises once it is handed over there; a message
that its receiver does not take stays. A reply that a host sends to a scheduler is dropped there, which is the model's choice (log 41), as is that a
message on its way counts toward the 64 (log 51). A write to CTL discards what was partly collected. -/
def Obligations.HostWindows : Prop :=
  ∀ (win : Nat) (s : State), win < 4096 →
    let w := s.window win
    let rest (t : State) : Prop := t.mem = s.mem ∧ t.cells = s.cells ∧ ∀ v, v ≠ win → t.window v = s.window v
    (∀ off (bytes : List Byte), off + bytes.length ≤ 64 →
      let covers (i : Nat) : Bool := decide (off ≤ i ∧ i < off + bytes.length)
      let full : Prop := ∀ i, i < 64 → (w.valid.getLsbD i || covers i) = true
      let got (m : Msg) (i : Nat) : Prop := m.extractLsb' (8 * i) 8 = if covers i then bytes.getD (i - off) 0 else w.msg.extractLsb' (8 * i) 8
      ∃ t, exec (.hostMsgWrite win off bytes) s = .next t ∧ rest t ∧ t.transit = s.transit ∧
        (¬full → (t.window win).queue = w.queue ∧ (t.window win).err = w.err ∧ ∀ i, i < 64 →
          (t.window win).valid.getLsbD i = (w.valid.getLsbD i || covers i) ∧ got (t.window win).msg i) ∧
        (full →
          let held := w.queue.length + (s.transit.filter (fun u => u.src == windowBox win)).length
          let takes : Prop := w.ctl.getLsbD 32 = true ∧ (w.ctl.extractLsb' 12 4).toNat < 7 ∧ held < 64 ∧ s.sys.started = true
          (t.window win).valid = 0 ∧
          (takes → ∃ m, (t.window win).queue = w.queue ++ [(m, w.ctl)] ∧ (t.window win).err = w.err ∧ m.extractLsb' 48 16 = w.ctl.extractLsb' 16 16 ∧
            ∀ i, i < 64 → i ≠ 6 → i ≠ 7 → got m i) ∧
          (w.ctl.getLsbD 32 = false ∨ 7 ≤ (w.ctl.extractLsb' 12 4).toNat ∨ 64 ≤ w.queue.length →
            (t.window win).queue = w.queue ∧ (t.window win).err = w.err + 1))) ∧
    (∀ m ctl more, w.queue = (m, ctl) :: more → s.windowTransit win = none →
      ∃ t, exec (.windowHandover win) s = .next t ∧ rest t ∧ t.window win = { w with queue := more } ∧
        t.transit = s.transit ++ [{ src := windowBox win, priv := ctl.getLsbD 33, box := (ctl.extractLsb' 0 16).toNat, m := m }]) ∧
    (∀ k u, s.windowTransit win = some k → s.transit[k]? = some u → boxOk u.box = true → fld u.box 15 12 = 2 →
      let b := s.boxes.getD u.box {}
      b.out = false → s.sys.dies.getD (fld u.box 11 10) true = true → refusal 2 u.m = none →
      (b.qs.getD (u.m.extractLsb' 16 2).toNat []).length < 64 →
      ∃ t, exec (.windowHandover win) s = .next t ∧ rest t ∧ t.window win = { w with sent := w.sent + 1 } ∧ t.transit = dropIdx s.transit k ∧
        (t.boxes.getD u.box {}).qs.getD (u.m.extractLsb' 16 2).toNat [] = b.qs.getD (u.m.extractLsb' 16 2).toNat [] ++
          [{ m := u.m, src := u.src, priv := u.priv, seq := b.seq, free := u.m.getLsbD 8, lg := u.lg, launch := u.launch, node := u.node }]) ∧
    (∀ k u, s.windowTransit win = some k → s.transit[k]? = some u → fld u.box 15 12 = 3 →
      let die := fld u.box 11 10
      let d := s.sched die
      let sent (t : State) : Prop := rest t ∧ t.window win = { w with sent := w.sent + 1 } ∧ t.transit = dropIdx s.transit k
      (u.m.extractLsb' 0 8 = 0x7F → ∃ t, exec (.windowHandover win) s = .next t ∧ sent t ∧ t.scheds = s.scheds) ∧
      (boxOk u.box = true → d.out = false → s.sys.dies.getD die true = true → refusal 3 u.m = none → d.queue.length < 64 → s.schedWaits die u = false →
        ∃ t, exec (.windowHandover win) s = .next t ∧ sent t ∧ t.sched die = { d with queue := d.queue ++
          [{ m := u.m, src := u.src, priv := u.priv, free := u.m.getLsbD 8, lg := u.lg, launch := u.launch, node := u.node }] })) ∧
    (∀ k u, s.windowTransit win = some k → s.transit[k]? = some u → (fld u.box 15 12 ≠ 3 ∨ u.m.extractLsb' 0 8 ≠ 0x7F) →
      (s.deliver u = none → ∃ t, exec (.windowHandover win) s = .next t ∧ t.mem = s.mem ∧ t.host = s.host ∧ t.boxes = s.boxes ∧
        t.scheds = s.scheds ∧ t.samplers = s.samplers ∧ t.cells = s.cells ∧ t.transit.length = s.transit.length) ∧
      (∀ v, s.deliver u = some v → ∃ t, exec (.windowHandover win) s = .next t ∧ t.mem = v.mem ∧ t.boxes = v.boxes ∧ t.scheds = v.scheds ∧
        t.samplers = v.samplers ∧ t.cells = v.cells ∧ t.window win = { v.window win with sent := (v.window win).sent + 1 } ∧
        t.transit = dropIdx s.transit k ++ v.transit.drop s.transit.length)) ∧
    (∀ v : BitVec 64, s.sys.started = true → ∃ t, exec (.ctlWrite win v) s = .next t ∧ rest t ∧ t.transit = s.transit ∧
      t.window win = { w with valid := 0, ctl := v.setWidth 46 })

/-- What else passes over the host link (R362, R365, R366): a message to a window goes to its receive ring, or waits for room, or comes back with NORECV where there
is no ring, and may raise the MSI-X message of the window's vector; BAR 2 reads and writes HBM, or answers Unsupported Request; a load part or
an atomic at host memory gives its data, or all ones in error; registers take their RW bits. That the low bits of RBASE read zero and what becomes
of a BAR 2 access that crosses into no HBM are the model's choices (log 51), so are the order in which an atomic settles the loads before it
(log 23) and the layout and reset of the MSI-X table (log 84). -/
def Obligations.HostAccesses : Prop :=
  ∀ (s : State), Sound s →
    (∀ k u, s.transit[k]? = some u → fld u.box 15 12 = 7 → (∀ v ∈ s.transit.take k, v.src ≠ u.src ∨ v.via ≠ u.via ∨ v.box ≠ u.box) →
      let n := fld u.box 11 0
      let w := s.window n
      let size := w.rsize.toNat
      (size = 0 → fld (u.m.toNat) 39 24 ≠ 0xFFFF → u.m.extractLsb' 0 8 ≠ 0x7F → u.box < 2 ^ 16 → ∃ t r, exec (.hostRingWrite k) s = .next t ∧ t.mem = s.mem ∧
        t.transit = dropIdx s.transit k ++ [{ src := u.box, priv := false, box := fld (u.m.toNat) 39 24, m := r, node := u.node }] ∧
        r.extractLsb' 0 8 = 0x7F ∧ r.extractLsb' 8 8 = 0x0A) ∧
      (size ≠ 0 → size < (w.rtail - w.rhead).toNat + 64 → exec (.hostRingWrite k) s = .next s) ∧
      (size ≠ 0 → (w.rtail - w.rhead).toNat + 64 ≤ size →
        let a := hostKey (w.rbase.toNat / 64 * 64 + w.rtail.toNat % size)
        ∃ t, exec (.hostRingWrite k) s = .next t ∧ t.transit = dropIdx s.transit k ∧ memNum t.mem a 64 = u.m.toNat ∧
          (∀ h, (h < a ∨ a + 64 ≤ h) → memGet t.mem h = memGet s.mem h) ∧ t.window n = { w with rtail := w.rtail + 64 } ∧
          (let vec := (w.ctl.extractLsb' 34 11).toNat
           (w.ctl.getLsbD 45 = false → t.host.msix = s.host.msix ∧ t.host.pend = s.host.pend) ∧
           (w.ctl.getLsbD 45 = true → vec ∉ s.host.unmasked → t.host.msix = s.host.msix ∧ vec ∈ t.host.pend) ∧
           (w.ctl.getLsbD 45 = true → vec ∈ s.host.unmasked →
             t.host.msix = s.host.msix ++ [s.host.table.getD vec (0, 0)] ∧ t.host.pend = s.host.pend)))) ∧
    (∀ addr len (d : List Byte), 0 < len → d.length = len → addr + len ≤ 2 ^ s.host.barLg →
      let pa := s.host.hboff.toNat + addr
      let good : Prop := pa + len ≤ 0x9000000000 ∧ ∀ i, i < len → s.paOk (pa + i) = true
      let bad : Prop := ∃ i, i < len ∧ (0x9000000000 ≤ pa + i ∨ s.paOk (pa + i) = false)
      (good → exec (.hostHbmAccess addr len none) s = .next { s with host := { s.host with answer := some (memGets s.mem (hbmKey pa) len) } } ∧
        ∃ t, exec (.hostHbmAccess addr len (some d)) s = .next t ∧ memGets t.mem (hbmKey pa) len = d ∧
          ∀ h, (h < hbmKey pa ∨ hbmKey pa + len ≤ h) → memGet t.mem h = memGet s.mem h) ∧
      (bad → ∀ x, (x = none ∨ x = some d) → exec (.hostHbmAccess addr len x) s = .next { s with host := { s.host with answer := none } })) ∧
    (∀ k x id ty p q i, s.host.reqs[k]? = some (.load x id) → (s.ctx x).prods = [p] → p.id = id → p.dst = .s i → p.kind = .load ty false [q] [] →
      isHostKey q.home = true → q.early = none → q.l1 = false → q.off = 0 → q.len = tyBits ty / 8 → q.fwd = List.replicate q.len none →
      0 < i → i < 64 → (ty = 2 ∨ ty = 3) →
      let gives (bad : Bool) (v : Nat) : Prop := ∃ t, exec (.hostRequestCompletion k bad) s = .next t ∧ t.mem = s.mem ∧
        t.host.reqs = dropIdx s.host.reqs k ∧ (t.ctx x).prods = [] ∧ (t.ctx x).arch.rs i = extTy ty v ∧ (t.ctx x).arch.full (.s i) = true
      gives false (memNum s.mem q.home q.len) ∧ gives true (2 ^ (8 * q.len) - 1)) ∧
    (∀ k x id op ty home a b p i asid va, s.host.reqs[k]? = some (.atomic x id op ty home a b) → (s.ctx x).prods = [p] → p.id = id → p.dst = .s i →
      p.kind = .hostAtomic home (tyBits ty / 8) asid va →
      0 < i → i < 64 → (ty = 2 ∨ ty = 3) → op ≤ 0xA →
      let n := tyBits ty / 8
      let old := memNum s.mem home n
      (∃ t, exec (.hostRequestCompletion k false) s = .next t ∧ t.host.reqs = dropIdx s.host.reqs k ∧ (t.ctx x).arch.rs i = extTy ty old ∧
        (t.ctx x).arch.full (.s i) = true ∧ (∀ v, atomicNew op ty old a.toNat b.toNat = some v → memNum t.mem home n = v % 2 ^ (8 * n)) ∧
        (atomicNew op ty old a.toNat b.toNat = none → SameMemory s t) ∧
        ∀ h, (h < home ∨ home + n ≤ h) → memGet t.mem h = memGet s.mem h) ∧
      (∃ t, exec (.hostRequestCompletion k true) s = .next t ∧ t.mem = s.mem ∧ (t.ctx x).arch.rs i = extTy ty (2 ^ (8 * n) - 1) ∧
        (t.ctx x).arch.full (.s i) = true)) ∧
    (∀ n (v : Word), n < 4096 → s.sys.started = true →
      let takes (r : HostReg) (w : Window) : Prop := ∃ t, exec (.registerWrite r v) s = .next t ∧ t.window n = w ∧
        { t with host := { t.host with wins := s.host.wins } } = s ∧ ∀ m, m ≠ n → t.window m = s.window m
      takes (.rbase n) { s.window n with rbase := v } ∧ takes (.rhead n) { s.window n with rhead := v.setWidth 32 } ∧
      (v.toNat % 64 = 0 → v.toNat ≤ 2 ^ 24 → takes (.rsize n) { s.window n with rsize := v.setWidth 32 }) ∧
      exec (.registerWrite (.readOnly n) v) s = .next s) ∧
    (∀ v : Word, s.host.barLg ≤ 40 → ∃ t, exec (.registerWrite .hbOff v) s = .next t ∧ { t with host := { t.host with hboff := s.host.hboff } } = s ∧
      t.host.hboff.toNat = v.toNat / 2 ^ s.host.barLg * 2 ^ s.host.barLg) ∧
    (∀ v : Word, 30 ≤ v.toNat → v.toNat ≤ 40 → ∃ t, exec (.registerWrite .barSize v) s = .next t ∧
      { t with host := { t.host with barLg := s.host.barLg, hboff := s.host.hboff } } = s ∧ t.host.barLg = v.toNat ∧
      t.host.hboff.toNat = s.host.hboff.toNat / 2 ^ v.toNat * 2 ^ v.toNat) ∧
    (∀ n (v : Word), n < 2048 →
      let entry (h : HostLink) : Word × BitVec 32 := h.table.getD n (0, 0)
      let sets (r : HostReg) (e : Word × BitVec 32) : Prop := ∃ t, exec (.registerWrite r v) s = .next t ∧
        { t with host := { t.host with table := s.host.table } } = s ∧ entry t.host = e ∧
        ∀ m, m ≠ n → t.host.table.getD m (0, 0) = s.host.table.getD m (0, 0)
      sets (.vectorAddr n) (v, (entry s.host).2) ∧ sets (.vectorData n) ((entry s.host).1, v.setWidth 32)) ∧
    (∀ n (v : Word), n < 2048 → ∃ t, exec (.registerWrite (.vectorMask n) v) s = .next t ∧
      (v.getLsbD 0 = true → n ∉ t.host.unmasked ∧ t.host.msix = s.host.msix ∧ t.host.pend = s.host.pend) ∧
      (v.getLsbD 0 = false → n ∈ t.host.unmasked ∧ n ∉ t.host.pend ∧
        t.host.msix = s.host.msix ++ (if n ∈ s.host.pend then [s.host.table.getD n (0, 0)] else []))) ∧
    (∀ die off (v : Word), die < 4 → off % 8 = 0 → off + 8 ≤ 2 ^ 24 → ∃ t, exec (.registerWrite (.block die off) v) s = .next t ∧
      ∀ h, memGet t.mem h = if dieKey die off ≤ h ∧ h < dieKey die off + 8 then
        (memGet s.mem h &&& ownBits h) ||| (BitVec.ofNat 8 (v.toNat / 2 ^ (8 * (h - dieKey die off))) &&& ~~~(ownBits h))
        else memGet s.mem h)

/-- Commands to a peer and collectives (R370 to R373, R375): the peer's entry is checked before any packet leaves, bytes leave as they are read, and
the command is over when every packet is acknowledged; a refusal ends it with REMOTE, the end of retransmission with TIMEOUT, no valid peer
with NOPEER, a record that its ring cannot hold with RING and the ring's word, a bad ring with BADPARAM, a subtraction that clamped shows as UNDER;
a command with ORD = 1 has its packets placed in order; a collective gives each rank the tree's value over the ranks' elements, for every reduction and group size, alone its own bytes, and
ends with BADPARAM where the ranks disagree. Arrays and tables are in die scratch; bits that only the device writes stay (R7). What counts as a
valid entry is log 53; what a command that ends early has delivered, and that an NGET's bytes are written after their packet's answer, are log 54:
the model's choices. -/
def Obligations.TransportCommands : Prop :=
  ∀ (s : State) (c : Cmd), Sound s → s.eng.1 = 0x6000 → s.cmd? 0x6000 s.eng.2 = some c → c.started = true → c.phase = 0 → c.bar = false →
    s.faulting (.engine 0x6000 c.seq) = false →
    let q := s.eng.2
    let i : Instr := if c.opc = 0x40 then .nput c.m else if c.opc = 0x41 then .nget c.m else if c.opc = 0x42 then .npost c.m else .ncoll c.m
    let takes (h : Nat) (b : Byte) : Byte := (memGet s.mem h &&& ownBits h) ||| (b &&& ~~~(ownBits h))
    let becomes (i : Instr) (c' : Cmd) : Prop := ∃ t, exec i s = .next t ∧ t.mem = s.mem ∧ t.cmd? 0x6000 q = some c'
    (0x40 ≤ c.opc → c.opc ≤ 0x42 → c.checked = false → c.headerWordsBad = false →
      ∀ d off, addrWord (memNum s.mem (dieKey 0 0xFFF000) 8) = some (.die d off) → off % 64 = 0 → off + 2 ^ 17 ≤ 2 ^ 24 →
        let e := memNum s.mem (dieKey d (off + 32 * c.netPeer)) 32
        (bit e 152 = true → fld e 159 153 = 0 → fld e 255 176 = 0 → becomes i { c with checked := true }) ∧
        (bit e 152 = false → becomes i { c with phase := 3, status := 0x11, faddr := 0 })) ∧
    (∀ d off, c.checked = true → (c.opc = 0x40 ∨ c.opc = 0x42) → addrWord c.netLocal = some (.die d off) → off + c.netLen ≤ 2 ^ 24 →
      c.held.length < c.netLen →
      let a := off + c.held.length
      becomes i { c with held := c.held ++ memGets s.mem (dieKey d a) (min (c.netLen - c.held.length) (64 - a % 64)) }) ∧
    (∀ d off p k x, c.checked = true → c.opc = 0x41 → addrWord c.netLocal = some (.die d off) → off + c.netLen ≤ 2 ^ 24 → c.cur = some (p, k, x) →
      4096 * k + c.off + c.held.length ≤ c.netLen →
      let a := off + 4096 * k + c.off
      let n := min c.held.length (64 - a % 64)
      (c.held ≠ [] → ∃ t, exec (.nget c.m) s = .next t ∧ t.cmd? 0x6000 q = some { c with bytes := c.bytes + n, held := c.held.drop n, off := c.off + n } ∧
        ∀ h, memGet t.mem h = if dieKey d a ≤ h ∧ h < dieKey d a + n then takes h (c.held.getD (h - dieKey d a) 0) else memGet s.mem h) ∧
      (c.held = [] → c.blk + 1 ≠ (c.netLen + 4095) / 4096 → becomes (.nget c.m) { c with cur := none, pb := c.pb ||| 2 ^ k, blk := c.blk + 1 }) ∧
      (c.held = [] → c.blk + 1 = (c.netLen + 4095) / 4096 →
        becomes (.nget c.m) { c with cur := none, pb := c.pb ||| 2 ^ k, blk := c.blk + 1, bytes := c.netLen, phase := 3 })) ∧
    (s.netDown = false → c.checked = true → c.cur = none →
      let ack (a : NetAck) (c' : Cmd) : Prop := ∃ t, exec (.transportAcknowledgement q a) s = .next t ∧ t.mem = s.mem ∧ t.cmd? 0x6000 q = some c'
      (∀ k, c.opc = 0x40 ∨ c.opc = 0x42 → k < (c.netLen + 4095) / 4096 → bit c.pb k = false → min (4096 * (k + 1)) c.netLen ≤ c.held.length →
        c.m.getLsbD 364 = false →
        (c.blk + 1 < (c.netLen + 4095) / 4096 → ack (.placed k []) { c with pb := c.pb ||| 2 ^ k, blk := c.blk + 1 }) ∧
        (c.blk + 1 = (c.netLen + 4095) / 4096 →
          ack (.placed k []) { c with pb := c.pb ||| 2 ^ k, blk := c.blk + 1, bytes := c.netLen, phase := 3 }) ∧
        (∃ n, n ≤ c.netLen ∧ ack (.refused k) { c with bytes := n, phase := 3, status := 0x10, faddr := 0 }) ∧
        (c.m.getLsbD 474 = true → c.status = 0 → c.blk + 1 < (c.netLen + 4095) / 4096 →
          ack (.clamped k []) { c with pb := c.pb ||| 2 ^ k, blk := c.blk + 1, status := 7 }) ∧
        (c.m.getLsbD 474 = false → exec (.transportAcknowledgement q (.clamped k [])) s = .next s) ∧
        (c.opc = 0x42 → c.blk = 0 →
          ack (.rejected k true) { c with phase := 3, status := 5, faddr := c.op 384 24 } ∧
          ack (.rejected k false) { c with phase := 3, status := 2, faddr := 0 })) ∧
      (∀ k data, c.opc ≠ 0x43 → c.m.getLsbD 364 = true → k ≠ c.blk → exec (.transportAcknowledgement q (.placed k data)) s = .next s) ∧
      (∀ (data : List Byte) k, c.opc = 0x41 → k < (c.netLen + 4095) / 4096 → bit c.pb k = false → c.m.getLsbD 364 = false →
        data.length = min 4096 (c.netLen - 4096 * k) → ack (.placed k data) { c with cur := some (0, k, 0), held := data, off := 0 }) ∧
      (c.opc ≠ 0x43 → c.opc ≠ 8 → c.bytes ≤ c.netLen → ∃ t n, exec (.timeout q) s = .next t ∧ t.mem = s.mem ∧ n ≤ c.netLen ∧
        t.cmd? 0x6000 q = some { c with bytes := n, phase := 3, status := 0x12, faddr := 0 }) ∧
      (c.opc = 0x43 → c.fresh = true → c.aux ≠ 1 → ack (.disagree c.blk) { c with phase := 3, status := 2, faddr := 0 }) ∧
      (∀ (srcs : List (List Byte)), c.opc = 0x43 → c.fresh = true → c.held.length = c.netLen → c.aux = srcs.length → 1 < c.aux → c.run < c.aux →
        (∀ b ∈ srcs, b.length = c.netLen) → srcs.getD c.run [] = c.held → ∃ r : List Byte, r.length ≤ c.netLen ∧
          ack (.ranks c.blk srcs) { c with fresh := false, held := r } ∧
          ∀ size j (tree : Nat → Nat → Nat), reduceSize c.netRty = some size → c.netLen % size = 0 → c.aux ≤ 4096 → size * j < c.netLen →
            let op (a b : Nat) : Nat := match c.netRty with
              | 0 => a
              | 1 => (a + b) % 2 ^ 32
              | 2 => f32add a b
              | 3 => fminmax .f32 true a b
              | 4 => fminmax .f32 false a b
              | 5 => faddc .bf16 .rne false a b
              | _ => if sgn 32 a < sgn 32 b then b else a
            (∀ lo, tree lo 1 = ofBytes (((srcs.getD lo []).drop (size * j)).take size)) →
            (∀ lo n i, 2 ^ i < n → n ≤ 2 ^ (i + 1) → tree lo n = op (tree lo (2 ^ i)) (tree (lo + 2 ^ i) (n - 2 ^ i))) →
            ofBytes ((r.drop (size * j)).take size) = tree 0 c.aux % 2 ^ (8 * size))) ∧
    (c.opc = 0x43 → c.checked = true → c.fresh = true → c.aux = 1 → c.netLen ≤ c.held.length → becomes (.ncoll c.m) { c with fresh := false }) ∧
    (∀ d off, c.opc = 0x43 → c.checked = true → c.fresh = false → addrWord c.netDst = some (.die d off) → off + c.bytes + c.held.length ≤ 2 ^ 24 →
      let a := off + c.bytes
      let n := min c.held.length (64 - a % 64)
      (c.held ≠ [] → ∃ t, exec (.ncoll c.m) s = .next t ∧ t.cmd? 0x6000 q = some { c with bytes := c.bytes + n, held := c.held.drop n } ∧
        ∀ h, memGet t.mem h = if dieKey d a ≤ h ∧ h < dieKey d a + n then takes h (c.held.getD (h - dieKey d a) 0) else memGet s.mem h) ∧
      (c.held = [] → becomes (.ncoll c.m) { c with phase := 3 }))

/-- Packets from peers and congestion entries (R368, R370 to R372, R374). A packet of a known peer is placed whole under that peer's INASID, block by
block; one of no known peer, with no table, beyond the address space or that no translation grants is counted as refused and changes nothing else; a
packet that asks for bytes counts as acknowledged; its bytes subtract from its barrier object, UNDER counting a subtraction that clamps. A record is
placed at the ring's TAIL with its sender's index and its length; TAIL moves past it once its last packet is there. A congestion entry is one store on
every die, at most once in 1,024 clocks. What is written there is outside the fields that only the device writes (DEDUCED, log 85). That a record for which the ring has no room is not taken yet, that a ring takes one record at a time, how
acknowledgements and marks are counted and that entries are unbuffered are the model's choices (log 55). -/
def Obligations.PacketsAndCongestion : Prop :=
  ∀ (s : State), Sound s → s.netDown = false →
    let same (t : State) (lo hi : Nat) : Prop := ∀ h, (h < lo ∨ hi ≤ h) → memGet t.mem h = memGet s.mem h
    (∀ (p : Packet), packetOk p = true → tableOk (memNum s.mem (dieKey 0 0xFFF000) 8) = false → ∃ t, exec (.inboundPacket p) s = .next t ∧
      memNum t.mem (dieKey 0 0xFFF038) 4 = (memNum s.mem (dieKey 0 0xFFF038) 4 + 1) % 2 ^ 32 ∧
      same t (dieKey 0 0xFFF038) (dieKey 0 0xFFF038 + 4)) ∧
    (∀ (p : Packet) d off, addrWord (memNum s.mem (dieKey 0 0xFFF000) 8) = some (.die d off) → off % 64 = 0 → packetOk p = true →
      let n := memNum s.mem (dieKey 0 0xFFF008) 2
      off + 32 * n ≤ 2 ^ 24 →
      let e (i : Nat) : Nat := memNum s.mem (dieKey d (off + 32 * i)) 32
      let hits (i : Nat) : Prop := bit (e i) 152 = true ∧ fld (e i) 159 153 = 0 ∧ fld (e i) 255 176 = 0 ∧ fld (e i) 127 0 = p.fa.toNat ∧
        fld (e i) 151 128 = p.job.toNat
      let len := if p.kind = .put then p.data.length else p.len
      let l := parts p.addr.toNat len
      let refuses : Prop := ∃ t, exec (.inboundPacket p) s = .next t ∧
        memNum t.mem (dieKey 0 0xFFF038) 4 = (memNum s.mem (dieKey 0 0xFFF038) 4 + 1) % 2 ^ 32 ∧
        same t (dieKey 0 0xFFF038) (dieKey 0 0xFFF038 + 4)
      ((∀ i, i < n → ¬hits i) → refuses) ∧
      (∀ i, i < n → hits i → (∀ j, j < i → ¬hits j) →
        let asid := fld (e i) 175 160
        let wr := p.kind == .put
        let granted (pas : List Nat) (m : Nat) : Prop := m ≤ l.length ∧ pas.length = m ∧ ∀ j, j < m →
          s.translate netParty asid (l.getD j (0, 0, 0)).1 wr false = (s, .ok (pas.getD j 0)) ∧ isHostKey (paKey (pas.getD j 0)) = false
        (p.kind ≠ .post → 2 ^ 49 < p.addr.toNat + len → refuses) ∧
        (∀ pas m x, p.kind ≠ .post → m < l.length → granted pas m →
          s.translate netParty asid (l.getD m (0, 0, 0)).1 wr false = (s, .error x) → refuses) ∧
        (∀ pas, p.kind = .put → p.addr.toNat + len ≤ 2 ^ 49 → granted pas l.length → p.bar = none →
          let placed : List (Nat × Byte) := (List.range l.length).flatMap (fun j => (List.range (l.getD j (0, 0, 0)).2.1).map (fun k =>
            (paKey (pas.getD j 0) + k, p.data.getD ((l.getD j (0, 0, 0)).2.2 + k) 0)))
          ∃ t, exec (.inboundPacket p) s = .next t ∧ ∀ h, memGet t.mem h = match placed.reverse.find? (fun b => b.1 == h) with
            | some b => (memGet s.mem h &&& ownBits h) ||| (b.2 &&& ~~~(ownBits h))
            | none => memGet s.mem h) ∧
        (∀ pas, p.kind = .get → p.addr.toNat + len ≤ 2 ^ 49 → granted pas l.length → p.bar = none →
          let a := s.net.acks.getD i (0, 0)
          ∃ t more, exec (.inboundPacket p) s = .next t ∧ t.mem = s.mem ∧ more ≤ 1 ∧ t.net.acks.getD i (0, 0) = (a.1 + 1, a.2 + more)) ∧
        (∀ pa bd bo, p.kind = .put → p.addr.toNat + len ≤ 2 ^ 49 → l.length = 1 → granted [pa] 1 → paKey pa + len ≤ homeTag 1 →
          p.bar = some (bd, bo) → bo + 32 ≤ 2 ^ 24 → (∀ j, j < 32 → ownBits (dieKey bd bo + j) = 0) → (bd ≠ 0 ∨ bo + 32 ≤ 0xFFF000) →
          let o := dieKey bd bo
          let pend := memNum s.mem (o + 8) 4
          memNum s.mem (o + 4) 4 ≠ memNum s.mem o 4 →
          ∃ t, exec (.inboundPacket p) s = .next t ∧ memGets t.mem (paKey pa) len = p.data ∧ memNum t.mem (o + 8) 4 = pend - len ∧
            memNum t.mem (dieKey 0 0xFFF034) 4 = (memNum s.mem (dieKey 0 0xFFF034) 4 + (if pend < len then 1 else 0)) % 2 ^ 32) ∧
        (let k := dieKey p.ringDie (p.addr.toNat % 2 ^ 24)
         let base := memNum s.mem k 4
         let size := memNum s.mem (k + 4) 4
         let tail := memNum s.mem (k + 8) 4
         let recl := (8 + p.len + 63) / 64 * 64
         let used := (tail + 2 ^ 32 - memNum s.mem (k + 12) 4) % 2 ^ 32
         let at' (j : Nat) : Nat := dieKey p.ringDie (base + (tail + j) % size)
         let good : Prop := s.ringOk p.ringDie (p.addr.toNat % 2 ^ 24) = true ∧
           (p.addr.toNat % 2 ^ 24 + 32 ≤ base ∨ base + size ≤ p.addr.toNat % 2 ^ 24) ∧
           (∀ j, j < recl → ownBits (at' j) = 0) ∧ ∀ j, j < 4 → ownBits (k + 8 + j) = 0
         let word := toBytes 8 (p.len + i * 2 ^ 32)
         p.kind = .post → p.bar = none → s.net.posts = [] →
          (s.ringOk p.ringDie (p.addr.toNat % 2 ^ 24) = false ∨ size < used + recl → exec (.inboundPacket p) s = .next s) ∧
          (good → used + recl ≤ size → p.off = 0 → p.len ≤ 4096 → ∃ t, exec (.inboundPacket p) s = .next t ∧
            memNum t.mem (k + 8) 4 = (tail + recl) % 2 ^ 32 ∧ t.net.posts = [] ∧
            (∀ j, j < recl → memGet t.mem (at' j) = (word ++ p.data).getD j 0) ∧
            ∀ h, (∀ j, j < recl → h ≠ at' j) → (h < k + 8 ∨ k + 12 ≤ h) → memGet t.mem h = memGet s.mem h) ∧
          (good → used + recl ≤ size → p.off = 0 → 4096 < p.len → ∃ t, exec (.inboundPacket p) s = .next t ∧
            t.net.posts = [{ fa := p.fa, job := p.job, msg := p.msg, die := p.ringDie, off := p.addr.toNat % 2 ^ 24, start := tail, got := [0] }] ∧
            (∀ j, j < 8 + 4096 → memGet t.mem (at' j) = (word ++ p.data).getD j 0) ∧
            ∀ h, (∀ j, j < 8 + 4096 → h ≠ at' j) → memGet t.mem h = memGet s.mem h)) ∧
        (∀ r, s.net.posts = [r] → p.kind = .post → p.bar = none → r.fa = p.fa → r.job = p.job → r.msg = p.msg → r.die = p.ringDie →
          r.off = p.addr.toNat % 2 ^ 24 →
          (p.off ∈ r.got → exec (.inboundPacket p) s = .next s) ∧
          (p.off ∉ r.got → (∀ j, j < 4 → ownBits (dieKey r.die r.off + 8 + j) = 0) → r.got.length + 1 = (p.len + 4095) / 4096 → ∃ t, exec (.inboundPacket p) s = .next t ∧ t.net.posts = [] ∧
            memNum t.mem (dieKey r.die r.off + 8) 4 = (r.start + (8 + p.len + 63) / 64 * 64) % 2 ^ 32)))) ∧
    (∀ peer (v : BitVec 128),
      let off := memNum s.mem (dieKey 0 0xFFF030) 4 + 16 * peer
      let a := s.net.acks.getD peer (0, 0)
      (∀ d j, d < 4 → j < 16 → ownBits (dieKey d off + j) = 0) →
      peer < memNum s.mem (dieKey 0 0xFFF008) 2 → off % 16 = 0 → off + 16 ≤ 2 ^ 24 →
      (∀ at', s.net.wrote.get? peer = some at' → s.clk.toNat < at' + 1024 → exec (.congestionEntryWrite peer v) s = .next s) ∧
      (s.net.wrote.get? peer = none ∨ (∃ at', s.net.wrote.get? peer = some at' ∧ at' + 1024 ≤ s.clk.toNat) →
        ∃ t, exec (.congestionEntryWrite peer v) s = .next t ∧ t.net.wrote.get? peer = some s.clk.toNat ∧
          (∀ d, d < 4 → memNum t.mem (dieKey d off) 16 = v.toNat % 2 ^ 64 + a.2 % 2 ^ 32 * 2 ^ 64 + a.1 % 2 ^ 32 * 2 ^ 96) ∧
          ∀ h, (∀ d, d < 4 → (h < dieKey d off ∨ dieKey d off + 16 ≤ h)) → memGet t.mem h = memGet s.mem h))

/-! ### Start-up, service and update -/

/-- The start and the stop of the module (R377 to R379, R387): a reset keeps the host's memory and nothing else of memory but the FBOX of each die; where no
critical step is out of alternates the windows open and a record with the next START is in force beside the one before; a stack of HBM
starts on the path its entry names and goes down to the first that passes; a thermal trip ends all steps but a reset. That a reset writes FBOX and
leaves everything else of the device's memory as reset leaves it, that the record holds the service state, and what each alternate takes out, rest on
the model's readings (logs 60, 3 and 59); that a module with no copy in force starts every step on its main path and writes START 1 is the model's
choice (PRESUMED, log 7). A critical step none of whose paths from its first passes stops the start, at the first such step. -/
def Obligations.StartAndStop : Prop :=
  (∀ (fails : List (Nat × Nat)) (found : List StartFind) (s : State), Sound s →
    let old := (s.sys.inForce.map (fun r => r.2)).getD []
    let first (n : Nat) : Nat :=
      let e := recordStep old n
      if e % 4 = 1 then e / 4 % 4 else if e % 4 = 2 then e / 4 % 4 + 1 else 0
    let stops (n : Nat) : Prop := (n ≤ 7 ∨ n = 28 ∨ 30 ≤ n) ∧
      ∀ p, first n ≤ p → p ≤ (if n = 5 ∨ n = 6 then 1 else if n = 28 then 2 else 0) → (n, p) ∈ fails
    ∃ t, exec (.moduleReset fails found) s = .next t ∧ t.clk = 0 ∧ t.agenda = [] ∧ t.transit = [] ∧ t.pages = [] ∧ t.host = {} ∧
      t.sys.stopped = false ∧
      (∀ h, isHostKey h = true → memGet t.mem h = memGet s.mem h) ∧
      ((∀ n, 1 ≤ n → n ≤ 32 → ¬stops n) → t.sys.broken = none) ∧
      (∀ n, 1 ≤ n → n ≤ 32 → stops n → (∀ m, 1 ≤ m → m < n → ¬stops m) → t.sys.broken = some n) ∧
      (t.sys.broken = none →
        t.sys.started = true ∧ t.sys.tripped = false ∧
        (∀ h, isHostKey h = false → memGet t.mem h = (List.range 4).foldl (fun (b : Byte) d =>
          if h = dieKey d (tcb + 8) + 1 then BitVec.ofNat 8 (0x10 + 4 * d) else b) 0) ∧
        (recordStart old + 1 < 2 ^ 64 →
          ∃ b r, t.sys.inForce = some (b, r) ∧ recordStart r = (if s.sys.inForce = none then 1 else recordStart old + 1) ∧
            ∀ b' r', s.sys.inForce = some (b', r') → b = !b' ∧ (if b' then t.sys.rec1 else t.sys.rec0) = r') ∧
        (∀ st, st < 12 → (old = [] ∨ (bit (ofBytes ((old.drop 138).take 2)) st = true ∧ ofBytes ((old.drop (140 + st)).take 1) ≤ 2)) →
          ∀ p, first (12 + st) ≤ p → p ≤ 3 → (p < 3 → (12 + st, p) ∉ fails) → (∀ p', first (12 + st) ≤ p' → p' < p → (12 + st, p') ∈ fails) →
            t.sys.rates.getD st 0 = p ∧ t.sys.hbms.getD st true = decide (p < 3))) ∧
      (∀ n, t.sys.broken = some n → t.sys.started = false ∧ t.sys.rec0 = s.sys.rec0 ∧ t.sys.rec1 = s.sys.rec1 ∧
        ∀ win v, exec (.ctlWrite win v) t = .next t)) ∧
  (∀ s : State, ∃ t, exec .thermalTrip s = .next t ∧ Stopped t ∧ t.sys.tripped = true ∧
    { t with sys := s.sys } = s) ∧
  (∀ s : State, Stopped s → isReset s.takeMove.1 = false → step s = .fault .thermalStop)

/-- The management commands (R382 to R386), started and with a valid header, their arrays in die scratch: what each does to the parts in service, to the
record, to the firmware and to memory. A cell without a page is retired at once, a spare of its die that is held, in service and not fused off takes
over with SPARE := 0, and the record in force says what is out. The forms of these commands (log 56), when a cell leaves and
when the record is rewritten (log 57), the steps of MDIE (log 58), the firmware's size and keys, the identity and its nonces (log 61), and the bytes of
a record that MRECORD leaves out (log 62) are the model's choices; that bits which only the device writes stay is log 85. -/
def Obligations.ManagementCommands : Prop :=
  ∀ (s : State) (c : Cmd) (d0 : Nat), Sound s → d0 < 4 →
    let box := coreBox d0 0
    let q := s.eng.2
    s.eng.1 = box → s.cmd? box q = some c → c.started = true → c.phase = 0 → c.bar = false → c.cw = false →
    s.faulting (.engine box c.seq) = false →
    let done (t : State) : Prop := t.cmd? box q = some { c with dirty := none, phase := 3 }
    let ends (i : Instr) (n : Nat) : Prop := ∃ t, exec i s = .next t ∧ t.mem = s.mem ∧ t.sys = s.sys ∧
      t.cmd? box q = some { c with phase := 3, status := n, faddr := 0 }
    (c.opc = 0x60 → s.pages = [] →
      let die := c.op 264 2
      let ck := cellKey die (c.op 256 8)
      let tile := c.op 266 5
      (c.checked = false → c.m.getLsbD 271 = false → c.op 256 8 < 144 → (s.cell ck).retired = false →
        let spare (x : Nat) : Prop := x < 144 ∧ x ≠ c.op 256 8 ∧ (s.cell (cellKey die x)).spare = true ∧ (s.cell (cellKey die x)).retired = false ∧
          fusedOff (cellKey die x) = false
        ∃ t, exec (.mretire c.m) s = .next t ∧ t.mem = s.mem ∧ t.cell ck = { s.cell ck with retired := true } ∧
          t.cmd? box q = some { c with checked := true } ∧
          ((∀ x, ¬spare x) → ∀ k, k ≠ ck → t.cell k = s.cell k) ∧
          ((∃ x, spare x) → ∃ x, spare x ∧ t.cell (cellKey die x) = { s.cell (cellKey die x) with spare := false } ∧
            ∀ k, k ≠ ck → k ≠ cellKey die x → t.cell k = s.cell k) ∧
          ∀ b r, s.sys.inForce = some (b, r) → ∃ r', t.sys.inForce = some (b, r') ∧ r'.take 136 = r.take 136 ∧
            bit (ofBytes ((r'.drop (160 + 18 * die + c.op 256 8 / 8)).take 1)) (c.op 256 8 % 8) = true) ∧
      (c.checked = false → c.m.getLsbD 271 = true → tile < 24 → bit (s.cell ck).tilesOut tile = false →
        ∃ t, exec (.mretire c.m) s = .next t ∧ t.mem = s.mem ∧ bit (t.cell ck).tilesOut tile = true ∧ (t.cell ck).tiles = (s.cell ck).tiles - 1 ∧
          (∀ k, k ≠ ck → t.cell k = s.cell k) ∧ t.cmd? box q = some { c with checked := true }) ∧
      (c.checked = true → c.m.getLsbD 271 = false → (s.cell ck).retired = true → ∃ t, exec (.mretire c.m) s = .next t ∧ t.mem = s.mem ∧ done t)) ∧
    (c.opc = 0x61 →
      let die := c.op 256 2
      (c.checked = false → (∀ e, e < 4 → e ≠ die → s.sys.dies.getD e true = false) → ends (.mdie c.m) 2) ∧
      (c.checked = false → (∃ e, e < 4 ∧ e ≠ die ∧ s.sys.dies.getD e true = true ∧ (s.sched e).out = false) →
        ∃ t, exec (.mdie c.m) s = .next t ∧ (t.sched die).out = true ∧ t.cmd? box q = some { c with checked := true } ∧
          ∀ p ∈ t.pages, p.die = die → p.freeze ≠ .no) ∧
      (c.checked = true → s.dieIdle die box c.seq = true → s.sys.update = none → die < s.sys.dies.length → s.sys.hbms.length = 12 →
        ∃ t, exec (.mdie c.m) s = .next t ∧ t.mem = s.mem ∧ done t ∧ t.sys.dies = s.sys.dies.set die false ∧
          ∀ i, i < 12 → t.sys.hbms.getD i true = (if c.m.getLsbD 258 = true ∧ i / 3 = die then false else s.sys.hbms.getD i true))) ∧
    (c.opc = 0x62 → c.checked = false →
      ∃ t, exec (.mrecal c.m) s = .next t ∧ t.mem = s.mem ∧ t.sys.recals = s.sys.recals ++ [(c.op 256 4, c.op 260 5, box, c.seq)] ∧
        t.cmd? box q = some { c with checked := true }) ∧
    (∀ stack chan rest, s.sys.recals = (stack, chan, box, q) :: rest →
      ∃ t, exec (.recalibrationEnd stack chan) s = .next t ∧ t.mem = s.mem ∧ t.sys.recals = rest ∧ done t) ∧
    (∀ d off, c.opc = 0x63 → c.checked = false → addrWord (c.op 256 64) = some (.die d off) → off + Config.firmwareSize ≤ 2 ^ 24 →
      (c.held.length < Config.firmwareSize →
        let a := off + c.held.length
        ∃ t, exec (.mfw c.m) s = .next t ∧ t.mem = s.mem ∧
          t.cmd? box q = some { c with held := c.held ++ memGets s.mem (dieKey d a) (min (Config.firmwareSize - c.held.length) (64 - a % 64)) }) ∧
      (Config.firmwareSize ≤ c.held.length →
        let good := sm2Verify Config.rootKey (Config.firmwareSig c.held) (Config.firmwareBody c.held)
        (good = false → ends (.mfw c.m) 8) ∧
        (good = true → s.sys.update = none → ∃ t, exec (.mfw c.m) s = .next t ∧ t.mem = s.mem ∧ t.sys.update = some box ∧
          (if s.sys.startB then t.sys.imgA else t.sys.imgB) = some c.held ∧ (if s.sys.startB then t.sys.imgB else t.sys.imgA) = (if s.sys.startB then s.sys.imgB else s.sys.imgA) ∧
          (∀ k, k ∈ t.sys.restart ↔ k < 16 ∧ s.sys.dies.getD (k / 4) true = true) ∧ List.Pairwise (· < ·) t.sys.restart))) ∧
    (∀ die core k rest, s.sys.update = some box → s.sys.restart = k :: rest → k = 4 * die + core → core < 4 → s.boxes.get? (coreBox die core) = none →
      (s.boxes.getD box {}).qs = [(0, [c])] → c.opc = 0x63 → c.checked = true →
      (∃ t, exec (.coreRestart die core false) s = .next t ∧ t.mem = s.mem ∧ t.sys.update = none ∧ t.sys.copyB = s.sys.copyB ∧
        t.cmd? box q = some { c with phase := 3, status := 8, faddr := 0 }) ∧
      (∀ r2, r2 ∈ rest → s.sys.dies.getD (r2 / 4) true = true →
        ∃ t, exec (.coreRestart die core true) s = .next t ∧ t.mem = s.mem ∧ (∀ j, j ∈ t.sys.copyB ↔ (j = k ∧ s.sys.startB = false) ∨ (j ≠ k ∧ j ∈ s.sys.copyB)) ∧
          t.sys.update = some box ∧ t.cmd? box q = some c)) ∧
    (∀ d off dd do_, c.opc = 0x64 → addrWord (c.op 256 64) = some (.die d off) → addrWord (c.op 320 64) = some (.die dd do_) →
      (c.checked = false → c.held.length = 32 →
        ∃ t body, exec (.mattest c.m) s = .next t ∧ t.mem = s.mem ∧
          t.cmd? box q = some { c with
            checked := true, off := 0
            held := body ++ sm2Sign identityPrivate body ((List.range 64).map (fun i => 1 + Config.identityNonce (s.fresh + i) % (sm2N - 1))) } ∧
          body.take 32 = c.held ∧ (body.drop 32).take 64 = sm2Public identityPrivate ∧
          (∀ image, (if 0 ∈ s.sys.copyB then s.sys.imgB else s.sys.imgA) = some image → (body.drop 96).take 32 = sm3 image) ∧
          ∀ b r, s.sys.inForce = some (b, r) → s.sys.dies.length = 4 → s.sys.hbms.length = 12 →
            body.length = 192 ∧ (body.drop 128).take 32 = sm3 (r.take 2036) ∧ ofBytes ((body.drop 160).take 8) = recordStart r % 2 ^ 64 ∧
            (∀ i, i < 4 → bit (ofBytes ((body.drop 168).take 4)) i = s.sys.dies.getD i true) ∧
            ∀ i, i < 12 → bit (ofBytes ((body.drop 168).take 4)) (4 + i) = s.sys.hbms.getD i true) ∧
      (c.checked = true → c.held ≠ [] → do_ + c.off + c.held.length ≤ 2 ^ 24 →
        let a := do_ + c.off
        let n := min c.held.length (64 - a % 64)
        ∃ t, exec (.mattest c.m) s = .next t ∧ t.cmd? box q = some { c with bytes := c.bytes + n, held := c.held.drop n, off := c.off + n } ∧
          ∀ h, memGet t.mem h = if dieKey dd a ≤ h ∧ h < dieKey dd a + n then
            (memGet s.mem h &&& ownBits h) ||| (c.held.getD (h - dieKey dd a) 0 &&& ~~~(ownBits h)) else memGet s.mem h) ∧
      (c.checked = true → c.held = [] → ∃ t, exec (.mattest c.m) s = .next t ∧ t.mem = s.mem ∧ done t)) ∧
    (∀ d off, c.opc = 0x65 → addrWord (c.op 256 64) = some (.die d off) → off + 2032 ≤ 2 ^ 24 → c.held.length < 2032 →
      let a := off + c.held.length
      ∃ t, exec (.mrecord c.m) s = .next t ∧ t.mem = s.mem ∧ t.sys = s.sys ∧
        t.cmd? box q = some { c with held := c.held ++ memGets s.mem (dieKey d a) (min (2032 - c.held.length) (64 - a % 64)) }) ∧
    (∀ d off, c.opc = 0x65 → addrWord (c.op 256 64) = some (.die d off) → c.held.length = 2032 →
      ∃ t, exec (.mrecord c.m) s = .next t ∧ t.mem = s.mem ∧ t.cmd? box q = some { c with phase := 3 } ∧
        ∀ b r, s.sys.inForce = some (b, r) → recordStart r + 1 < 2 ^ 64 → ∃ r', t.sys.inForce = some (!b, r') ∧
          (r'.take 2032).drop 8 = c.held.drop 8 ∧ recordStart r' = recordStart r + 1 ∧ (if b then t.sys.rec1 else t.sys.rec0) = r)

/-! ### Every instruction -/

/-- The source checks (R22): with a source empty whose B/T is 1 a word traps with cause EMPTY and has no effect; otherwise it waits until its sources
are full, and until a pending value of its destination has arrived (R23); B/T of a destination is reserved. A source is a register, an inbound port,
or the ring of BPOP and BRET (R24), which is empty while it holds fewer slots than the word and the rows queued before it take. A port from which an earlier merge still takes beats
is waited for (R194); a word whose port can never deliver is another rule's (R240). The m registers that it names are full, as every instruction leaves
them. The privilege check (R200) and the target check of SKIPT (R90) come before. -/
def Obligations.SourceChecks : Prop :=
  ∀ (i : Instr) (w : Fields) (s : State), fieldsOf i = some w →
    let c := s.ctx s.cur
    let src := sourcesOf i w
    let late (o : Operand) : Prop := o.cls = 4 ∧ s.merging s.cur o.idx.toNat = true
    let before : Prop := i.wellFormed = true ∧ (∀ o ∈ [w.a, w.b, w.c] ++ Fields.maskSrc w, o.cls = 2 → c.arch.full (.m (o.idx.toNat - 16)) = true) ∧ c.arch.guards w = true ∧
      (c.priv = true ∨ ∀ v, i ≠ .swr v ∧ i ≠ .tlbinv v ∧ i ≠ .cfgwr v ∧ i ≠ .cfgrd v) ∧
      ∀ v, i = .skipt v → ∃ pc first last, c.arch.pos = .word pc first last ∧ pc + ((immOf w w.a).toNat + 1) ≤ last
    let ring : Option (Operand × Nat) := match i with
      | .bpop v => some (v.a, 1)
      | .bret v => some (v.a, c.bretNeed v)
      | _ => none
    let short (o : Operand) : Prop := ∃ n, ring = some (o, n) ∧ n ≠ 0 ∧ (c.ring o.idx.toNat).held < n + s.queuedOn s.cur o.idx.toNat
    (before → (∃ o, short o ∧ o.bt = true) → Traps i s 2 0) ∧
    (before → (∃ o, short o ∧ o.bt = false) → (∀ o ∈ src, lacks c o = false) → ∃ why, Waits i s why) ∧
    (before → (∃ o ∈ src, lacks c o = true ∧ o.bt = true ∧ ¬late o) → Traps i s 2 0) ∧
    (before → (∃ o ∈ src, late o) → (∀ o ∈ src, lacks c o = true → o.bt = true → late o) → (∀ o ∈ src, o.cls = 4 → s.mergeStuck s.cur o.idx.toNat = false) →
      ∃ why, Waits i s why) ∧
    (before → (∀ o, short o → o.bt = false) → (∀ o ∈ src, ¬late o) → (∃ o ∈ src, lacks c o = true) → (∀ o ∈ src, lacks c o = true → o.bt = false ∧ (o.cls = 4 → c.stuckIn o.idx.toNat 1 = false)) →
      ∃ why, Waits i s why) ∧
    (before → (∀ o, short o → o.bt = false) → (∀ o ∈ src, ¬late o) → (∀ o ∈ src, lacks c o = false) → ∀ e cls sat, opSpec i = some e → e.d = .dst cls sat →
      (w.d.cls = 0 ∧ c.arch.full (.s w.d.idx.toNat) = false ∨ w.d.cls = 1 ∧ c.arch.full (.v w.d.idx.toNat) = false) →
      ∃ why, Waits i s why) ∧
    (∀ e cls sat n, opSpec i = some e → e.d = .dst cls sat → w.d.bt = true → (wordFlaw n i).isSome = true)

/-- What a word leaves alone: one whose guards are not both true does nothing but move on (R64; BRF and SKIPT are checked for their target
before, ILL and ENDA act whatever their guards say); and a word with an effect on its own context alone leaves every byte of memory, every
other context, every accumulator and list and everything outside its cell as it was, uses up the grant and stands at the word after. -/
def Obligations.WordFrames : Prop :=
  (∀ (i : Instr) (w : Fields) (s : State), fieldsOf i = some w → (s.ctx s.cur).arch.guards w = false →
    (∀ v, i ≠ .ill v) → (∀ v, i ≠ .enda v) → (∀ v, i ≠ .brf v) → (∀ v, i ≠ .skipt v) → DoesTo i s w s) ∧
  (∀ (w : Fields) (s : State) (f : Ctx → Ctx),
    let t := afterWord s (s.modCtx s.cur f) w
    let c := f (s.ctx s.cur)
    SameMemory s t ∧ SameOthers s t ∧ SameOutside s t ∧
    (∀ ck, (t.cell ck).accs = (s.cell ck).accs ∧ (t.cell ck).lists = (s.cell ck).lists ∧ (t.cell ck).cfg = (s.cell ck).cfg) ∧
    (t.cell s.cur.ck).grant = none ∧
    t.ctx s.cur = { c with arch := c.arch.advance, wait := .none, yieldTo := if w.y then max c.yieldTo (s.clk.toNat + 2) else c.yieldTo })

/-- A step runs the decoded instruction (R77, R86, R166, R289, R393): the word at the place of a context that holds the grant, the running command of a
receiver, the next logit word of the sampler's row, an event; an action word that is not legal traps with its REASON and FBIT, and one that would
let the context run past its block with REASON 8 (R76, R77). A word that has issued and pairs with the word after it keeps the grant, and that word
issues next, in the same clock (R71); after CFGWR or CFGRD under a freeze wave the context stops (R337); nothing else is added to an instruction. Which
classes share a unit, but for the vector classes, is a free value (log 27). Any instruction placed by `withFetchWord` runs in the very next step: where
it places one is the model's choice (log 9), and the order of moves is free (log 1). -/
def Obligations.StepRunsTheDecodedInstruction : Prop :=
  ∀ (s : State), s.sys.stopped = false →
    (∀ m x u i pc first last, s.takeMove = (m, u) → (m = .issue x ∨ m = .second x) → x.ok = true → (s.ctx x).life = .live → (s.cell x.ck).grant = some x.ctx →
      (s.ctx x).frozen = false → (s.waved x.ck && (s.ctx x).atStop) = false → (s.ctx x).info.bad = false → (s.ctx x).arch.pos = .word pc first last → pc ≤ 8191 →
      decodeWord (s.ctx x).info.nacc ((s.cell x.ck).action pc) = .ok i → (pc ≠ last ∨ ∃ w, i = .enda w ∨ i = .ill w) →
      let v : State := { u with cur := x }
      let alone : Prop := v.waved x.ck = false ∧ ∀ w, fieldsOf i = some w → w.grp = false
      let stops : Prop := v.waved x.ck = true ∧ stopsAfter i (v.ctx x).arch = true
      (m = .second x ∨ alone → step s = exec i v) ∧
      (m = .issue x → ∀ t, exec i v = .next t →
        (v.passed t x = false → step s = .next t) ∧
        (v.passed t x = true → stops → step s = .next (t.modCtx x (fun c => { c with frozen := true }))) ∧
        (v.passed t x = true → ¬stops → t.wordAt x = none → step s = .next t) ∧
        (v.passed t x = true → ¬stops → ∀ j, t.wordAt x = some j →
          (pairs i j = false → step s = .next t) ∧
          (pairs i j = true → step s =
            .next { t.modCell x.ck (fun k => { k with grant := some x.ctx, undo := k.arb }) with agenda := .second x :: t.agenda }))) ∧
      (∀ o, exec i v = o → (∀ t, o ≠ .next t) → step s = o)) ∧
    (∀ m x u pc first last reason, s.takeMove = (m, u) → (m = .issue x ∨ m = .second x) → x.ok = true → (s.ctx x).life = .live → (s.cell x.ck).grant = some x.ctx →
      (s.ctx x).frozen = false → (s.waved x.ck && (s.ctx x).atStop) = false → (s.ctx x).info.bad = false → (s.ctx x).arch.pos = .word pc first last → pc ≤ 8191 →
      let word := decodeWord (s.ctx x).info.nacc ((s.cell x.ck).action pc)
      (∃ r b, word = .error (.ill r b) ∧ reason = r + b * 2 ^ 8) ∨ (∃ i, word = .ok i ∧ pc = last ∧ (∀ w, i ≠ .enda w ∧ i ≠ .ill w) ∧ reason = 8) →
      step s = .next (({ u with cur := x }.issued x).takeTrap x 1 (BitVec.ofNat 64 reason))) ∧
    (∀ box q j e u c i, s.takeMove = (.engine box q j e, u) → s.queued box q j = some c → boxRuns box c.opc = true → decodeCommand c.m = .ok i →
      step s = exec i { u with eng := (box, c.seq), ecc := e }) ∧
    (∀ die e u c i, s.takeMove = (.sampler die e, u) → (s.sampler die).batch = some c → decodeCommand c.m = .ok i →
      step s = exec i { u with die := die, ecc := e }) ∧
    (∀ die e u c i, s.takeMove = (.sampler die e, u) → (s.sampler die).batch = none → s.samplerHead die = some c → c.opc = 0x20 →
      decodeCommand c.m = .ok i → step s = exec i { u with die := die, ecc := e }) ∧
    (∀ die u c i, s.takeMove = (.scheduler die, u) → (s.sched die).queue.head? = some c → decodeCommand c.m = .ok i →
      step s = exec i { u with die := die }) ∧
    (∀ die u r l w i, s.takeMove = (.logit die, u) → (s.sampler die).row = some r → (s.sampler die).cur = some l → r.words[l.pc]? = some w →
      decodeLogit w = .ok i → step s = exec i { u with die := die }) ∧
    (∀ i u, s.takeMove = (.event i, u) → encode i = [] → i.wellFormed = true → step s = exec i u) ∧
    (∀ nbits n i, decodeTableWord nbits n = some i →
      let z := s.withFetchWord nbits n
      let p := z.takeMove.2
      ∃ u, { u with cur := p.cur, eng := p.eng, die := p.die, ecc := p.ecc } = p ∧
        (step z = exec i u ∨ (32 < nbits ∧ nbits ≤ 128 ∧ ∃ t, exec i u = .next t ∧ step z = .next (u.afterIssue t {}))))

/-- Words written out from the encodings of R62, R164 and R288 decode to what they stand for: VADD.i8 v2, v3, v4, !m1; AADD.i32.g.pkg.acq s3, [s4 + 0], s5;
MMA.k4 a0, b1, 32; SRD s1, %tok; the zero word, which is ILL; an ECOPY message; the logit word LTEMP. -/
def Obligations.WordsDecodeAsWritten : Prop :=
  decodeTableWord 128 0x000010890000000020808182040000C0 =
    some (.vadd { ty := 0, d := ⟨1, 2, false, 0⟩, a := ⟨1, 3, false, 0⟩, b := ⟨1, 4, false, 0⟩, imm := 0x1089 }) ∧
  decodeTableWord 128 0x000000000C000028E000020006000A00 =
    some (.aadd { ty := 2, d := ⟨0, 3, false, 0⟩, a := ⟨0, 4, false, 0⟩, b := ⟨7, 0, false, 0⟩, c := ⟨0, 5, false, 0⟩, fn := 0x0C }) ∧
  decodeTableWord 128 0x0000000000000000E402808600003AC2 =
    some (.mma { ty := 14, d := ⟨3, 0, false, 0⟩, a := ⟨5, 1, false, 0⟩, b := ⟨7, 32, false, 0⟩ }) ∧
  decodeTableWord 128 0x00000000000000000003900002003F80 = some (.srd { d := ⟨0, 1, false, 0⟩, a := ⟨7, 0x20, false, 0⟩ }) ∧
  decodeTableWord 128 0 = some (.ill { ty := 0 }) ∧
  decodeTableWord 512 0x01 = some (.ecopy 1) ∧
  decodeTableWord 32 0x00000003 = some .ltemp

/-- The machine right after reset (R7, R377): memory lists nothing and keeps its canonical form, the clock is 0, no cell is loaded, no unit runs, nothing is on its
way, the start sequence has not run, and so no host window takes a message. The reset values the manual gives none for are log entry 5. -/
def Obligations.ResetState : Prop :=
  let s := State.reset
  Sound s ∧ s.mem = [] ∧ s.clk = 0 ∧ s.transit = [] ∧ s.flights = [] ∧ s.pages = [] ∧ s.frozen = [] ∧ s.watches = [] ∧ s.faults = [] ∧
  s.sys.started = false ∧ s.sys.stopped = false ∧
  (∀ ck, (s.cell ck).st = 0 ∧ (s.cell ck).accs = []) ∧
  (∀ x : CtxId, (s.ctx x).life = .empty ∧ (∀ i, (s.ctx x).arch.rs i = 0) ∧ (∀ i, (s.ctx x).arch.rv i = 0) ∧ (s.ctx x).arch.rp 0 = true ∧
    ∀ r, Reg.exists? r = true → (s.ctx x).arch.full r = true) ∧
  (∀ win, ctlEn (s.window win).ctl = false ∧ (s.window win).queue = [])

/-- Decoding and encoding agree (R62, R76, R164, R288): every well-formed action word, logit word and command, with every operand at every value its
encoding admits, decodes from its bytes to itself. -/
def Obligations.DecodeInvertsEncode : Prop :=
  ∀ i : Instr, i.wellFormed = true → encode i ≠ [] → decodeBytes (encode i) = .ok i

/-- Every step keeps memory in the model's canonical form (log entry 3), from any state that has it: each byte stands at most once, in rising
order, and none that reads as unlisted is listed. -/
def Obligations.StepsKeepMemoryCanonical : Prop :=
  ∀ s t : State, Sound s → StepsTo s t → Sound t
end

