-- ==== Sys2Proof/Laws/Memory.lean ====
section
/-!
SUPPORT. Memory: a read after a write, the canonical form that every write keeps, and the bytes of a number.
-/

namespace Sys2Proof.Machine

/-- A canonical list reads as unlisted below its bound. -/
theorem memGet_of_memAbove {lo a : Nat} {m : List Host.Cell} (h : memAbove lo m = true) (ha : a < lo) :
    memGet m a = unlisted := by
  cases m with
  | nil => rfl
  | cons e r =>
    obtain ⟨k, b⟩ := e
    simp only [memAbove, Bool.and_eq_true, decide_eq_true_eq] at h
    simp only [memGet]
    rw [if_neg (by omega), if_pos (by omega)]

/-- The bound of a canonical list may be lowered. -/
theorem memAbove_mono {lo hi : Nat} {m : List Host.Cell} (hle : lo ≤ hi) (h : memAbove hi m = true) : memAbove lo m = true := by
  cases m with
  | nil => rfl
  | cons e r =>
    obtain ⟨k, b⟩ := e
    simp only [memAbove, Bool.and_eq_true, decide_eq_true_eq] at h ⊢
    exact ⟨⟨by omega, h.1.2⟩, h.2⟩

/-- A write keeps a canonical list canonical above its bound. -/
theorem memAbove_memSet {lo : Nat} {m : List Host.Cell} {a : Nat} {b : Byte} (h : memAbove lo m = true) (ha : lo ≤ a) :
    memAbove lo (memSet m a b) = true := by
  induction m generalizing lo with
  | nil => unfold memSet; split <;> simp_all [memAbove]
  | cons e r ih =>
    obtain ⟨k, v⟩ := e
    simp only [memAbove, Bool.and_eq_true, decide_eq_true_eq, bne_iff_ne, ne_eq] at h
    obtain ⟨⟨h1, h2⟩, h3⟩ := h
    simp only [memSet]
    split
    · split
      · simp [memAbove, h1, h2, h3]
      · rename_i hlt hb
        simp only [memAbove, Bool.and_eq_true, decide_eq_true_eq, bne_iff_ne, ne_eq]
        exact ⟨⟨ha, hb⟩, ⟨⟨by omega, h2⟩, h3⟩⟩
    · split
      · split
        · exact memAbove_mono (by omega) h3
        · rename_i heq hb
          simp only [memAbove, Bool.and_eq_true, decide_eq_true_eq, bne_iff_ne, ne_eq]
          exact ⟨⟨ha, hb⟩, by subst heq; exact h3⟩
      · simp only [memAbove, Bool.and_eq_true, decide_eq_true_eq, bne_iff_ne, ne_eq]
        exact ⟨⟨h1, h2⟩, ih h3 (by omega)⟩

/-- A write keeps the canonical form. -/
theorem wf_memSet {m : List Host.Cell} {a : Nat} {b : Byte} (h : Memory.wf m = true) : Memory.wf (memSet m a b) = true :=
  memAbove_memSet h (Nat.zero_le a)

/-- A byte just written reads as written, on any list. -/
theorem memGet_memSet_self {lo : Nat} {m : List Host.Cell} {a : Nat} {b : Byte} (h : memAbove lo m = true) :
    memGet (memSet m a b) a = b := by
  induction m generalizing lo with
  | nil => unfold memSet; split <;> simp_all [memGet]
  | cons e r ih =>
    obtain ⟨k, v⟩ := e
    simp only [memAbove, Bool.and_eq_true, decide_eq_true_eq] at h
    simp only [memSet]
    split
    · split
      · rename_i hlt hb; simp only [memGet]; rw [if_neg (by omega), if_pos hlt, hb]
      · simp [memGet]
    · split
      · split
        · rename_i heq hb; subst heq; rw [hb]; exact memGet_of_memAbove h.2 (by omega)
        · simp [memGet]
      · rename_i h1 h2
        simp only [memGet]
        rw [if_neg (fun h => h2 h.symm), if_neg h1]
        exact ih h.2

/-- A write leaves every other address alone. -/
theorem memGet_memSet_ne {lo : Nat} {m : List Host.Cell} {a c : Nat} {b : Byte} (h : memAbove lo m = true) (hne : c ≠ a) :
    memGet (memSet m a b) c = memGet m c := by
  induction m generalizing lo with
  | nil =>
    unfold memSet
    split
    · rfl
    · simp only [memGet]; rw [if_neg (fun h => hne h.symm)]; split <;> rfl
  | cons e r ih =>
    obtain ⟨k, v⟩ := e
    simp only [memAbove, Bool.and_eq_true, decide_eq_true_eq] at h
    simp only [memSet]
    split
    · split
      · rfl
      · rename_i hlt hb
        simp only [memGet]
        rw [if_neg (fun h => hne h.symm)]
        split
        · rename_i hca; rw [if_neg (by omega), if_pos (by omega)]
        · rfl
    · split
      · rename_i h1 heq
        subst heq
        split
        · simp only [memGet]
          rw [if_neg (fun h => hne h.symm)]
          split
          · rename_i hca; exact memGet_of_memAbove h.2 (by omega)
          · rfl
        · simp only [memGet, if_neg (Ne.symm hne)]
      · simp only [memGet]
        split
        · rfl
        · split
          · rfl
          · exact ih h.2

/-- A read after a write. -/
theorem memGet_memSet {m : List Host.Cell} {a c : Nat} {b : Byte} (h : Memory.wf m = true) :
    memGet (memSet m a b) c = if c = a then b else memGet m c := by
  split
  · rename_i he; subst he; exact memGet_memSet_self h
  · rename_i hne; exact memGet_memSet_ne h hne

/-- Writing bytes keeps the canonical form. -/
theorem wf_memSets {bs : List Byte} {m : List Host.Cell} {a : Nat} (h : Memory.wf m = true) :
    Memory.wf (memSets m a bs) = true := by
  induction bs generalizing m a with
  | nil => exact h
  | cons b r ih => exact ih (wf_memSet h)

/-- A read after the writing of bytes from an address on. -/
theorem memGet_memSets {bs : List Byte} {m : List Host.Cell} {a c : Nat} (h : Memory.wf m = true) :
    memGet (memSets m a bs) c = if a ≤ c ∧ c < a + bs.length then bs.getD (c - a) 0 else memGet m c := by
  induction bs generalizing m a with
  | nil => simp only [memSets, List.length_nil]; rw [if_neg (by omega)]
  | cons b r ih =>
    simp only [memSets, List.length_cons]
    rw [ih (wf_memSet h), memGet_memSet h]
    by_cases h1 : a + 1 ≤ c ∧ c < a + 1 + r.length
    · rw [if_pos h1, if_pos (by omega)]
      obtain ⟨d, rfl⟩ : ∃ d, c = a + 1 + d := ⟨c - (a + 1), by omega⟩
      rw [show a + 1 + d - (a + 1) = d by omega, show a + 1 + d - a = d + 1 by omega]
      rfl
    · rw [if_neg h1]
      by_cases h2 : c = a
      · subst h2; rw [if_pos rfl, if_pos (by omega), Nat.sub_self]; rfl
      · rw [if_neg h2, if_neg (by omega)]

/-- Writing bytes one by one keeps the canonical form. -/
theorem wf_foldl_memSet {l : List (Nat × Byte)} {m : List Host.Cell} (h : Memory.wf m = true) :
    Memory.wf (l.foldl (fun m e => memSet m e.1 e.2) m) = true := by
  induction l generalizing m with
  | nil => exact h
  | cons e r ih => exact ih (wf_memSet h)

/-- Bytes written one by one leave every other address alone. -/
theorem memGet_foldl_memSet {l : List (Nat × Byte)} {m : List Host.Cell} {c : Nat} (h : Memory.wf m = true)
    (hc : ∀ e ∈ l, e.1 ≠ c) : memGet (l.foldl (fun m e => memSet m e.1 e.2) m) c = memGet m c := by
  induction l generalizing m with
  | nil => rfl
  | cons e r ih =>
    simp only [List.foldl_cons]
    rw [ih (wf_memSet h) (fun x hx => hc x (List.mem_cons_of_mem _ hx)), memGet_memSet h,
      if_neg (fun he => hc e List.mem_cons_self he.symm)]

/-- Restoring listed bytes keeps the canonical form. -/
theorem wf_memPut {l : List Host.Cell} {m : List Host.Cell} {lo : Nat} (h : Memory.wf m = true) :
    Memory.wf (memPut m lo l) = true := by
  induction l generalizing m with
  | nil => exact h
  | cons e r ih => exact ih (wf_memSet h)

/-- Any selection of a canonical list is canonical. -/
theorem memAbove_filter {p : Host.Cell → Bool} {m : List Host.Cell} {lo : Nat} (h : memAbove lo m = true) :
    memAbove lo (m.filter p) = true := by
  induction m generalizing lo with
  | nil => rfl
  | cons e r ih =>
    obtain ⟨k, b⟩ := e
    simp only [memAbove, Bool.and_eq_true, decide_eq_true_eq] at h
    simp only [List.filter_cons]
    split
    · simp only [memAbove, Bool.and_eq_true, decide_eq_true_eq]; exact ⟨h.1, ih h.2⟩
    · exact memAbove_mono (by omega) (ih h.2)

/-- Zeroing a range keeps the canonical form. -/
theorem wf_memClear {m : List Host.Cell} {lo hi : Nat} (h : Memory.wf m = true) : Memory.wf (memClear m lo hi) = true :=
  memAbove_filter h

/-- A read after the zeroing of a range. -/
theorem memGet_memClear {m : List Host.Cell} {b lo hi c : Nat} (h : memAbove b m = true) :
    memGet (memClear m lo hi) c = if lo ≤ c ∧ c < hi then unlisted else memGet m c := by
  induction m generalizing b with
  | nil => simp [memClear, memGet]
  | cons e r ih =>
    obtain ⟨k, v⟩ := e
    simp only [memAbove, Bool.and_eq_true, decide_eq_true_eq] at h
    have ih' : memGet (List.filter (fun e => decide (e.1 < lo) || decide (hi ≤ e.1)) r) c = _ := ih h.2
    simp only [memClear, List.filter_cons]
    split
    · rename_i hk
      simp only [Bool.or_eq_true, decide_eq_true_eq] at hk
      simp only [memGet, ih']
      split
      · rename_i hkc; subst hkc; rw [if_neg (by omega)]
      · split <;> [skip; rfl]
        rw [ite_self]
    · rename_i hk
      simp only [Bool.or_eq_true, decide_eq_true_eq, not_or, not_lt, not_le] at hk
      rw [ih']
      simp only [memGet]
      split
      · rfl
      · rename_i hn
        rw [if_neg (by omega)]
        split
        · rename_i hck; exact memGet_of_memAbove h.2 (by omega)
        · rfl

/-- Reading n bytes gives n bytes. -/
@[simp] theorem memGets_length {m : List Host.Cell} {n a : Nat} : (memGets m a n).length = n := by
  induction n generalizing a with
  | zero => rfl
  | succ n ih => simp [memGets, ih]

/-- Two memories that agree on a span give the same bytes. -/
theorem memGets_congr {m m' : List Host.Cell} {n a : Nat} (h : ∀ c, a ≤ c → c < a + n → memGet m' c = memGet m c) :
    memGets m' a n = memGets m a n := by
  induction n generalizing a with
  | zero => rfl
  | succ n ih =>
    simp only [memGets]
    rw [h a (by omega) (by omega), ih (fun c h1 h2 => h c (by omega) (by omega))]

/-- The bytes just written are read back. -/
theorem memGets_memSets {bs : List Byte} {m : List Host.Cell} {a : Nat} (h : Memory.wf m = true) :
    memGets (memSets m a bs) a bs.length = bs := by
  induction bs generalizing m a with
  | nil => rfl
  | cons b r ih =>
    have hf : memGet (memSets m a (b :: r)) a = b := by
      rw [memGet_memSets h, if_pos ⟨le_rfl, by simp⟩, Nat.sub_self]; rfl
    simp only [List.length_cons, memGets, hf]
    rw [show memSets m a (b :: r) = memSets (memSet m a b) (a + 1) r from rfl, ih (wf_memSet h)]

/-- The length of the bytes of a number. -/
@[simp] theorem toBytes_length {n x : Nat} : (toBytes n x).length = n := by
  induction n generalizing x with
  | zero => rfl
  | succ n ih => simp [toBytes, ih]

/-- The number in the bytes of a number. -/
theorem ofBytes_toBytes {n x : Nat} : ofBytes (toBytes n x) = x % 256 ^ n := by
  induction n generalizing x with
  | zero => simp [toBytes, ofBytes, Nat.mod_one]
  | succ n ih =>
    simp only [toBytes, ofBytes, ih, BitVec.toNat_ofNat, Nat.shiftRight_eq_div_pow]
    exact (show x % 256 ^ (n + 1) = x % 256 + 256 * (x / 256 % 256 ^ n) by rw [pow_succ' 256 n]; exact Nat.mod_mul).symm

/-- A number just written is read back (R5). -/
theorem memNum_memSets {n v a : Nat} {m : List Host.Cell} (h : Memory.wf m = true) :
    memNum (memSets m a (toBytes n v)) a n = v % 256 ^ n := by
  have := memGets_memSets (bs := toBytes n v) (a := a) h
  rw [toBytes_length] at this
  rw [memNum, this, ofBytes_toBytes]

end Sys2Proof.Machine
end

