-- ==== Sys2Proof/Laws/PerInstr.lean ====
section
/-!
SUPPORT. The encoding of each instruction has the length of its kind: 16 bytes for an action word (R62), 4 for a logit word (R289), 64 for a
command (R164), none for an event.
-/

namespace Sys2Proof.Laws.WellEncoded

open Sys2Proof.Machine

/-- The number of bytes of an instruction's kind. -/
def size (i : Instr) : Nat :=
  if (fieldsOf i).isSome then 16 else if (encodeLogit i).isSome then 4 else if (commandOf i).isSome then 64 else 0

/-- The encoding is as long as the kind says. -/
def Statement (i : Instr) : Prop := (encode i).length = size i

theorem ill (w : Fields) : Statement (.ill w) := toBytes_length
theorem nop (w : Fields) : Statement (.nop w) := toBytes_length
theorem enda (w : Fields) : Statement (.enda w) := toBytes_length
theorem brf (w : Fields) : Statement (.brf w) := toBytes_length
theorem skipt (w : Fields) : Statement (.skipt w) := toBytes_length
theorem peek (w : Fields) : Statement (.peek w) := toBytes_length
theorem pushn (w : Fields) : Statement (.pushn w) := toBytes_length
theorem commit (w : Fields) : Statement (.commit w) := toBytes_length
theorem abort (w : Fields) : Statement (.abort w) := toBytes_length
theorem tsset (w : Fields) : Statement (.tsset w) := toBytes_length
theorem handoff (w : Fields) : Statement (.handoff w) := toBytes_length
theorem trap (w : Fields) : Statement (.trap w) := toBytes_length
theorem yield (w : Fields) : Statement (.yield w) := toBytes_length
theorem add (w : Fields) : Statement (.add w) := toBytes_length
theorem sub (w : Fields) : Statement (.sub w) := toBytes_length
theorem mul (w : Fields) : Statement (.mul w) := toBytes_length
theorem mulh (w : Fields) : Statement (.mulh w) := toBytes_length
theorem div (w : Fields) : Statement (.div w) := toBytes_length
theorem rem (w : Fields) : Statement (.rem w) := toBytes_length
theorem madd (w : Fields) : Statement (.madd w) := toBytes_length
theorem and (w : Fields) : Statement (.and w) := toBytes_length
theorem or (w : Fields) : Statement (.or w) := toBytes_length
theorem xor (w : Fields) : Statement (.xor w) := toBytes_length
theorem andn (w : Fields) : Statement (.andn w) := toBytes_length
theorem shl (w : Fields) : Statement (.shl w) := toBytes_length
theorem shr (w : Fields) : Statement (.shr w) := toBytes_length
theorem sar (w : Fields) : Statement (.sar w) := toBytes_length
theorem rotr (w : Fields) : Statement (.rotr w) := toBytes_length
theorem min (w : Fields) : Statement (.min w) := toBytes_length
theorem max (w : Fields) : Statement (.max w) := toBytes_length
theorem clz (w : Fields) : Statement (.clz w) := toBytes_length
theorem popc (w : Fields) : Statement (.popc w) := toBytes_length
theorem bfx (w : Fields) : Statement (.bfx w) := toBytes_length
theorem bfi (w : Fields) : Statement (.bfi w) := toBytes_length
theorem mov (w : Fields) : Statement (.mov w) := toBytes_length
theorem sel (w : Fields) : Statement (.sel w) := toBytes_length
theorem cmp (w : Fields) : Statement (.cmp w) := toBytes_length
theorem fadd (w : Fields) : Statement (.fadd w) := toBytes_length
theorem fsub (w : Fields) : Statement (.fsub w) := toBytes_length
theorem fmul (w : Fields) : Statement (.fmul w) := toBytes_length
theorem ffma (w : Fields) : Statement (.ffma w) := toBytes_length
theorem fmin (w : Fields) : Statement (.fmin w) := toBytes_length
theorem fmax (w : Fields) : Statement (.fmax w) := toBytes_length
theorem fdiv (w : Fields) : Statement (.fdiv w) := toBytes_length
theorem fsqrt (w : Fields) : Statement (.fsqrt w) := toBytes_length
theorem fcmp (w : Fields) : Statement (.fcmp w) := toBytes_length
theorem fcvt (w : Fields) : Statement (.fcvt w) := toBytes_length
theorem plog (w : Fields) : Statement (.plog w) := toBytes_length
theorem vadd (w : Fields) : Statement (.vadd w) := toBytes_length
theorem vsub (w : Fields) : Statement (.vsub w) := toBytes_length
theorem vmul (w : Fields) : Statement (.vmul w) := toBytes_length
theorem vmulh (w : Fields) : Statement (.vmulh w) := toBytes_length
theorem vmadd (w : Fields) : Statement (.vmadd w) := toBytes_length
theorem vadds (w : Fields) : Statement (.vadds w) := toBytes_length
theorem vsubs (w : Fields) : Statement (.vsubs w) := toBytes_length
theorem vand (w : Fields) : Statement (.vand w) := toBytes_length
theorem vor (w : Fields) : Statement (.vor w) := toBytes_length
theorem vxor (w : Fields) : Statement (.vxor w) := toBytes_length
theorem vshl (w : Fields) : Statement (.vshl w) := toBytes_length
theorem vshr (w : Fields) : Statement (.vshr w) := toBytes_length
theorem vsar (w : Fields) : Statement (.vsar w) := toBytes_length
theorem vmin (w : Fields) : Statement (.vmin w) := toBytes_length
theorem vmax (w : Fields) : Statement (.vmax w) := toBytes_length
theorem vabs (w : Fields) : Statement (.vabs w) := toBytes_length
theorem vcmp (w : Fields) : Statement (.vcmp w) := toBytes_length
theorem vsel (w : Fields) : Statement (.vsel w) := toBytes_length
theorem vdot (w : Fields) : Statement (.vdot w) := toBytes_length
theorem vclz (w : Fields) : Statement (.vclz w) := toBytes_length
theorem vpopc (w : Fields) : Statement (.vpopc w) := toBytes_length
theorem vfadd (w : Fields) : Statement (.vfadd w) := toBytes_length
theorem vfsub (w : Fields) : Statement (.vfsub w) := toBytes_length
theorem vfmul (w : Fields) : Statement (.vfmul w) := toBytes_length
theorem vffma (w : Fields) : Statement (.vffma w) := toBytes_length
theorem vfmin (w : Fields) : Statement (.vfmin w) := toBytes_length
theorem vfmax (w : Fields) : Statement (.vfmax w) := toBytes_length
theorem vfcmp (w : Fields) : Statement (.vfcmp w) := toBytes_length
theorem vfexp2 (w : Fields) : Statement (.vfexp2 w) := toBytes_length
theorem vflog2 (w : Fields) : Statement (.vflog2 w) := toBytes_length
theorem vfrcp (w : Fields) : Statement (.vfrcp w) := toBytes_length
theorem vfrsq (w : Fields) : Statement (.vfrsq w) := toBytes_length
theorem vfsig (w : Fields) : Statement (.vfsig w) := toBytes_length
theorem vcvt (w : Fields) : Statement (.vcvt w) := toBytes_length
theorem vqk4 (w : Fields) : Statement (.vqk4 w) := toBytes_length
theorem vbcast (w : Fields) : Statement (.vbcast w) := toBytes_length
theorem vins (w : Fields) : Statement (.vins w) := toBytes_length
theorem vext (w : Fields) : Statement (.vext w) := toBytes_length
theorem vperm (w : Fields) : Statement (.vperm w) := toBytes_length
theorem vslide (w : Fields) : Statement (.vslide w) := toBytes_length
theorem vzip (w : Fields) : Statement (.vzip w) := toBytes_length
theorem vunzip (w : Fields) : Statement (.vunzip w) := toBytes_length
theorem vcompr (w : Fields) : Statement (.vcompr w) := toBytes_length
theorem vexpnd (w : Fields) : Statement (.vexpnd w) := toBytes_length
theorem vrsum (w : Fields) : Statement (.vrsum w) := toBytes_length
theorem vrmax (w : Fields) : Statement (.vrmax w) := toBytes_length
theorem vrmin (w : Fields) : Statement (.vrmin w) := toBytes_length
theorem vscan (w : Fields) : Statement (.vscan w) := toBytes_length
theorem viota (w : Fields) : Statement (.viota w) := toBytes_length
theorem mlog (w : Fields) : Statement (.mlog w) := toBytes_length
theorem mcnt (w : Fields) : Statement (.mcnt w) := toBytes_length
theorem mfirst (w : Fields) : Statement (.mfirst w) := toBytes_length
theorem ld (w : Fields) : Statement (.ld w) := toBytes_length
theorem st (w : Fields) : Statement (.st w) := toBytes_length
theorem vld (w : Fields) : Statement (.vld w) := toBytes_length
theorem vst (w : Fields) : Statement (.vst w) := toBytes_length
theorem vlds (w : Fields) : Statement (.vlds w) := toBytes_length
theorem vsts (w : Fields) : Statement (.vsts w) := toBytes_length
theorem vgath (w : Fields) : Statement (.vgath w) := toBytes_length
theorem vscat (w : Fields) : Statement (.vscat w) := toBytes_length
theorem pref (w : Fields) : Statement (.pref w) := toBytes_length
theorem binit (w : Fields) : Statement (.binit w) := toBytes_length
theorem bpush (w : Fields) : Statement (.bpush w) := toBytes_length
theorem bpop (w : Fields) : Statement (.bpop w) := toBytes_length
theorem bht (w : Fields) : Statement (.bht w) := toBytes_length
theorem bret (w : Fields) : Statement (.bret w) := toBytes_length
theorem cflush (w : Fields) : Statement (.cflush w) := toBytes_length
theorem cinv (w : Fields) : Statement (.cinv w) := toBytes_length
theorem aadd (w : Fields) : Statement (.aadd w) := toBytes_length
theorem amin (w : Fields) : Statement (.amin w) := toBytes_length
theorem amax (w : Fields) : Statement (.amax w) := toBytes_length
theorem aand (w : Fields) : Statement (.aand w) := toBytes_length
theorem aor (w : Fields) : Statement (.aor w) := toBytes_length
theorem axor (w : Fields) : Statement (.axor w) := toBytes_length
theorem axchg (w : Fields) : Statement (.axchg w) := toBytes_length
theorem acas (w : Fields) : Statement (.acas w) := toBytes_length
theorem afadd (w : Fields) : Statement (.afadd w) := toBytes_length
theorem ainc (w : Fields) : Statement (.ainc w) := toBytes_length
theorem fence (w : Fields) : Statement (.fence w) := toBytes_length
theorem waitw (w : Fields) : Statement (.waitw w) := toBytes_length
theorem barinit (w : Fields) : Statement (.barinit w) := toBytes_length
theorem bararr (w : Fields) : Statement (.bararr w) := toBytes_length
theorem bartx (w : Fields) : Statement (.bartx w) := toBytes_length
theorem barwait (w : Fields) : Statement (.barwait w) := toBytes_length
theorem qbind (w : Fields) : Statement (.qbind w) := toBytes_length
theorem qpush (w : Fields) : Statement (.qpush w) := toBytes_length
theorem qmark (w : Fields) : Statement (.qmark w) := toBytes_length
theorem qstat (w : Fields) : Statement (.qstat w) := toBytes_length
theorem qfilt (w : Fields) : Statement (.qfilt w) := toBytes_length
theorem qclose (w : Fields) : Statement (.qclose w) := toBytes_length
theorem send (w : Fields) : Statement (.send w) := toBytes_length
theorem sendi (w : Fields) : Statement (.sendi w) := toBytes_length
theorem mldb (w : Fields) : Statement (.mldb w) := toBytes_length
theorem mswap (w : Fields) : Statement (.mswap w) := toBytes_length
theorem mma (w : Fields) : Statement (.mma w) := toBytes_length
theorem msca (w : Fields) : Statement (.msca w) := toBytes_length
theorem mzero (w : Fields) : Statement (.mzero w) := toBytes_length
theorem mdrn (w : Fields) : Statement (.mdrn w) := toBytes_length
theorem mstat (w : Fields) : Statement (.mstat w) := toBytes_length
theorem rldecl (w : Fields) : Statement (.rldecl w) := toBytes_length
theorem rlpush (w : Fields) : Statement (.rlpush w) := toBytes_length
theorem rlmerge (w : Fields) : Statement (.rlmerge w) := toBytes_length
theorem rlsend (w : Fields) : Statement (.rlsend w) := toBytes_length
theorem rlread (w : Fields) : Statement (.rlread w) := toBytes_length
theorem rlth (w : Fields) : Statement (.rlth w) := toBytes_length
theorem rlclr (w : Fields) : Statement (.rlclr w) := toBytes_length
theorem rnorm (w : Fields) : Statement (.rnorm w) := toBytes_length
theorem rscan (w : Fields) : Statement (.rscan w) := toBytes_length
theorem launch (w : Fields) : Statement (.launch w) := toBytes_length
theorem cancel (w : Fields) : Statement (.cancel w) := toBytes_length
theorem cstat (w : Fields) : Statement (.cstat w) := toBytes_length
theorem srd (w : Fields) : Statement (.srd w) := toBytes_length
theorem swr (w : Fields) : Statement (.swr w) := toBytes_length
theorem rtt (w : Fields) : Statement (.rtt w) := toBytes_length
theorem tlbinv (w : Fields) : Statement (.tlbinv w) := toBytes_length
theorem cfgwr (w : Fields) : Statement (.cfgwr w) := toBytes_length
theorem cfgrd (w : Fields) : Statement (.cfgrd w) := toBytes_length
theorem crc32c (w : Fields) : Statement (.crc32c w) := toBytes_length
theorem sm3c (w : Fields) : Statement (.sm3c w) := toBytes_length
theorem halt (w : Fields) : Statement (.halt w) := toBytes_length
theorem lbias : Statement .lbias := toBytes_length
theorem lpenRep (a : BitVec 3) : Statement (.lpenRep a) := toBytes_length
theorem lpenFreq (a : BitVec 3) : Statement (.lpenFreq a) := toBytes_length
theorem lpenPres (a : BitVec 3) : Statement (.lpenPres a) := toBytes_length
theorem ltemp : Statement .ltemp := toBytes_length
theorem lclamp (a b : BitVec 3) : Statement (.lclamp a b) := toBytes_length
theorem lvmaskAllow : Statement .lvmaskAllow := toBytes_length
theorem lvmaskBan : Statement .lvmaskBan := toBytes_length
theorem lscale (a : BitVec 3) : Statement (.lscale a) := toBytes_length
theorem laddc (a : BitVec 3) : Statement (.laddc a) := toBytes_length
theorem ltopk : Statement .ltopk := toBytes_length
theorem ltopp : Statement .ltopp := toBytes_length
theorem lminp (a : BitVec 3) : Statement (.lminp a) := toBytes_length
theorem ldraw : Statement .ldraw := toBytes_length
theorem ldrawGreedy : Statement .ldrawGreedy := toBytes_length
theorem lcount : Statement .lcount := toBytes_length
theorem lend : Statement .lend := toBytes_length
theorem ecopy (m : Msg) : Statement (.ecopy m) := toBytes_length
theorem estride (m : Msg) : Statement (.estride m) := toBytes_length
theorem eragged (m : Msg) : Statement (.eragged m) := toBytes_length
theorem egather (m : Msg) : Statement (.egather m) := toBytes_length
theorem escatter (m : Msg) : Statement (.escatter m) := toBytes_length
theorem efill (m : Msg) : Statement (.efill m) := toBytes_length
theorem ereduce (m : Msg) : Statement (.ereduce m) := toBytes_length
theorem ejoin (m : Msg) : Statement (.ejoin m) := toBytes_length
theorem esignal (m : Msg) : Statement (.esignal m) := toBytes_length
theorem everify (m : Msg) : Statement (.everify m) := toBytes_length
theorem sseq (m : Msg) : Statement (.sseq m) := toBytes_length
theorem sbatch (m : Msg) : Statement (.sbatch m) := toBytes_length
theorem slaunch (m : Msg) : Statement (.slaunch m) := toBytes_length
theorem sgraph (m : Msg) : Statement (.sgraph m) := toBytes_length
theorem sopen (m : Msg) : Statement (.sopen m) := toBytes_length
theorem scancel (m : Msg) : Statement (.scancel m) := toBytes_length
theorem nput (m : Msg) : Statement (.nput m) := toBytes_length
theorem nget (m : Msg) : Statement (.nget m) := toBytes_length
theorem npost (m : Msg) : Statement (.npost m) := toBytes_length
theorem ncoll (m : Msg) : Statement (.ncoll m) := toBytes_length
theorem mretire (m : Msg) : Statement (.mretire m) := toBytes_length
theorem mdie (m : Msg) : Statement (.mdie m) := toBytes_length
theorem mrecal (m : Msg) : Statement (.mrecal m) := toBytes_length
theorem mfw (m : Msg) : Statement (.mfw m) := toBytes_length
theorem mattest (m : Msg) : Statement (.mattest m) := toBytes_length
theorem mrecord (m : Msg) : Statement (.mrecord m) := toBytes_length
theorem beginLoad (die cell : Nat) : Statement (.beginLoad die cell) := rfl
theorem sealLoad (die cell : Nat) (crc : BitVec 32) : Statement (.sealLoad die cell crc) := rfl
theorem clearLoad (die cell : Nat) : Statement (.clearLoad die cell) := rfl
theorem moduleReset (fails : List (Nat × Nat)) (found : List StartFind) : Statement (.moduleReset fails found) := rfl
theorem thermalTrip : Statement .thermalTrip := rfl
theorem arbiterGrant (die cell : Nat) : Statement (.arbiterGrant die cell) := rfl
theorem forcedGrant (die cell : Nat) : Statement (.forcedGrant die cell) := rfl
theorem arbiterWeightRefresh (die cell : Nat) : Statement (.arbiterWeightRefresh die cell) := rfl
theorem yieldExpiry (x : CtxId) : Statement (.yieldExpiry x) := rfl
theorem terminalShift (x : CtxId) : Statement (.terminalShift x) := rfl
theorem nonterminalLookup (x : CtxId) : Statement (.nonterminalLookup x) := rfl
theorem actionStep (x : CtxId) : Statement (.actionStep x) := rfl
theorem endStep (x : CtxId) : Statement (.endStep x) := rfl
theorem roundClose (x : CtxId) : Statement (.roundClose x) := rfl
theorem recovery (x : CtxId) : Statement (.recovery x) := rfl
theorem roundCommit (x : CtxId) : Statement (.roundCommit x) := rfl
theorem unitDone (x : CtxId) : Statement (.unitDone x) := rfl
theorem unitStop (x : CtxId) : Statement (.unitStop x) := rfl
theorem messageDeparture (die cell k : Nat) : Statement (.messageDeparture die cell k) := rfl
theorem beatDeparture (x : CtxId) (port : Nat) : Statement (.beatDeparture x port) := rfl
theorem beatArrival (k : Nat) : Statement (.beatArrival k) := rfl
theorem inboxMessageDelivery (k : Nat) : Statement (.inboxMessageDelivery k) := rfl
theorem loadDataArrival (x : CtxId) (k : Nat) (e : Ecc) : Statement (.loadDataArrival x k e) := rfl
theorem atomicOldValueReturn (x : CtxId) (k : Nat) : Statement (.atomicOldValueReturn x k) := rfl
theorem waitwSatisfied (x : CtxId) (k : Nat) : Statement (.waitwSatisfied x k) := rfl
theorem cstatFill (x : CtxId) (k : Nat) : Statement (.cstatFill x k) := rfl
theorem lookaheadFill (x : CtxId) (k : Nat) : Statement (.lookaheadFill x k) := rfl
theorem translationWalk (k : Nat) : Statement (.translationWalk k) := rfl
theorem walkResult (k : Nat) : Statement (.walkResult k) := rfl
theorem faultResolution (die slot : Nat) : Statement (.faultResolution die slot) := rfl
theorem tlbinvAcknowledge (x : CtxId) : Statement (.tlbinvAcknowledge x) := rfl
theorem mmaRowFire (die cell : Nat) : Statement (.mmaRowFire die cell) := rfl
theorem mldbFill (die cell : Nat) : Statement (.mldbFill die cell) := rfl
theorem mswapEffect (die cell : Nat) : Statement (.mswapEffect die cell) := rfl
theorem closingUnitOperation (die cell : Nat) : Statement (.closingUnitOperation die cell) := rfl
theorem childArrival (k : Nat) : Statement (.childArrival k) := rfl
theorem release (k : Nat) : Statement (.release k) := rfl
theorem engineCommandStart (box q j : Nat) : Statement (.engineCommandStart box q j) := rfl
theorem commandMigration (box q j box2 : Nat) : Statement (.commandMigration box q j box2) := rfl
theorem engineCommandFinish (box q j : Nat) : Statement (.engineCommandFinish box q j) := rfl
theorem messageRingRecord (box q j : Nat) : Statement (.messageRingRecord box q j) := rfl
theorem batchStart (die : Nat) : Statement (.batchStart die) := rfl
theorem samplerEofDiscard (x : CtxId) (port : Nat) : Statement (.samplerEofDiscard x port) := rfl
theorem lap1 (die : Nat) : Statement (.lap1 die) := rfl
theorem lap2 (die : Nat) : Statement (.lap2 die) := rfl
theorem batchCompletion (die : Nat) : Statement (.batchCompletion die) := rfl
theorem graphAdmission (die k : Nat) : Statement (.graphAdmission die k) := rfl
theorem dispatch (die : Nat) (cls : Target) : Statement (.dispatch die cls) := rfl
theorem nodeReply (k : Nat) : Statement (.nodeReply k) := rfl
theorem poolGrant (die : Nat) : Statement (.poolGrant die) := rfl
theorem entryAgeing (die k : Nat) : Statement (.entryAgeing die k) := rfl
theorem poolFault (die : Nat) : Statement (.poolFault die) := rfl
theorem pageLoad (k : Nat) : Statement (.pageLoad k) := rfl
theorem preemptFreeze (die : Nat) : Statement (.preemptFreeze die) := rfl
theorem freezeWave (k : Nat) : Statement (.freezeWave k) := rfl
theorem contextStop (x : CtxId) : Statement (.contextStop x) := rfl
theorem imageReadout (k : Nat) : Statement (.imageReadout k) := rfl
theorem restore (k : Nat) : Statement (.restore k) := rfl
theorem budgetWindow (k : Nat) : Statement (.budgetWindow k) := rfl
theorem governorUpdate (k budget : Nat) : Statement (.governorUpdate k budget) := rfl
theorem hostMsgWrite (win off : Nat) (bytes : List Byte) : Statement (.hostMsgWrite win off bytes) := rfl
theorem windowHandover (win : Nat) : Statement (.windowHandover win) := rfl
theorem ctlWrite (win : Nat) (val : BitVec 64) : Statement (.ctlWrite win val) := rfl
theorem hostRingWrite (k : Nat) : Statement (.hostRingWrite k) := rfl
theorem hostHbmAccess (addr len : Nat) (data : Option (List Byte)) : Statement (.hostHbmAccess addr len data) := rfl
theorem hostRequestCompletion (k : Nat) (bad : Bool) : Statement (.hostRequestCompletion k bad) := rfl
theorem registerWrite (reg : HostReg) (val : BitVec 64) : Statement (.registerWrite reg val) := rfl
theorem inboundPacket (p : Packet) : Statement (.inboundPacket p) := rfl
theorem transportAcknowledgement (q : Nat) (ack : NetAck) : Statement (.transportAcknowledgement q ack) := rfl
theorem timeout (q : Nat) : Statement (.timeout q) := rfl
theorem congestionEntryWrite (peer : Nat) (entry : BitVec 128) : Statement (.congestionEntryWrite peer entry) := rfl
theorem coreRestart (die core : Nat) (ok : Bool) : Statement (.coreRestart die core ok) := rfl
theorem recalibrationEnd (stack chan : Nat) : Statement (.recalibrationEnd stack chan) := rfl

end Sys2Proof.Laws.WellEncoded
end

