-- ==== Sys2Proof/Laws/Service.lean ====
section
/-!
SUPPORT. The start record: a sealed record is one whose CRC is correct (R211, R378).
-/

namespace Sys2Proof.Machine

theorem crcBit_lt {c : Nat} (h : c < 2 ^ 32) : crcBit c < 2 ^ 32 := by
  unfold crcBit
  split
  · exact Nat.xor_lt_two_pow (by omega) (by norm_num)
  · omega

theorem crcByte_lt {c : Nat} {b : Byte} (h : c < 2 ^ 32) : crcByte c b < 2 ^ 32 := by
  have fold (l : List Nat) : ∀ c, c < 2 ^ 32 → l.foldl (fun c _ => crcBit c) c < 2 ^ 32 := by
    induction l with
    | nil => exact fun _ h => h
    | cons _ _ ih => exact fun c h => ih _ (crcBit_lt h)
  exact fold _ _ (Nat.xor_lt_two_pow h (lt_trans b.isLt (by norm_num)))

theorem crcRaw_lt {c : Nat} {bs : List Byte} : crcRaw c bs < 2 ^ 32 := by
  have fold (l : List Byte) : ∀ c, c < 2 ^ 32 → l.foldl crcByte c < 2 ^ 32 := by
    induction l with
    | nil => exact fun _ h => h
    | cons _ _ ih => exact fun c h => ih _ (crcByte_lt h)
  exact fold _ _ (Nat.mod_lt _ (by norm_num))

/-- A CRC-32C has 32 bits. -/
theorem crcMore_lt {c : Nat} {bs : List Byte} : crcMore c bs < 2 ^ 32 :=
  Nat.xor_lt_two_pow (by norm_num) crcRaw_lt

/-- A record sealed over its first 2,032 bytes is correct, and gives them back. -/
theorem sealRecord_ok {body : List Byte} (h : body.length = 2032) :
    recordOk (sealRecord body) = true ∧ (sealRecord body).take 2032 = body := by
  have ht : (sealRecord body).take 2032 = body := by
    rw [sealRecord, List.append_assoc, List.take_append_of_le_length (by omega), ← h, List.take_length]
  have hd : ((sealRecord body).drop 2032).take 4 = toBytes 4 (crcMore 0 body) := by
    rw [sealRecord, List.append_assoc, ← h, List.drop_left, List.take_append_of_le_length (by simp),
      List.take_of_length_le (by simp)]
  have hl : (sealRecord body).length = 2048 := by simp [sealRecord, h]
  refine ⟨?_, ht⟩
  rw [recordOk, ht, hd, hl, ofBytes_toBytes, Nat.mod_eq_of_lt (lt_of_lt_of_le crcMore_lt (by norm_num))]
  simp

end Sys2Proof.Machine
end

