-- ==== Sys2Proof/Laws/State.lean ====
section
/-!
SUPPORT. The fields of the state under each update: sparse maps, cells, contexts, registers. Later proofs cite these and unfold no record.
-/

namespace Sys2Proof.Machine

/-! ### Sparse maps -/

/-- A key just set reads as set. -/
@[simp] theorem SMap.get?_set_self {α : Type} {m : SMap α} {k : Nat} {v : α} : (m.set k v).get? k = some v := by
  induction m with
  | nil => simp [SMap.set, SMap.get?]
  | cons e r ih => obtain ⟨k', v'⟩ := e; simp only [SMap.set]; split <;> simp_all [SMap.get?]

/-- Setting a key leaves the others. -/
theorem SMap.get?_set_ne {α : Type} {m : SMap α} {k j : Nat} {v : α} (h : j ≠ k) : (m.set k v).get? j = m.get? j := by
  induction m with
  | nil => simp [SMap.set, SMap.get?, h.symm]
  | cons e r ih =>
    obtain ⟨k', v'⟩ := e
    simp only [SMap.set]
    split
    · rename_i hk; subst hk; simp [SMap.get?, h.symm]
    · simp only [SMap.get?, ih]

/-- A key just set reads as set, with a default. -/
@[simp] theorem SMap.getD_set_self {α : Type} {m : SMap α} {k : Nat} {v d : α} : (m.set k v).getD k d = v := by
  simp [SMap.getD]

/-- Setting a key leaves the others, with a default. -/
theorem SMap.getD_set_ne {α : Type} {m : SMap α} {k j : Nat} {v d : α} (h : j ≠ k) : (m.set k v).getD j d = m.getD j d := by
  simp [SMap.getD, SMap.get?_set_ne h]

/-! ### Cells -/

@[simp] theorem cell_setCell_self (s : State) (ck : Nat) (c : Cell) : (s.setCell ck c).cell ck = c := by
  simp [State.setCell, State.cell]

theorem cell_setCell_ne (s : State) {ck j : Nat} (c : Cell) (h : j ≠ ck) : (s.setCell ck c).cell j = s.cell j := by
  simp [State.setCell, State.cell, SMap.getD_set_ne h]

@[simp] theorem cell_modCell_self (s : State) (ck : Nat) (f : Cell → Cell) : (s.modCell ck f).cell ck = f (s.cell ck) := by
  simp [State.modCell]

theorem cell_modCell_ne (s : State) {ck j : Nat} (f : Cell → Cell) (h : j ≠ ck) : (s.modCell ck f).cell j = s.cell j := by
  simp [State.modCell, cell_setCell_ne _ _ h]

@[simp] theorem mem_modCell (s : State) (ck : Nat) (f : Cell → Cell) : (s.modCell ck f).mem = s.mem := rfl
@[simp] theorem cur_modCell (s : State) (ck : Nat) (f : Cell → Cell) : (s.modCell ck f).cur = s.cur := rfl
@[simp] theorem clk_modCell (s : State) (ck : Nat) (f : Cell → Cell) : (s.modCell ck f).clk = s.clk := rfl
@[simp] theorem sys_modCell (s : State) (ck : Nat) (f : Cell → Cell) : (s.modCell ck f).sys = s.sys := rfl
@[simp] theorem host_modCell (s : State) (ck : Nat) (f : Cell → Cell) : (s.modCell ck f).host = s.host := rfl
@[simp] theorem scheds_modCell (s : State) (ck : Nat) (f : Cell → Cell) : (s.modCell ck f).scheds = s.scheds := rfl
@[simp] theorem boxes_modCell (s : State) (ck : Nat) (f : Cell → Cell) : (s.modCell ck f).boxes = s.boxes := rfl
@[simp] theorem transit_modCell (s : State) (ck : Nat) (f : Cell → Cell) : (s.modCell ck f).transit = s.transit := rfl
@[simp] theorem flights_modCell (s : State) (ck : Nat) (f : Cell → Cell) : (s.modCell ck f).flights = s.flights := rfl
@[simp] theorem floors_modCell (s : State) (ck : Nat) (f : Cell → Cell) : (s.modCell ck f).floors = s.floors := rfl
@[simp] theorem pages_modCell (s : State) (ck : Nat) (f : Cell → Cell) : (s.modCell ck f).pages = s.pages := rfl
@[simp] theorem samplers_modCell (s : State) (ck : Nat) (f : Cell → Cell) : (s.modCell ck f).samplers = s.samplers := rfl
@[simp] theorem serial_modCell (s : State) (ck : Nat) (f : Cell → Cell) : (s.modCell ck f).serial = s.serial := rfl
@[simp] theorem fresh_modCell (s : State) (ck : Nat) (f : Cell → Cell) : (s.modCell ck f).fresh = s.fresh := rfl
@[simp] theorem watches_modCell (s : State) (ck : Nat) (f : Cell → Cell) : (s.modCell ck f).watches = s.watches := rfl
@[simp] theorem frozen_modCell (s : State) (ck : Nat) (f : Cell → Cell) : (s.modCell ck f).frozen = s.frozen := rfl

/-! ### Contexts -/

@[simp] theorem cell_ctx_set_self (k : Cell) (i : Nat) (c : Ctx) : ({ k with ctxs := k.ctxs.set i c } : Cell).ctx i = c := by
  simp [Cell.ctx]

@[simp] theorem ctx_setCtx_self (s : State) (x : CtxId) (c : Ctx) : (s.setCtx x c).ctx x = c := by
  simp [State.setCtx, State.ctx]

/-- Another context is one of another cell or of another number. -/
theorem ctx_setCtx_ne (s : State) {x y : CtxId} (c : Ctx) (h : y.ck ≠ x.ck ∨ y.ctx ≠ x.ctx) : (s.setCtx x c).ctx y = s.ctx y := by
  simp only [State.setCtx, State.ctx]
  by_cases hk : y.ck = x.ck
  · rw [hk, cell_modCell_self]
    simp [Cell.ctx, SMap.getD_set_ne (h.resolve_left (fun hn => hn hk))]
  · rw [cell_modCell_ne _ _ hk]

@[simp] theorem ctx_modCtx_self (s : State) (x : CtxId) (f : Ctx → Ctx) : (s.modCtx x f).ctx x = f (s.ctx x) := by
  simp [State.modCtx]

theorem ctx_modCtx_ne (s : State) {x y : CtxId} (f : Ctx → Ctx) (h : y.ck ≠ x.ck ∨ y.ctx ≠ x.ctx) :
    (s.modCtx x f).ctx y = s.ctx y := ctx_setCtx_ne s _ h

@[simp] theorem mem_setCtx (s : State) (x : CtxId) (c : Ctx) : (s.setCtx x c).mem = s.mem := rfl
@[simp] theorem cur_setCtx (s : State) (x : CtxId) (c : Ctx) : (s.setCtx x c).cur = s.cur := rfl
@[simp] theorem clk_setCtx (s : State) (x : CtxId) (c : Ctx) : (s.setCtx x c).clk = s.clk := rfl
@[simp] theorem serial_setCtx (s : State) (x : CtxId) (c : Ctx) : (s.setCtx x c).serial = s.serial := rfl
@[simp] theorem mem_modCtx (s : State) (x : CtxId) (f : Ctx → Ctx) : (s.modCtx x f).mem = s.mem := rfl
@[simp] theorem cur_modCtx (s : State) (x : CtxId) (f : Ctx → Ctx) : (s.modCtx x f).cur = s.cur := rfl
@[simp] theorem clk_modCtx (s : State) (x : CtxId) (f : Ctx → Ctx) : (s.modCtx x f).clk = s.clk := rfl
@[simp] theorem sys_modCtx (s : State) (x : CtxId) (f : Ctx → Ctx) : (s.modCtx x f).sys = s.sys := rfl
@[simp] theorem host_modCtx (s : State) (x : CtxId) (f : Ctx → Ctx) : (s.modCtx x f).host = s.host := rfl
@[simp] theorem scheds_modCtx (s : State) (x : CtxId) (f : Ctx → Ctx) : (s.modCtx x f).scheds = s.scheds := rfl
@[simp] theorem boxes_modCtx (s : State) (x : CtxId) (f : Ctx → Ctx) : (s.modCtx x f).boxes = s.boxes := rfl
@[simp] theorem transit_modCtx (s : State) (x : CtxId) (f : Ctx → Ctx) : (s.modCtx x f).transit = s.transit := rfl
@[simp] theorem flights_modCtx (s : State) (x : CtxId) (f : Ctx → Ctx) : (s.modCtx x f).flights = s.flights := rfl
@[simp] theorem floors_modCtx (s : State) (x : CtxId) (f : Ctx → Ctx) : (s.modCtx x f).floors = s.floors := rfl
@[simp] theorem pages_modCtx (s : State) (x : CtxId) (f : Ctx → Ctx) : (s.modCtx x f).pages = s.pages := rfl
@[simp] theorem samplers_modCtx (s : State) (x : CtxId) (f : Ctx → Ctx) : (s.modCtx x f).samplers = s.samplers := rfl
@[simp] theorem serial_modCtx (s : State) (x : CtxId) (f : Ctx → Ctx) : (s.modCtx x f).serial = s.serial := rfl
@[simp] theorem fresh_modCtx (s : State) (x : CtxId) (f : Ctx → Ctx) : (s.modCtx x f).fresh = s.fresh := rfl
@[simp] theorem watches_modCtx (s : State) (x : CtxId) (f : Ctx → Ctx) : (s.modCtx x f).watches = s.watches := rfl
@[simp] theorem frozen_modCtx (s : State) (x : CtxId) (f : Ctx → Ctx) : (s.modCtx x f).frozen = s.frozen := rfl
@[simp] theorem barWaits_modCtx (s : State) (x : CtxId) (f : Ctx → Ctx) : (s.modCtx x f).barWaits = s.barWaits := rfl
@[simp] theorem shoots_modCtx (s : State) (x : CtxId) (f : Ctx → Ctx) : (s.modCtx x f).shoots = s.shoots := rfl

/-- What a change of one context leaves of its cell. -/
theorem cell_modCtx (s : State) (x : CtxId) (f : Ctx → Ctx) :
    (s.modCtx x f).cell x.ck = { s.cell x.ck with ctxs := (s.cell x.ck).ctxs.set x.ctx (f (s.ctx x)) } := by
  simp [State.modCtx, State.setCtx]

@[simp] theorem island_modCtx (s : State) (x : CtxId) (f : Ctx → Ctx) (ck : Nat) :
    ((s.modCtx x f).cell ck).island = (s.cell ck).island := by
  by_cases h : ck = x.ck
  · subst h; rw [cell_modCtx]
  · rw [State.modCtx, State.setCtx, cell_modCell_ne _ _ h]

@[simp] theorem accs_modCtx (s : State) (x : CtxId) (f : Ctx → Ctx) (ck : Nat) :
    ((s.modCtx x f).cell ck).accs = (s.cell ck).accs := by
  by_cases h : ck = x.ck
  · subst h; rw [cell_modCtx]
  · rw [State.modCtx, State.setCtx, cell_modCell_ne _ _ h]

/-- A change of a cell that leaves its contexts leaves every context. -/
theorem ctx_modCell (s : State) (ck : Nat) (f : Cell → Cell) (y : CtxId) (h : (f (s.cell ck)).ctxs = (s.cell ck).ctxs) :
    (s.modCell ck f).ctx y = s.ctx y := by
  simp only [State.ctx]
  by_cases hk : y.ck = ck
  · rw [hk, cell_modCell_self]; simp [Cell.ctx, h]
  · rw [cell_modCell_ne _ _ hk]

/-! ### Registers (R15, R21) -/

@[simp] theorem rs_zero (a : Arch) : a.rs 0 = 0 := rfl
@[simp] theorem ws_zero (a : Arch) (v : Word) : a.ws 0 v = a := rfl

/-- A scalar register just written. -/
theorem rs_ws_self (a : Arch) {i : Nat} (v : Word) (h0 : i ≠ 0) (h : i < 64) : (a.ws i v).rs i = v := by
  simp [Arch.ws, Arch.rs, h0, h]

/-- Another scalar register. -/
theorem rs_ws_ne (a : Arch) {i j : Nat} (v : Word) (h : j ≠ i) : (a.ws i v).rs j = a.rs j := by
  unfold Arch.ws
  split
  · rfl
  · simp only [Arch.rs]
    split
    · rfl
    · rw [Vector.getElem?_setIfInBounds_ne (Ne.symm h)]

/-- A vector register just written. -/
theorem rv_wv_self (a : Arch) {i : Nat} (v : Vec) (h : i < 32) : (a.wv i v).rv i = v := by simp [Arch.wv, Arch.rv, h]

/-- Another vector register. -/
theorem rv_wv_ne (a : Arch) {i j : Nat} (v : Vec) (h : j ≠ i) : (a.wv i v).rv j = a.rv j := by
  simp only [Arch.wv, Arch.rv]; rw [Vector.getElem?_setIfInBounds_ne (Ne.symm h)]

/-- A mask register just written. -/
theorem rm_wm_self (a : Arch) {i : Nat} (v : Mask) (h : i < 16) : (a.wm i v).rm i = v := by simp [Arch.wm, Arch.rm, h]

/-- Another mask register. -/
theorem rm_wm_ne (a : Arch) {i j : Nat} (v : Mask) (h : j ≠ i) : (a.wm i v).rm j = a.rm j := by
  simp only [Arch.wm, Arch.rm]; rw [Vector.getElem?_setIfInBounds_ne (Ne.symm h)]

@[simp] theorem rp_zero (a : Arch) : a.rp 0 = true := rfl
@[simp] theorem wp_zero (a : Arch) (b : Bool) : a.wp 0 b = a := rfl

/-- A predicate just written. -/
theorem rp_wp_self (a : Arch) {i : Nat} (b : Bool) (h0 : i ≠ 0) (h : i < 8) : (a.wp i b).rp i = b := by
  have hi : (BitVec.ofNat 8 (2 ^ i)).getLsbD i = true := by
    rw [BitVec.getLsbD_ofNat]; simp [h]
  simp only [Arch.wp, Arch.rp, if_neg h0]
  cases b
  · simp only [Bool.false_eq_true, if_false, BitVec.getLsbD_and, BitVec.getLsbD_not, hi, Bool.not_true, Bool.and_false]
  · simp only [if_true, BitVec.getLsbD_or, hi, Bool.or_true]

/-- Another predicate. -/
theorem rp_wp_ne (a : Arch) {i j : Nat} (b : Bool) (h : j ≠ i) : (a.wp i b).rp j = a.rp j := by
  unfold Arch.wp
  split
  · rfl
  · simp only [Arch.rp]
    split
    · rfl
    · have hi : (BitVec.ofNat 8 (2 ^ i)).getLsbD j = false := by
        rw [BitVec.getLsbD_ofNat]; simp [h.symm]
      cases b
      · simp only [Bool.false_eq_true, if_false, BitVec.getLsbD_and, BitVec.getLsbD_not, hi]
        by_cases hj : j < 8
        · simp [hj]
        · simp [hj, BitVec.getLsbD_of_ge a.p j (by omega)]
      · simp only [if_true, BitVec.getLsbD_or, hi, Bool.or_false]

end Sys2Proof.Machine
end

