-- ==== Sys2Proof/Laws/Words.lean ====
section
/-!
SUPPORT. How a word ends: one lemma per shared operation of the action words, which says everything that it does when its operands are
there.
-/

namespace Sys2Proof

open Sys2Proof.Machine

/-! ### Checks -/

/-- A list of checks that all pass. -/
theorem firstRes_none {l : List (Option Res)} (h : ∀ e ∈ l, e = none) : firstRes l = none := by
  induction l with
  | nil => rfl
  | cons e r ih => rw [h e List.mem_cons_self]; exact ih (fun x hx => h x (List.mem_cons_of_mem _ hx))

/-- A register that a word names, when its operands are there. -/
theorem available_reg {c : Ctx} {srcs dsts : List Operand} (h : available c srcs dsts = true) {o : Operand}
    (ho : o ∈ srcs ++ dsts) {r : Reg} (hr : Operand.reg o = some r) :
    Reg.exists? r = true ∧ c.arch.full r = true ∧ c.settling r = false := by
  simp only [available, Bool.and_eq_true, List.all_eq_true] at h
  have := h.1 o ho
  rw [hr] at this
  simpa [and_assoc] using this

/-- A port that a word reads, when its operands are there. -/
theorem available_port {c : Ctx} {srcs dsts : List Operand} (h : available c srcs dsts = true) {o : Operand}
    (ho : o ∈ srcs) (h4 : o.cls = 4) :
    o.idx ≠ 1 ∧ (o.idx ≠ 0 → (c.port o.idx.toNat).out = false ∧ (c.port o.idx.toNat).head?.isSome = true) := by
  simp only [available, Bool.and_eq_true, List.all_eq_true] at h
  have := h.2 o ho
  simp only [h4, bne_self_eq_false, Bool.false_or, Bool.and_eq_true, bne_iff_ne, ne_eq, Bool.or_eq_true, beq_iff_eq,
    Bool.not_eq_true'] at this
  exact ⟨this.1, fun hn => this.2.resolve_left hn⟩

/-- No source is empty when the operands are there. -/
theorem emptySrc_of_available {c : Ctx} {srcs dsts : List Operand} (h : available c srcs dsts = true) {o : Operand}
    (ho : o ∈ srcs) : c.emptySrc o = none := by
  unfold Ctx.emptySrc
  split
  · rename_i r hr; rw [if_pos (available_reg h (List.mem_append_left _ ho) hr).2.1]
  · split
    · rename_i h4
      have hp := (available_port h ho h4.1).2 (by rintro he; rw [he] at h4; simp at h4)
      simp [hp.2]
    · rfl

/-- No port is misused when the operands are there. -/
theorem srcMisuse_of_available {c : Ctx} {srcs dsts : List Operand} (h : available c srcs dsts = true) {o : Operand}
    (ho : o ∈ srcs) : c.srcMisuse o = none := by
  unfold Ctx.srcMisuse
  split
  · rename_i h4
    have hp := available_port h ho h4
    rw [if_neg hp.1]
    split
    · rename_i h0; exact absurd (hp.2 h0.1).1 (by simp [h0.2])
    · rfl
  · rfl

/-- The checks of R22 to R25 pass when the operands are there. -/
theorem check_of_available {c : Ctx} {srcs dsts : List Operand} (h : available c srcs dsts = true) : c.check srcs dsts = none := by
  apply firstRes_none
  intro e he
  simp only [List.mem_append, List.mem_map, List.mem_filterMap] at he
  rcases he with (((⟨o, ho, rfl⟩ | ⟨o, ho, rfl⟩) | ⟨r, ⟨o, ho, hr⟩, rfl⟩) | ⟨r, ⟨o, ho, hr⟩, rfl⟩) | ⟨o, ho, rfl⟩
  · simp [emptySrc_of_available h ho]
  · simp [emptySrc_of_available h ho]
  · rw [if_pos (available_reg h (List.mem_append_right _ ho) hr).2.1]
  · rw [if_neg (by simp [(available_reg h (by simpa using ho) hr).2.2])]
  · exact srcMisuse_of_available h ho

/-- A word waits for no merge when none of its ports is being merged. -/
theorem mergeWaits_of_noMerges {s : State} {srcs : List Operand} (h : noMerges s srcs = true) : s.mergeWaits srcs = none := by
  have hl : srcs.any (fun o => o.cls == 4 && s.merging s.cur o.idx.toNat) = false := by
    simp only [noMerges, List.all_eq_true] at h
    simp only [List.any_eq_false]
    intro o ho
    have := h o ho
    simp only [bne] at this
    revert this
    cases o.cls == 4 <;> cases s.merging s.cur o.idx.toNat <;> simp
  exact if_pos (by simp only [hl, Bool.not_false])

/-- A body runs when its operands are there. -/
theorem srcs_of_available {s : State} {srcs dsts : List Operand} {k : Ctx → Res}
    (h : available (s.ctx s.cur) srcs dsts = true ∧ noMerges s srcs = true) : s.srcs srcs dsts k = k (s.ctx s.cur) := by
  simp only [State.srcs, check_of_available h.1, mergeWaits_of_noMerges h.2, firstRes]

/-- A word with true guards ends as its body does. -/
theorem word_of_guards {s : State} {w : Fields} {body : State → Res} (h : (s.ctx s.cur).arch.guards w = true) :
    s.word w body = s.finish s.cur w.y (body s) := by
  simp only [State.word, h, if_true]

/-- A word with a false guard does nothing and the context moves on (R64). -/
theorem word_of_not_guards {s : State} {w : Fields} {body : State → Res} (h : (s.ctx s.cur).arch.guards w = false) :
    s.word w body = s.finish s.cur w.y (.ok s) := by
  simp [State.word, h]

/-! ### Ports -/

@[simp] theorem arch_setPort (c : Ctx) (q : Nat) (p : Port) : (c.setPort q p).arch = c.arch := rfl

/-- Consuming beats, port by port (R109). -/
theorem consume_port {c : Ctx} {srcs : List Operand} {q : Nat} :
    (c.consume srcs).port q = if q ∈ consumed srcs then (c.port q).take else c.port q := by
  have hnd : (consumed srcs).Nodup := List.nodup_dedup _
  unfold Ctx.consume
  generalize consumed srcs = l at hnd
  induction l generalizing c with
  | nil => simp
  | cons p r ih =>
    obtain ⟨hp, hr⟩ := List.nodup_cons.mp hnd
    rw [List.foldl_cons, ih hr]
    by_cases hq : q = p
    · subst hq
      rw [if_neg hp, if_pos List.mem_cons_self]
      simp [Ctx.setPort, Ctx.port]
    · have : (c.setPort p (c.port p).take).port q = c.port q := by
        simp only [Ctx.setPort, Ctx.port]; rw [SMap.getD_set_ne hq]
      rw [this]
      simp [hq]

/-- Consuming beats changes ports alone. -/
theorem consume_eq {c : Ctx} {srcs : List Operand} : c.consume srcs = { c with ports := (c.consume srcs).ports } := by
  unfold Ctx.consume
  induction consumed srcs generalizing c with
  | nil => rfl
  | cons p r ih => rw [List.foldl_cons, ih]; rfl

/-! ### The end of a word -/

/-- A body that is done. -/
theorem finish_ok {s t : State} {w : Fields} : s.finish s.cur w.y (.ok t) = .next (afterWord s t w) := rfl

/-- The context after a word. -/
theorem afterWord_ctx {s t : State} {w : Fields} :
    (afterWord s t w).ctx s.cur = { t.ctx s.cur with
      arch := (t.ctx s.cur).arch.advance, wait := .none,
      yieldTo := if w.y then max (t.ctx s.cur).yieldTo (t.clk.toNat + 2) else (t.ctx s.cur).yieldTo } := by
  unfold afterWord
  rw [ctx_modCtx_self]
  have hi : (t.issued s.cur).ctx s.cur = { t.ctx s.cur with wait := .none } := by
    unfold State.issued
    rw [ctx_modCell _ _ _ _ rfl, ctx_modCtx_self]
  unfold State.yieldBit
  split
  · rename_i hy
    rw [ctx_modCtx_self, hi]
    simp [State.issued]
  · rw [hi]

/-- The other contexts after a word. -/
theorem afterWord_others {s t : State} {w : Fields} {y : CtxId} (h : y.ck ≠ s.cur.ck ∨ y.ctx ≠ s.cur.ctx) :
    (afterWord s t w).ctx y = t.ctx y := by
  unfold afterWord State.yieldBit State.issued
  rw [ctx_modCtx_ne _ _ h]
  split
  · rw [ctx_modCtx_ne _ _ h, ctx_modCell _ _ _ _ rfl, ctx_modCtx_ne _ _ h]
  · rw [ctx_modCell _ _ _ _ rfl, ctx_modCtx_ne _ _ h]

/-- Changes of cells one after the other. -/
theorem rest_trans {s t u : State} (h : { t with cells := s.cells } = s) (h' : { u with cells := t.cells } = t) :
    { u with cells := s.cells } = s := (congrArg (fun v : State => { v with cells := s.cells }) h').trans h

theorem modCtx_rest (s : State) (x : CtxId) (f : Ctx → Ctx) : { s.modCtx x f with cells := s.cells } = s := rfl
theorem modCell_rest (s : State) (ck : Nat) (f : Cell → Cell) : { s.modCell ck f with cells := s.cells } = s := rfl

/-- What a word leaves outside its effect. -/
theorem afterWord_rest {s t : State} {w : Fields} : { afterWord s t w with cells := t.cells } = t := by
  refine rest_trans (rest_trans (t := t.issued s.cur) (rest_trans (modCtx_rest t _ _) (modCell_rest _ _ _)) ?_) (modCtx_rest _ _ _)
  unfold State.yieldBit
  split
  · exact modCtx_rest _ _ _
  · rfl

@[simp] theorem afterWord_mem {s t : State} {w : Fields} : (afterWord s t w).mem = t.mem := by
  unfold afterWord State.yieldBit
  split <;> rfl

/-- A cell but for its contexts and its grant, after a change of a context. -/
theorem cell_modCtx_rest (s : State) (x : CtxId) (f : Ctx → Ctx) (ck : Nat) :
    { (s.modCtx x f).cell ck with ctxs := (s.cell ck).ctxs, grant := (s.cell ck).grant } = s.cell ck := by
  by_cases h : ck = x.ck
  · subst h; rw [cell_modCtx]
  · rw [State.modCtx, State.setCtx, cell_modCell_ne _ _ h]

/-- A cell but for its contexts and its grant, after a word. -/
theorem afterWord_cell {s t : State} {w : Fields} (ck : Nat) :
    { (afterWord s t w).cell ck with ctxs := (t.cell ck).ctxs, grant := (t.cell ck).grant } = t.cell ck := by
  have hi : { (t.issued s.cur).cell ck with ctxs := (t.cell ck).ctxs, grant := (t.cell ck).grant } = t.cell ck := by
    unfold State.issued
    by_cases h : ck = s.cur.ck
    · subst h; rw [cell_modCell_self]; exact cell_modCtx_rest t s.cur _ _
    · rw [cell_modCell_ne _ _ h]; exact cell_modCtx_rest t s.cur _ _
  have hy : { ((t.issued s.cur).yieldBit s.cur w.y).cell ck with ctxs := (t.cell ck).ctxs, grant := (t.cell ck).grant } = t.cell ck := by
    unfold State.yieldBit
    split
    · rw [← hi]
      have := cell_modCtx_rest (t.issued s.cur) s.cur
        (fun c => { c with yieldTo := max c.yieldTo ((t.issued s.cur).clk.toNat + 2) }) ck
      rw [← this]
    · exact hi
  rw [← hy]
  have := cell_modCtx_rest ((t.issued s.cur).yieldBit s.cur w.y) s.cur (fun c => { c with arch := c.arch.advance }) ck
  rw [← this]
  rfl

/-! ### Words that only compute -/

@[simp] theorem advance_rs (a : Arch) (i : Nat) : a.advance.rs i = a.rs i := by unfold Arch.advance; split <;> rfl
@[simp] theorem advance_rv (a : Arch) (i : Nat) : a.advance.rv i = a.rv i := by unfold Arch.advance; split <;> rfl
@[simp] theorem advance_rm (a : Arch) (i : Nat) : a.advance.rm i = a.rm i := by unfold Arch.advance; split <;> rfl
@[simp] theorem advance_rp (a : Arch) (i : Nat) : a.advance.rp i = a.rp i := by unfold Arch.advance; split <;> rfl

/-- Moving on changes the position alone. -/
theorem advance_eq (a : Arch) : a.advance = { a with pos := a.advance.pos } := by unfold Arch.advance; split <;> rfl

/-- Everything that a word does whose body only computes: `a` is the register state it leaves. -/
theorem computes_alu {s : State} {w : Fields} {srcs : List Operand} {a : Arch} (hp : a.pos = (s.ctx s.cur).arch.pos) :
    Computes s (afterWord s (s.put { (s.ctx s.cur).consume srcs with arch := a }) w) srcs
      ∧ ((afterWord s (s.put { (s.ctx s.cur).consume srcs with arch := a }) w).ctx s.cur).arch = a.advance := by
  have hput : s.put { (s.ctx s.cur).consume srcs with arch := a }
      = s.modCtx s.cur (fun _ => { (s.ctx s.cur).consume srcs with arch := a }) := rfl
  have hctx : (afterWord s (s.put { (s.ctx s.cur).consume srcs with arch := a }) w).ctx s.cur = _ := afterWord_ctx
  rw [hput] at hctx ⊢
  rw [ctx_modCtx_self] at hctx
  refine ⟨⟨⟨?_, ?_⟩, ?_, ?_, ⟨?_, ?_⟩, ?_, ?_⟩, ?_⟩
  · exact rest_trans (modCtx_rest _ _ _) afterWord_rest
  · intro ck
    have h1 := afterWord_cell (s := s) (t := s.modCtx s.cur (fun _ => { (s.ctx s.cur).consume srcs with arch := a })) (w := w) ck
    have h2 := cell_modCtx_rest s s.cur (fun _ => { (s.ctx s.cur).consume srcs with arch := a }) ck
    rw [← h1] at h2
    exact h2
  · intro y hy; rw [afterWord_others hy, ctx_modCtx_ne _ _ hy]
  · intro c; rw [afterWord_mem]; rfl
  · rw [hctx]; simp only [Arch.advance, hp]; split <;> simp_all
  · rw [hctx]
  · rw [hctx]; rw [consume_eq]
  · intro q
    have : ((afterWord s (s.modCtx s.cur (fun _ => { (s.ctx s.cur).consume srcs with arch := a })) w).ctx s.cur).port q
        = ((s.ctx s.cur).consume srcs).port q := by rw [hctx]; rfl
    rw [this, consume_port]
  · rw [hctx]

/-! ### Destinations -/

/-- A bit already set stays as it is. -/
theorem or_two_pow_of_set {n : Nat} (x : BitVec n) {i : Nat} (h : x.getLsbD i = true) : x ||| BitVec.ofNat n (2 ^ i) = x := by
  apply BitVec.eq_of_getLsbD_eq
  intro j hj
  rw [BitVec.getLsbD_or, BitVec.getLsbD_ofNat, Nat.testBit_two_pow]
  by_cases hji : i = j
  · subst hji; simp [h]
  · simp [hji]

/-- A full scalar destination. -/
theorem setsS_ws {a : Arch} {i : Nat} {v : Word} (hi : i < 64) (hf : a.full (.s i) = true) : SetsS a (a.ws i v).advance i v := by
  refine ⟨?_, fun j hj => ?_, ?_⟩
  · rw [advance_rs]
    split
    · rename_i h0; subst h0; rfl
    · rename_i h0; exact rs_ws_self a v h0 hi
  · rw [advance_rs]; exact rs_ws_ne a v hj
  · rw [advance_eq]
    unfold Arch.ws
    split
    · rfl
    · rename_i h0
      simp only [Arch.full, Bool.or_eq_true, beq_iff_eq, h0, false_or] at hf
      simp only [or_two_pow_of_set a.sf hf]

/-- A full vector destination. -/
theorem setsV_wv {a : Arch} {i : Nat} {v : Vec} (hi : i < 32) (hf : a.full (.v i) = true) : SetsV a (a.wv i v).advance i v := by
  refine ⟨?_, fun j hj => ?_, ?_⟩
  · rw [advance_rv]; exact rv_wv_self a v hi
  · rw [advance_rv]; exact rv_wv_ne a v hj
  · rw [advance_eq]
    simp only [Arch.full] at hf
    simp only [Arch.wv, or_two_pow_of_set a.vf hf]

/-- A mask destination. -/
theorem setsM_wm {a : Arch} {i : Nat} {v : Mask} (hi : i < 16) : SetsM a (a.wm i v).advance i v := by
  refine ⟨?_, fun j hj => ?_, ?_⟩
  · rw [advance_rm]; exact rm_wm_self a v hi
  · rw [advance_rm]; exact rm_wm_ne a v hj
  · rw [advance_eq]; rfl

/-- A predicate destination. -/
theorem setsP_wp {a : Arch} {i : Nat} {v : Bool} (hi : i < 8) : SetsP a (a.wp i v).advance i v := by
  refine ⟨?_, fun j hj => ?_, ?_⟩
  · rw [advance_rp]
    split
    · rename_i h0; subst h0; rfl
    · rename_i h0; exact rp_wp_self a v h0 hi
  · rw [advance_rp]; exact rp_wp_ne a v hj
  · rw [advance_eq]
    unfold Arch.wp
    split <;> rfl

@[simp] theorem pos_ws (a : Arch) (i : Nat) (v : Word) : (a.ws i v).pos = a.pos := by unfold Arch.ws; split <;> rfl
@[simp] theorem pos_wv (a : Arch) (i : Nat) (v : Vec) : (a.wv i v).pos = a.pos := rfl
@[simp] theorem pos_wm (a : Arch) (i : Nat) (v : Mask) : (a.wm i v).pos = a.pos := rfl
@[simp] theorem pos_wp (a : Arch) (i : Nat) (v : Bool) : (a.wp i v).pos = a.pos := by unfold Arch.wp; split <;> rfl

/-- A word that computes a scalar result: everything it does when it runs (R22, R77, R99). -/
theorem givesS_alu {i : Instr} {s : State} {w : Fields} {srcs : List Operand} {f : Ctx → Word} (hr : Runs s w srcs [w.d])
    (hd : w.d.cls = 0) (he : exec i s = s.word w (fun s => s.alu srcs [w.d] (fun c => c.arch.ws w.d.idx.toNat (f c)))) :
    GivesS i s w srcs (f (s.ctx s.cur)) := by
  have hreg := available_reg hr.2.1 (o := w.d) (by simp) (r := .s w.d.idx.toNat) (by simp [Operand.reg, hd])
  have hpos : ((s.ctx s.cur).arch.ws w.d.idx.toNat (f (s.ctx s.cur))).pos = (s.ctx s.cur).arch.pos := by simp
  refine ⟨_, ?_, (computes_alu (w := w) hpos).1, ?_⟩
  · rw [he, word_of_guards hr.1, State.alu, srcs_of_available hr.2, finish_ok]
  · rw [(computes_alu (w := w) hpos).2]
    exact setsS_ws (by simpa [Reg.exists?] using hreg.1) hreg.2.1

/-- A word that computes a vector result. -/
theorem givesV_alu {i : Instr} {s : State} {w : Fields} {srcs : List Operand} {f : Ctx → Vec} (hr : Runs s w srcs [w.d])
    (hd : w.d.cls = 1) (he : exec i s = s.word w (fun s => s.alu srcs [w.d] (fun c => c.arch.wv w.d.idx.toNat (f c)))) :
    GivesV i s w srcs (f (s.ctx s.cur)) := by
  have hreg := available_reg hr.2.1 (o := w.d) (by simp) (r := .v w.d.idx.toNat) (by simp [Operand.reg, hd])
  have hpos : ((s.ctx s.cur).arch.wv w.d.idx.toNat (f (s.ctx s.cur))).pos = (s.ctx s.cur).arch.pos := by simp
  refine ⟨_, ?_, (computes_alu (w := w) hpos).1, ?_⟩
  · rw [he, word_of_guards hr.1, State.alu, srcs_of_available hr.2, finish_ok]
  · rw [(computes_alu (w := w) hpos).2]
    exact setsV_wv (by simpa [Reg.exists?] using hreg.1) hreg.2.1

/-- A word that computes a mask result. -/
theorem givesM_alu {i : Instr} {s : State} {w : Fields} {srcs : List Operand} {f : Ctx → Mask} (hr : Runs s w srcs [])
    (hd : w.d.idx.toNat - 16 < 16) (he : exec i s = s.word w (fun s => s.alu srcs [] (fun c => c.arch.wm (w.d.idx.toNat - 16) (f c)))) :
    GivesM i s w srcs (f (s.ctx s.cur)) := by
  have hpos : ((s.ctx s.cur).arch.wm (w.d.idx.toNat - 16) (f (s.ctx s.cur))).pos = (s.ctx s.cur).arch.pos := by simp
  refine ⟨_, ?_, (computes_alu (w := w) hpos).1, ?_⟩
  · rw [he, word_of_guards hr.1, State.alu, srcs_of_available hr.2, finish_ok]
  · rw [(computes_alu (w := w) hpos).2]
    exact setsM_wm hd

/-- A word that computes a predicate. -/
theorem givesP_alu {i : Instr} {s : State} {w : Fields} {srcs : List Operand} {f : Ctx → Bool} (hr : Runs s w srcs [])
    (hd : w.d.idx.toNat < 8) (he : exec i s = s.word w (fun s => s.alu srcs [] (fun c => c.arch.wp w.d.idx.toNat (f c)))) :
    GivesP i s w srcs (f (s.ctx s.cur)) := by
  have hpos : ((s.ctx s.cur).arch.wp w.d.idx.toNat (f (s.ctx s.cur))).pos = (s.ctx s.cur).arch.pos := by simp
  refine ⟨_, ?_, (computes_alu (w := w) hpos).1, ?_⟩
  · rw [he, word_of_guards hr.1, State.alu, srcs_of_available hr.2, finish_ok]
  · rw [(computes_alu (w := w) hpos).2]
    exact setsP_wp hd

end Sys2Proof
end

