-- ==== Sys2Proof/Laws/Vector.lean ====
section
/-!
SUPPORT. Vector results element by element: packing and reading elements, masked writes, governing bits.
-/

namespace Sys2Proof

open Sys2Proof.Machine

/-! ### Elements of a number -/

/-- A packed list fits its elements. -/
theorem pack_lt {w : Nat} {l : List Nat} : pack w l < 2 ^ (w * l.length) := by
  induction l with
  | nil => simp [pack]
  | cons x r ih =>
    simp only [pack, List.length_cons, Nat.mul_add, Nat.mul_one]
    have h1 : x % 2 ^ w < 2 ^ w := Nat.mod_lt _ (by positivity)
    rw [show w * r.length + w = w + w * r.length by ring, pow_add]
    have h2 := Nat.mul_le_mul_left (2 ^ w) ih
    rw [Nat.mul_succ] at h2
    omega

/-- An element of a packed list. -/
theorem elem_pack {w j : Nat} {l : List Nat} (h : j < l.length) : elem w (pack w l) j = l[j] % 2 ^ w := by
  induction l generalizing j with
  | nil => simp at h
  | cons x r ih =>
    simp only [pack, elem]
    cases j with
    | zero => simp
    | succ j =>
      have hx : x % 2 ^ w < 2 ^ w := Nat.mod_lt _ (by positivity)
      rw [Nat.shiftRight_eq_div_pow, Nat.mul_add, Nat.mul_one, Nat.add_comm (w * j) w, pow_add, ← Nat.div_div_eq_div_mul,
        Nat.add_mul_div_left _ _ (by positivity), Nat.div_eq_of_lt hx, Nat.zero_add, ← Nat.shiftRight_eq_div_pow]
      simpa [elem] using ih (j := j) (by simpa using h)

/-- A packed vector register keeps its elements when they fill it at most. -/
theorem toNat_pack {w : Nat} {l : List Nat} (h : w * l.length ≤ 2048) : (BitVec.ofNat 2048 (pack w l)).toNat = pack w l := by
  rw [BitVec.toNat_ofNat]
  exact Nat.mod_eq_of_lt (lt_of_lt_of_le pack_lt (Nat.pow_le_pow_right Nat.two_pos h))

/-- The elements of a number. -/
@[simp] theorem elems_length {w n x : Nat} : (elems w n x).length = n := by simp [elems, tab]

theorem elems_getElem {w n x j : Nat} (h : j < (elems w n x).length) : (elems w n x)[j] = elem w x j := by simp [elems, tab]

/-- An element fits its width. -/
theorem elem_lt {w x j : Nat} : elem w x j < 2 ^ w := Nat.mod_lt _ (by positivity)

/-! ### Masked writes (R108) -/

theorem blend_length {a : List Bool} {v o : List Nat} (ha : a.length = o.length) (hv : v.length = o.length) :
    (blend a v o).length = o.length := by
  induction o generalizing a v with
  | nil => simp_all [blend]
  | cons x r ih =>
    obtain ⟨b, as, rfl⟩ := List.exists_cons_of_length_eq_add_one (n := r.length) (by simpa using ha)
    obtain ⟨y, vs, rfl⟩ := List.exists_cons_of_length_eq_add_one (n := r.length) (by simpa using hv)
    simp only [blend, List.length_cons]
    rw [ih (by simpa using ha) (by simpa using hv)]

theorem blend_getElem {a : List Bool} {v o : List Nat} (ha : a.length = o.length) (hv : v.length = o.length) {j : Nat}
    (hj : j < o.length) : (blend a v o)[j]'(by rw [blend_length ha hv]; exact hj) =
      if a[j]'(by omega) then v[j]'(by omega) else o[j] := by
  induction o generalizing a v j with
  | nil => simp at hj
  | cons x r ih =>
    obtain ⟨b, as, rfl⟩ := List.exists_cons_of_length_eq_add_one (n := r.length) (by simpa using ha)
    obtain ⟨y, vs, rfl⟩ := List.exists_cons_of_length_eq_add_one (n := r.length) (by simpa using hv)
    cases j with
    | zero => simp [blend]
    | succ j => simpa [blend] using ih (a := as) (v := vs) (by simpa using ha) (by simpa using hv) (by simpa using hj)

/-- Elements of every type fill a vector register exactly (R106). -/
theorem bits_mul_elems {ty : Nat} (h : ty ≤ 13) : tyBits ty * nElems ty = 2048 := by interval_cases ty <;> decide

/-- An element of a masked write (R108). -/
theorem elem_vwrite {ty : Nat} (hty : ty ≤ 13) {act : List Bool} {vals : List Nat} {old : Vec} (ha : act.length = nElems ty)
    (hv : vals.length = nElems ty) {j : Nat} (hj : j < nElems ty) :
    elem (tyBits ty) (vwrite ty act vals old).toNat j =
      if act[j]'(by omega) then vals[j]'(by omega) % 2 ^ tyBits ty else elem (tyBits ty) old.toNat j := by
  have ho : (elems (tyBits ty) (nElems ty) old.toNat).length = nElems ty := elems_length
  have hb : (blend act vals (elems (tyBits ty) (nElems ty) old.toNat)).length = nElems ty := by
    rw [blend_length (by omega) (by omega), ho]
  unfold vwrite
  rw [toNat_pack (by rw [hb, bits_mul_elems hty]), elem_pack (by omega), blend_getElem (by omega) (by omega) (by omega)]
  split
  · rfl
  · rw [elems_getElem]; exact Nat.mod_eq_of_lt elem_lt

theorem active_length {c : Ctx} {w : Fields} {ty : Nat} : (c.active w ty).length = nElems ty := by
  unfold Ctx.active
  split <;> simp [tab]

theorem active_getElem {c : Ctx} {w : Fields} {ty j : Nat} (h : j < (c.active w ty).length) :
    (c.active w ty)[j] = isActive c w ty j := by
  unfold Ctx.active isActive
  split <;> rename_i hm <;> simp [tab, hm]

theorem elts_length {c : Ctx} {w : Fields} {ty : Nat} {o : Operand} : (c.elts w ty o).length = nElems ty := by
  unfold Ctx.elts
  split <;> simp

theorem elts_getElem {c : Ctx} {w : Fields} {ty : Nat} {o : Operand} {j : Nat} (h : j < (c.elts w ty o).length) :
    (c.elts w ty o)[j] = element c w ty o j := by
  unfold Ctx.elts element
  by_cases hv : Operand.isVec o = true
  · simp [hv, elems, tab]
  · simp [hv]

/-- A vector word: everything it does when it runs, element by element. -/
theorem givesEach_vec {i : Instr} {s : State} {w : Fields} {srcs : List Operand} {ty : Nat} {f : Ctx → List Nat} {g : Nat → Nat}
    (hr : Runs s w (withMask w srcs) [w.d]) (hd : w.d.cls = 1) (hty : ty ≤ 13)
    (he : exec i s = s.word w (fun s => s.vecTo w srcs ty f)) (hl : (f (s.ctx s.cur)).length = nElems ty)
    (hg : ∀ j (h : j < nElems ty), (f (s.ctx s.cur))[j]'(by omega) % 2 ^ tyBits ty = g j % 2 ^ tyBits ty) :
    GivesEach i s w (withMask w srcs) ty g := by
  obtain ⟨t, h1, h2, h3⟩ := givesV_alu (f := fun c => vwrite ty (c.active w ty) (f c) (c.arch.rv w.d.idx.toNat)) hr hd he
  refine ⟨t, _, h1, h2, h3, fun j hj => ?_⟩
  rw [elem_vwrite hty active_length hl hj, active_getElem]
  split
  · exact hg j hj
  · rfl

/-! ### Three lists together -/

theorem zip3With_length {f : Nat → Nat → Nat → Nat} {a b d : List Nat} (hb : b.length = a.length) (hd : d.length = a.length) :
    (zip3With f a b d).length = a.length := by
  induction a generalizing b d with
  | nil => simp [zip3With]
  | cons x r ih =>
    obtain ⟨y, bs, rfl⟩ := List.exists_cons_of_length_eq_add_one (n := r.length) (by simpa using hb)
    obtain ⟨z, ds, rfl⟩ := List.exists_cons_of_length_eq_add_one (n := r.length) (by simpa using hd)
    simp only [zip3With, List.length_cons]
    rw [ih (by simpa using hb) (by simpa using hd)]

theorem zip3With_getElem {f : Nat → Nat → Nat → Nat} {a b d : List Nat} (hb : b.length = a.length) (hd : d.length = a.length)
    {j : Nat} (hj : j < a.length) :
    (zip3With f a b d)[j]'(by rw [zip3With_length hb hd]; exact hj) = f a[j] (b[j]'(by omega)) (d[j]'(by omega)) := by
  induction a generalizing b d j with
  | nil => simp at hj
  | cons x r ih =>
    obtain ⟨y, bs, rfl⟩ := List.exists_cons_of_length_eq_add_one (n := r.length) (by simpa using hb)
    obtain ⟨z, ds, rfl⟩ := List.exists_cons_of_length_eq_add_one (n := r.length) (by simpa using hd)
    cases j with
    | zero => simp [zip3With]
    | succ j => simpa [zip3With] using ih (b := bs) (d := ds) (by simpa using hb) (by simpa using hd) (by simpa using hj)

/-- Elementwise on one source. -/
theorem givesEach_vec1 {i : Instr} {s : State} {w : Fields} {f : Nat → Nat} (hr : Runs s w (withMask w [w.a]) [w.d])
    (hd : w.d.cls = 1) (hty : w.ty.toNat ≤ 13) (he : exec i s = s.word w (fun s => s.vec1 w f)) :
    GivesEach i s w (withMask w [w.a]) w.ty.toNat (fun j => f (element (s.ctx s.cur) w w.ty.toNat w.a j)) := by
  refine givesEach_vec hr hd hty he (by simp [elts_length]) (fun j hj => ?_)
  simp only [List.getElem_map, elts_getElem]

/-- Elementwise on two sources. -/
theorem givesEach_vec2 {i : Instr} {s : State} {w : Fields} {f : Nat → Nat → Nat} (hr : Runs s w (withMask w [w.a, w.b]) [w.d])
    (hd : w.d.cls = 1) (hty : w.ty.toNat ≤ 13) (he : exec i s = s.word w (fun s => s.vec2 w f)) :
    GivesEach i s w (withMask w [w.a, w.b]) w.ty.toNat
      (fun j => f (element (s.ctx s.cur) w w.ty.toNat w.a j) (element (s.ctx s.cur) w w.ty.toNat w.b j)) := by
  refine givesEach_vec hr hd hty he (by simp [elts_length]) (fun j hj => ?_)
  simp only [List.getElem_zipWith, elts_getElem]

/-- Elementwise on three sources. -/
theorem givesEach_vec3 {i : Instr} {s : State} {w : Fields} {f : Nat → Nat → Nat → Nat}
    (hr : Runs s w (withMask w [w.a, w.b, w.c]) [w.d]) (hd : w.d.cls = 1) (hty : w.ty.toNat ≤ 13)
    (he : exec i s = s.word w (fun s => s.vec3 w f)) :
    GivesEach i s w (withMask w [w.a, w.b, w.c]) w.ty.toNat (fun j => f (element (s.ctx s.cur) w w.ty.toNat w.a j)
      (element (s.ctx s.cur) w w.ty.toNat w.b j) (element (s.ctx s.cur) w w.ty.toNat w.c j)) := by
  refine givesEach_vec hr hd hty he ?_ (fun j hj => ?_)
  · rw [zip3With_length] <;> simp [elts_length]
  · rw [zip3With_getElem (by simp [elts_length]) (by simp [elts_length]) (by rw [elts_length]; exact hj)]
    simp only [elts_getElem]

end Sys2Proof
end

