-- ==== Sys2Proof/Tests/Slice0.lean ====
section
/-!
SUPPORT. Small tests, with results from the manual or worked out by hand from it; and for each statement about the machine a witness: a
concrete state and operands that meet its hypotheses, clause by clause.
-/

namespace Sys2Proof.Tests

set_option Elab.async false

open Sys2Proof.Machine

/-! ### Small states and words -/

/-- An s, v, m, p, port, accumulator, ring and short immediate operand. -/
def rs (i : BitVec 8) : Operand := { cls := 0, idx := i }
def rv (i : BitVec 8) : Operand := { cls := 1, idx := i }
def rm (i : BitVec 8) : Operand := { cls := 2, idx := 16 + i }
def rp (i : BitVec 8) : Operand := { cls := 2, idx := i }
def ra (i : BitVec 8) : Operand := { cls := 3, idx := i }
def rq (i : BitVec 8) : Operand := { cls := 4, idx := i }
def rb (i : BitVec 8) : Operand := { cls := 5, idx := i }
def im (i : BitVec 8) : Operand := { cls := 7, idx := i }

/-- The machine after reset with a unit at word 3 of a block 0 to 9 on context 0 of cell 0 of die 0, after a change to its context. -/
def live (f : Ctx → Ctx) : State :=
  State.reset.modCtx {} (fun c => f { c with life := .live, arch := { c.arch with pos := .word 3 0 9 } })

/-- The same with s registers set. -/
def withS (l : List (Nat × Word)) : State := live (fun c => { c with arch := l.foldl (fun a e => a.ws e.1 e.2) c.arch })

/-- Changes cell 0 of die 0. -/
def cell0 (s : State) (f : Cell → Cell) : State := s.modCell 0 f

/-- Bytes put into memory. -/
def bytesAt (s : State) (a : Nat) (bs : List Byte) : State := { s with mem := memSets s.mem a bs }

/-- The state that an outcome leads to. -/
def after (o : Host.Outcome State Fault Refusal) : State :=
  match o with
  | .next t => t
  | _ => State.reset

/-- Context 0 of cell 0 of die 0 after an instruction. -/
def ctxAfter (i : Instr) (s : State) : Ctx := (after (exec i s)).ctx {}

/-! ### Well-formedness: one ill-formed term for each check of R76, and for each bound of R2 -/

theorem test_wordOk : (Instr.add { ty := 3, d := rs 1, a := rs 2, b := im 1 }).wellFormed = true := by decide +kernel
theorem test_badType : wordFlaw 8 (.add { ty := 8, d := rs 1, a := rs 2, b := im 1 }) = some (2, 10) := by decide +kernel
theorem test_badClass : wordFlaw 8 (.add { ty := 3, d := rs 1, a := rv 2, b := im 1 }) = some (3, 47) := by decide +kernel
theorem test_badIndex : wordFlaw 8 (.add { ty := 3, d := rs 64, a := rs 2, b := im 1 }) = some (3, 25) := by decide +kernel
theorem test_badAccumulator : wordFlaw 2 (.mzero { ty := 15, d := ra 2 }) = some (3, 25) ∧ wordFlaw 4 (.mzero { ty := 15, d := ra 2 }) = none := by decide +kernel
theorem test_badModifier : wordFlaw 8 (.div { ty := 3, d := rs 1, a := { rs 2 with mod := 1 }, b := im 1 }) = some (4, 36) := by decide +kernel
theorem test_badSaturate : wordFlaw 8 (.mulh { ty := 3, d := { rs 1 with mod := 1 }, a := rs 2, b := im 1 }) = some (4, 22) := by decide +kernel
theorem test_badBlockBit : wordFlaw 8 (.mma { ty := 14, d := ra 0, a := { rb 1 with bt := true }, b := im 1 }) = some (4, 38) := by decide +kernel
theorem test_badUnusedField : wordFlaw 8 (.nop { c := rs 1 }) = some (5, 67) := by decide +kernel
theorem test_badImmediateBits : wordFlaw 8 (.add { ty := 3, d := rs 1, a := rs 2, b := im 1, imm := 1 }) = some (5, 96) := by decide +kernel
theorem test_badSpace : wordFlaw 8 (.msca { ty := 14, d := ra 0, a := rs 1, b := rs 2, c := im 8, spc := 2 }) = some (5, 78) := by decide +kernel
theorem test_badFunction : wordFlaw 8 (.cmp { ty := 3, d := rp 1, a := rs 2, b := im 1, fn := 6 }) = some (6, 88) := by decide +kernel
theorem test_badSecondImmediate : (wordFlaw 8 (.add { ty := 3, d := rs 1, a := im 0x80, b := im 0x80 })).map (·.1) = some 7 := by decide +kernel
theorem test_badMask : (Instr.vadd { ty := 0, d := rv 1, a := rv 2, b := rv 3, imm := 8 }).wellFormed = false := by decide +kernel
theorem test_badCommandByte : (Instr.ecopy 2).wellFormed = false ∧ (Instr.ecopy 1).wellFormed = true := by decide +kernel
theorem test_badEvents : (Instr.arbiterGrant 4 0).wellFormed = false ∧ (Instr.arbiterGrant 0 144).wellFormed = false ∧
    (Instr.roundClose { ctx := 4 }).wellFormed = false ∧ (Instr.lap1 4).wellFormed = false ∧ (Instr.ctlWrite 4096 0).wellFormed = false ∧
    (Instr.roundClose { die := 3, cell := 143, ctx := 3 }).wellFormed = true := by decide +kernel

/-! ### Decoding: words written out from R62, R65 and R74, or from the worked encodings of the manual -/

/-- The word of its fields, each at the place R62 gives it. -/
def at' (l : List (Nat × Nat)) : Nat := (l.map (fun e => e.2 * 2 ^ e.1)).sum

theorem test_decode_control : decodeTableWord 128 0x0000000000000000E043810000003C04 = some (.skipt { a := im 2, b := im 2 }) := by decide +kernel
theorem test_decode_guarded : decodeTableWord 128 0x0000000000000000E02002800C00C840 =
    some (.add { ty := 2, g1 := { pred := 3 }, d := rs 6, a := rs 5, b := im 1 }) := by decide +kernel
/-- FADD.f32.rtz s1, s2, s3 (R102). -/
theorem test_decode_float : decodeTableWord 128 (at' [(0, 0x080), (10, 8), (22, 0x0008), (36, 0x0010), (50, 0x0018), (88, 1)]) =
    some (.fadd { ty := 8, d := rs 1, a := rs 2, b := rs 3, fn := 1 }) := by decide +kernel
/-- PLOG p1, p2, !p3, p4, 0x80 (R104). -/
theorem test_decode_predicate : decodeTableWord 128 (at' [(0, 0x08A), (10, 15), (22, 0x1008), (36, 0x1010), (50, 0x1019), (64, 0x1020), (88, 0x80)]) =
    some (.plog { d := rp 1, a := rp 2, b := { rp 3 with mod := 1 }, c := rp 4, fn := 0x80 }) := by decide +kernel
theorem test_decode_dot : decodeTableWord 128 0x0000000000003800E0220002020008D2 =
    some (.vdot { ty := 2, d := rv 1, a := rq 0, b := im 1, c := im 0 }) := by decide +kernel
/-- VFADD.bf16.sat v1, q2, c3 under m1 (R109). -/
theorem test_decode_vectorFloat : decodeTableWord 128 (at' [(0, 0x100), (10, 9), (22, 0x0809), (36, 0x2010), (50, 0x3018), (96, 0x1088)]) =
    some (.vfadd { ty := 9, d := { rv 1 with mod := 1 }, a := rq 2, b := { cls := 6, idx := 3 }, imm := 0x1088 }) := by decide +kernel
/-- VSLIDE.f16 v1, v2, v3, 5 (R120). -/
theorem test_decode_permute : decodeTableWord 128 (at' [(0, 0x144), (10, 10), (22, 0x0808), (36, 0x0810), (50, 0x0818), (64, 0x3828)]) =
    some (.vslide { ty := 10, d := rv 1, a := rv 2, b := rv 3, c := im 5 }) := by decide +kernel
theorem test_decode_memory : decodeTableWord 128 0x0000008000000000F00002000A000980 = some (.ld { ty := 2, d := rs 5, a := rs 4, b := im 0x80, imm := 0x80 }) ∧
    decodeTableWord 128 0x000100000000C050F0000A0000000981 =
      some (.st { ty := 2, a := rs 20, b := im 0x80, c := rs 10, spc := 3, imm := 0x10000 }) := by decide +kernel
/-- FENCE.pkg.acq.rel (R148). -/
theorem test_decode_fence : decodeTableWord 128 (at' [(0, 0x240), (10, 15), (88, 0x1C)]) = some (.fence { fn := 0x1C }) := by decide +kernel
theorem test_decode_ports : decodeTableWord 128 0x0000006001000000F00080880A003E81 =
      some (.qpush { d := rq 5, a := rv 1, b := im 0x80, fn := 1, imm := 0x60 }) ∧
    decodeTableWord 128 0x00004000000000002063C00000003E86 = some (.send { a := im 0x80, b := rv 3, imm := 0x4000 }) := by decide +kernel
/-- RLCLR a1, -1 (R192). -/
theorem test_decode_lists : decodeTableWord 128 (at' [(0, 0x306), (10, 15), (22, 0x1808), (36, 0x3BF8)]) = some (.rlclr { d := ra 1, a := im 0x7F }) := by
  decide +kernel
theorem test_decode_launch : decodeTableWord 128 0x0000000000000000E003020006003F40 =
      some (.launch { d := rs 3, a := { cls := 6, idx := 4 }, b := im 0 }) ∧
    decodeTableWord 128 0x0000000001000000E0C3028008003F42 = some (.cstat { d := rs 4, a := { cls := 6, idx := 5 }, b := im 6, fn := 1 }) := by decide +kernel
theorem test_decode_system : decodeTableWord 128 0x0020000000003828F003010000003F83 =
      some (.tlbinv { a := { cls := 6, idx := 2 }, b := im 0x80, c := im 5, imm := 0x200000 }) ∧
    decodeTableWord 128 0x00000000000038400240098026003F86 = some (.crc32c { d := rs 19, a := rs 19, b := rs 18, c := im 8 }) := by decide +kernel
theorem test_decode_logit : decodeTableWord 32 0x00008302 = some (.lpenPres 3) ∧ decodeTableWord 32 0x00000303 = none ∧ decodeTableWord 32 0x0001000D = none := by
  decide +kernel
/-- An unassigned opcode, and a bit of the reserved field [87:86] (R62, R74). -/
theorem test_decode_refused : decodeWord 8 (BitVec.ofNat 128 0x3FF) = .error (.ill 1 0) ∧
    decodeWord 8 (BitVec.ofNat 128 (at' [(0, 1), (10, 15), (86, 1)])) = .error (.ill 5 86) := by decide +kernel
/-- The bytes of the worked encoding (R5, R62). -/
theorem test_encode_bytes : encode (.add { ty := 2, g1 := { pred := 3 }, d := rs 6, a := rs 5, b := im 1 }) =
    [0x40, 0xC8, 0x00, 0x0C, 0x80, 0x02, 0x20, 0xE0, 0, 0, 0, 0, 0, 0, 0, 0] := by decide +kernel

/-! ### Worked examples of the manual -/

/-- The fragment of R101: s1 = -7, s2 = 0, s6 the least i32, s9 = 50. -/
def st101 : State := withS [(1, 0xFFFFFFFFFFFFFFF9), (2, 0), (6, 0xFFFFFFFF80000000), (9, 50)]
def s' (i : Instr) (s : State) (r : Nat) : Word := (ctxAfter i s).arch.rs r
theorem test_div_zero : s' (.div { ty := 2, d := rs 3, a := rs 1, b := rs 2 }) st101 3 = 0xFFFFFFFFFFFFFFFF := by decide +kernel
theorem test_div_least : s' (.div { ty := 2, d := rs 5, a := rs 6, b := im 0x7F }) st101 5 = 0xFFFFFFFF80000000 := by decide +kernel
theorem test_rem_zero : s' (.rem { ty := 2, d := rs 4, a := rs 1, b := rs 2 }) st101 4 = 0xFFFFFFFFFFFFFFF9 := by decide +kernel
theorem test_sar_modulo : s' (.sar { ty := 2, d := rs 7, a := rs 1, b := im 33 }) st101 7 = 0xFFFFFFFFFFFFFFFC := by decide +kernel
theorem test_add_saturates : s' (.add { ty := 0, d := { rs 8 with mod := 1 }, a := rs 9, b := { im 0x80 with mod := 0 }, imm := 100 }) st101 8 = 0x7F := by
  decide +kernel
theorem test_add_wraps : s' (.add { ty := 0, d := rs 8, a := rs 9, b := im 0x80, imm := 100 }) st101 8 = 0xFFFFFFFFFFFFFF96 := by decide +kernel
theorem test_shr_unsigned : s' (.shr { ty := 6, d := rs 10, a := rs 1, b := im 28 }) st101 10 = 0xF := by decide +kernel
theorem test_bfx_signed : s' (.bfx { ty := 2, d := rs 11, a := rs 1, b := im 1, c := im 3 }) st101 11 = 0xFFFFFFFFFFFFFFFC := by decide +kernel

/-- The fragment of R104. -/
def st104 : State := withS [(21, 0x3F800001), (22, 0x3F800001), (23, 0xBF800002), (26, 0x43EB0000), (27, 0x7FC00000), (24, 0x7F800000)]
theorem test_ffma_once : s' (.ffma { ty := 8, d := rs 20, a := rs 21, b := rs 22, c := rs 23 }) st104 20 = 0x28800000 := by decide +kernel
theorem test_fdiv_zero : s' (.fdiv { ty := 8, d := rs 24, a := rs 21, b := rs 0 }) st104 24 = 0x7F800000 := by decide +kernel
theorem test_fcvt_saturates : s' (.fcvt { ty := 11, d := { rs 25 with mod := 1 }, a := rs 26, fn := 0x80 }) st104 25 = 0x7E := by decide +kernel
theorem test_fmin_zeros : s' (.fmin { ty := 8, d := rs 28, a := rs 0, b := { rs 0 with mod := 1 } }) st104 28 = 0x80000000 := by decide +kernel
theorem test_fcmp_unordered : (ctxAfter (.fcmp { ty := 8, d := rp 4, a := rs 27, b := rs 24, fn := 6 }) st104).arch.rp 4 = true := by decide +kernel

/-- The fragment of R115: VDOT.i16 over i8 products. -/
def st115 : State := live (fun c => { c with arch := (c.arch.wv 1 (BitVec.ofNat 2048 0x808080807F7F7F7F)).wv 2 (BitVec.ofNat 2048 0x7F7F7F7F7F7F7F7F) })
theorem test_vdot_range :
    ((ctxAfter (.vdot { ty := 1, d := { rv 3 with mod := 1 }, a := rv 1, b := rv 2, c := rv 0 }) st115).arch.rv 3).extractLsb' 0 64 =
      0xFE04 := by decide +kernel

/-- The fragment of R120. -/
theorem test_vqk4_block : (ctxAfter (.vqk4 { ty := 14, d := rv 7, a := rv 5, b := rv 6 })
    (live (fun c => { c with arch := c.arch.wv 5 (BitVec.ofNat 2048 0xBFC040383EC0) }))).arch.rv 7 =
      BitVec.ofNat 2048 (0x0F83 + 0x5C * 2 ^ (8 * 64) + 0x7D * 2 ^ (8 * 68)) := by decide +kernel

/-- The fragment after R212, in two parts: the CRC-32C of "123456789". -/
theorem test_crc_first : s' (.crc32c { d := rs 3, a := im 0x7F, b := rs 5, c := im 8 }) (withS [(5, 0x3837363534333231)]) 3 =
    BitVec.ofNat 64 (crcRaw 0xFFFFFFFF (toBytes 8 0x3837363534333231)) := by decide +kernel
theorem test_crc_rest : s' (.crc32c { d := rs 3, a := rs 3, b := rs 6, c := im 1 })
    (withS [(3, BitVec.ofNat 64 (crcRaw 0xFFFFFFFF (toBytes 8 0x3837363534333231))), (6, 0x39)]) 3 = 0xFFFFFFFF - 0xE3069283 := by decide +kernel
/-- The first example of the SM3 standard: the digest of "abc". -/
theorem test_sm3_abc : sm3 [0x61, 0x62, 0x63] = [0x66, 0xC7, 0xF0, 0xF4, 0x62, 0xEE, 0xED, 0xD9, 0xD1, 0xF2, 0xD4, 0x6B, 0xDC, 0x10, 0xE4, 0xE2,
    0x41, 0x67, 0xC4, 0x87, 0x5C, 0xF2, 0xF7, 0xA2, 0x29, 0x7D, 0xA0, 0x2B, 0x8F, 0x4B, 0xA8, 0xE0] := by decide +kernel

/-! ### Witnesses: scalar and vector words -/

def wS : Fields := { ty := 3, d := rs 63, a := rs 1, b := rs 2, c := rs 3 }
def wF : Fields := { wS with ty := 8 }
def wV : Fields := { ty := 0, d := rv 31, a := rv 0, b := rv 30, c := rv 2 }
def wVF : Fields := { wV with ty := 9 }
def wM : Fields := { ty := 0, d := rm 15, a := rv 0, b := rv 30, fn := 5 }
def wK : Fields := { ty := 0, d := rv 0, a := rv 0, b := rv 1, c := rm 0 }
def st0 : State := live id

theorem witness_ScalarIntegerAndBitOperations : wS.d.cls = 0 ∧ Runs st0 wS [wS.a, wS.b] [wS.d] ∧ Runs st0 wS [wS.a, wS.b, wS.c] [wS.d] := by
  unfold Runs; decide +kernel

theorem witness_ScalarIntegerAndBitOperations_bits : wS.d.cls = 0 ∧ Runs st0 wS [wS.a] [wS.d] ∧ Runs st0 wS [wS.a, wS.b, wS.c, wS.e] [wS.d] := by
  unfold Runs; decide +kernel

theorem witness_ScalarOperationsMeaning : 0 < 64 ∧ 2 ^ 64 - 1 < 2 ^ 64 ∧ (-1 : Int) ≠ 0 := by decide

theorem witness_ScalarFloatingPoint : wF.d.cls = 0 ∧ Fmt.ofTy wF.ty.toNat = some .f32 ∧ Runs st0 wF [wF.a] [wF.d] ∧
    Runs st0 wF [wF.a, wF.b, wF.c] [wF.d] ∧ (let w := { wF with fn := 0x80 }; Runs st0 w [w.a] [w.d] ∧ w.fn.toNat / 16 = w.ty.toNat) := by
  unfold Runs; decide +kernel

theorem witness_PredicateResults : (let w := { wS with d := rp 7, a := rs 0, fn := 5 }
    w.d.idx.toNat < 8 ∧ isInt w.ty.toNat = true ∧ w.fn.toNat < 6 ∧ Runs st0 w [w.a, w.b] []) ∧
    (let w := { wF with d := rp 0, fn := 7 }; Fmt.ofTy w.ty.toNat = some .f32 ∧ w.fn.toNat < 8 ∧ Runs st0 w [w.a, w.b] []) ∧
    (let w : Fields := { d := rp 7, a := rp 1, b := rp 2, c := rp 3, fn := 0x80 }; Runs st0 w [] []) ∧
    (let w : Fields := { d := rp 7, a := rp 1, b := rm 15, c := rp 3, fn := 0x80 }; w.ty.toNat = 15 ∧ w.b.cls = 2 ∧ 16 ≤ w.b.idx.toNat ∧ w.b.idx.toNat ≤ 31) := by
  unfold Runs; decide +kernel

theorem witness_VectorIntegerElements : wV.d.cls = 1 ∧ isInt wV.ty.toNat = true ∧ Runs st0 wV (withMask wV [wV.a, wV.b, wV.c]) [wV.d] ∧
    (let w := { wV with imm := 0x1080 }; Fields.masked w = true ∧ Runs st0 w (withMask w [w.a]) [w.d] ∧ Runs st0 w (withMask w [w.a, w.b]) [w.d]) ∧
    (let w := { wV with ty := 6 }; w.ty.toNat ∈ [0, 1, 2, 4, 5, 6] ∧ Runs st0 w (withMask w [w.a, w.b]) [w.d]) ∧
    (let w := { wV with ty := 7 }; w.ty.toNat ∈ [1, 2, 3, 5, 6, 7] ∧ w.a.mod = 0 ∧ w.b.mod = 0 ∧ Runs st0 w (withMask w [w.a, w.b, w.c]) [w.d]) ∧
    Runs st0 wK (withMask wK [wK.a, wK.b, wK.c]) [wK.d] := by
  unfold Runs; decide +kernel

theorem witness_VectorCompares : wM.d.idx.toNat - 16 < 16 ∧ wM.ty.toNat ≤ 10 ∧ Runs st0 wM (withMask wM [wM.a, wM.b]) [] := by
  unfold Runs; decide +kernel

theorem witness_VectorFloatingPoint : wVF.d.cls = 1 ∧ Fmt.ofTy wVF.ty.toNat = some .bf16 ∧ Runs st0 wVF (withMask wVF [wVF.a]) [wVF.d] ∧
    Runs st0 wVF (withMask wVF [wVF.a, wVF.b, wVF.c]) [wVF.d] ∧
    (let w := { wVF with b := im 1, fn := 0x80 }; w.fn.toNat / 16 ≤ 14 ∧ w.ty.toNat ≤ 13 ∧ Runs st0 w (withMask w [w.a]) [w.d]) ∧
    (let w := { wVF with b := im 1, fn := 0xE0 }; w.fn.toNat / 16 = 14 ∧ w.ty.toNat ≤ 13 ∧ Runs st0 w (withMask w [w.a]) [w.d]) ∧
    (let w := { wVF with ty := 14 }; Runs st0 w [w.a, w.b] [w.d]) := by
  unfold Runs; decide +kernel

theorem witness_VectorPermutes : wV.ty.toNat ≤ 13 ∧ wV.d.cls = 1 ∧ Operand.isVec wV.a = true ∧ wV.a.mod = 0 ∧ Runs st0 wV (withMask wV [wV.a, wV.b]) [wV.d] ∧
    (let w := { wV with a := rs 5, b := rs 6 }; Operand.isVec w.a = false ∧ Runs st0 w (withMask w [w.a]) [w.d] ∧ Runs st0 w [w.a, w.b] [w.d]) ∧
    (let w := { wV with c := im 1 }; (immOf w w.c).toNat ≤ 1 ∧ Runs st0 w (withMask w [w.a, w.b, w.c]) [w.d]) ∧
    (let w := { wV with d := rs 1, b := rs 6 }; w.d.cls = 0 ∧ Operand.isVec w.a = true ∧ w.a.mod = 0 ∧ Runs st0 w [w.a, w.b] [w.d]) ∧
    Runs st0 wK [wK.a, wK.c] [wK.d] ∧ [true, false].length = [1, 2].length := by
  unfold Runs; decide +kernel

theorem witness_VectorReductions :
    (let w := { wV with d := rs 1 }; w.d.cls = 0 ∧ isInt w.ty.toNat = true ∧ w.ty.toNat ≤ 13 ∧ Runs st0 w (withMask w [w.a]) [w.d]) ∧
    (let w := { wVF with d := rs 1, ty := 10 }; Fmt.ofTy w.ty.toNat = some .f16 ∧ isInt w.ty.toNat = false ∧ w.ty.toNat ≤ 13 ∧ Runs st0 w (withMask w [w.a]) [w.d]) ∧
    (let w := { wVF with d := rs 1, ty := 11 }; Fmt.ofTy w.ty.toNat = some .e4m3 ∧ isInt w.ty.toNat = false ∧ Runs st0 w (withMask w [w.a]) [w.d]) ∧
    (let w := { wV with d := { rv 31 with mod := 1 } }; w.d.cls = 1 ∧ Fields.sat w = true ∧ Runs st0 w (withMask w [w.a]) [w.d]) ∧
    (let w := { wV with fn := 0 }; w.d.cls = 1 ∧ isInt w.ty.toNat = true ∧ Fields.sat w = false ∧ Runs st0 w (withMask w [w.a]) [w.d]) ∧
    (wVF.d.cls = 1 ∧ Fmt.ofTy wVF.ty.toNat = some .bf16 ∧ Runs st0 wVF (withMask wVF [wVF.a]) [wVF.d]) ∧
    (let w : Fields := { d := rm 15, a := rm 0, b := rm 1, c := rm 2, fn := 0xFF }; w.d.idx.toNat - 16 < 16 ∧ Runs st0 w [w.a, w.b, w.c] []) ∧
    (let w : Fields := { d := rs 1, a := rm 0 }; w.d.cls = 0 ∧ Runs st0 w [w.a] [w.d]) := by
  unfold Runs; decide +kernel

/-! ### Witnesses: memory, rings, atomics, barriers -/

/-- s1 = 0x0C in die scratch, s2 = 0x44 in the scratch of a cell with two tiles, s3 a value. -/
def stM : State := cell0 (withS [(1, 0x0C), (2, 0x44), (3, 0x1122334455667788), (6, 128)]) (fun k => k.setWord 4 0 2)

/-- The same with a translation of virtual 0 to physical 0x10000 in the cell's cache. -/
def stG : State := cell0 stM (fun k => { k with tlb := { ents := [{ asid := 0, va := 0, lg := 16, pa := 0x10000, wr := true }] } })

def wLd : Fields := { ty := 2, spc := 3, d := rs 63, a := rs 1, b := im 0, c := rs 3 }
def wVl : Fields := { ty := 2, spc := 3, d := rv 31, a := rs 1, b := im 0 }
def wVg : Fields := { wVl with b := rv 0 }

theorem witness_LoadsIssueAndReturn :
    (Fields.space wLd ≠ .l ∧ Fields.space wLd ≠ .g ∧ wLd.d.cls = 0 ∧ wLd.d.idx ≠ 0 ∧ (stM.ctx {}).addr wLd % 64 + memBytes wLd.ty.toNat ≤ 64 ∧
      Runs stM wLd [wLd.a, wLd.b] [wLd.d] ∧ (stM.ctx {}).prods = [] ∧ mayAccess stM wLd false false (accParts ((stM.ctx {}).addr wLd) 4 0 none) = true) ∧
    (wVl.d.cls = 1 ∧ Runs stM wVl (withMask wVl [wVl.a, wVl.b]) [wVl.d] ∧
      mayAccess stM wVl false false (liveParts stM wVl (accParts ((stM.ctx {}).addr wVl) 256 0 none)) = true) ∧
    (let w := { wVl with b := rs 2, ty := 3 };
      Runs stM w (withMask w [w.a, w.b]) [w.d] ∧ mayAccess stM w false false (liveParts stM w ((stM.ctx {}).elemAccs w true)) = true) ∧
    (Runs stM wVg (withMask wVg [wVg.a, wVg.b]) [wVg.d] ∧ mayAccess stM wVg false false (liveParts stM wVg ((stM.ctx {}).elemAccs wVg false)) = true) := by
  unfold Runs; decide +kernel

/-- A store of two parts to the scratch of cell 0 under way, a lane load of two lanes, a lane store, and atomics at die scratch. -/
def stProd : State := stM.modCtx {} (fun c => { c with prods := [
  { id := 4, kind := .store [[(tileKey 0 0x44, 7)], [(tileKey 0 0x80, 8)]] },
  { id := 5, dst := .v 31, kind := .lanes [(0, laneKey 0 0 12), (255, laneKey 0 255 12)] },
  { id := 6, kind := .store [[(laneKey 0 255 12, 9)]] },
  { id := 7, dst := .s 63, kind := .atomic 7 2 (dieKey 0 0x0C) 0 5 0 0x0C },
  { id := 8, dst := .s 0, kind := .atomic 9 2 (dieKey 0 0xFFF034) 3 0 0 0xFFF034 }] })

theorem witness_Stores :
    ((Fields.space wLd).buffered = true ∧ Runs stM wLd [wLd.a, wLd.b, wLd.c] [] ∧
      mayAccess stM wLd (Fields.rel wLd) true (accParts ((stM.ctx {}).addr wLd) 4 0 none) = true ∧
      (accParts ((stM.ctx {}).addr wLd) 4 0 none).any (fun a => touchesGuarded 0 a.va a.len) = false ∧
      ((stM.ctx {}).opn.store (stM.storeBytes .d [] 0x55667788 (accParts ((stM.ctx {}).addr wLd) 4 0 none))).used ≤ 1024) ∧
    (let w := { wVl with c := rv 1, spc := 1, a := rs 2 };
      Fields.space w = .s ∧ Sound stM ∧ Runs stM w (withMask w [w.a, w.b, w.c]) [] ∧
      mayAccess stM w (Fields.rel w) true (liveParts stM w (accParts ((stM.ctx {}).addr w) 256 0 none)) = true ∧
      ((stM.ctx {}).releaseWait (Fields.rel w)).isNone = true ∧
      (liveParts stM w (accParts ((stM.ctx {}).addr w) 256 0 none)).all (fun a => (stM.scaleWait a.va a.len).isNone) = true) ∧
    (Sound stProd ∧ ((stProd.ctx {}).prods[0]?).map (fun p => p.kind) = some (.store ([(tileKey 0 0x44, 7)] :: [[(tileKey 0 0x80, 8)]])) ∧
      (stProd.ctx {}).prods.find? (fun q => q.id == 4) = (stProd.ctx {}).prods[0]? ∧ homeTag 3 ≤ tileKey 0 0x44) ∧
    (((stProd.ctx {}).prods[2]?).map (fun p => p.kind) = some (.store ([(laneKey 0 255 12, 9)] :: [])) ∧
      (stProd.ctx {}).prods.find? (fun q => q.id == 6) = (stProd.ctx {}).prods[2]? ∧ homeTag 3 ≤ laneKey 0 255 12) := by
  unfold Runs Sound; decide +kernel

theorem witness_LaneSlices :
    (let w := { wVl with spc := 4 };
      Fields.space w = .l ∧ w.d.cls = 1 ∧ Runs stM w (withMask w [w.a, w.b]) [w.d] ∧ (stM.ctx {}).orderWait false = none ∧
      (stM.ctx {}).addr w < 2 ^ 10 ∧ (stM.ctx {}).laneWait ((List.range 256).map (fun i => laneKey 0 i ((stM.ctx {}).addr w))) false = none) ∧
    (let w := { wVg with spc := 4, c := rv 1 };
      Runs stM w (withMask w [w.a, w.b, w.c]) [] ∧ (stM.ctx {}).orderWait (Fields.rel w) = none ∧ (stM.ctx {}).releaseWait (Fields.rel w) = none ∧
      (stM.ctx {}).laneWait ((List.range 256).map (fun i => laneKey 0 i 12)) true = none ∧
      ∀ i, i < 256 → ((stM.ctx {}).raw w w.a).toNat + elem 32 ((stM.ctx {}).vec w.b).toNat (i / 4) < 2 ^ 10) ∧
    (((stProd.ctx {}).prods[1]?).map (fun p => (p.kind, p.dst)) = some (.lanes [(0, laneKey 0 0 12), (255, laneKey 0 255 12)], .v 31) ∧
      [0, 255].Nodup ∧ ((stProd.ctx {}).prods.take 1).any (fun o => o.lanesAlso [(0, laneKey 0 0 12), (255, laneKey 0 255 12)]) = false) := by
  unfold Runs; decide +kernel

theorem witness_CacheMaintenance :
    (let w := { wLd with spc := 0 }; Runs stG w [w.a, w.b] [] ∧ (stG.cached (.ctx {}) 0 0x0C false false).isSome = true) ∧
    (let w := { wLd with spc := 0, c := rs 0 }; Runs stG w [w.a, w.b, w.c] [] ∧ min ((stG.ctx {}).raw w w.c).toNat (2 ^ 32) = 0) ∧
    (let w := { wLd with spc := 0, c := rs 6 };
      Runs stG w [w.a, w.b, w.c] [] ∧ (stG.ctx {}).addr w = 0x0C ∧ ((stG.ctx {}).raw w w.c).toNat = 128 ∧
      0x0C / 128 * 128 / 2 ^ 16 = ((0x0C + 128 - 1) / 128 * 128 + 127) / 2 ^ 16 ∧ stG.cached (.ctx {}) 0 0 false false = some 0x10000) := by
  unfold Runs; decide +kernel

/-- Ring 3 of two 1,024-byte slots at 0, one full; s4 = a geometry of four slots of 256 bytes. -/
def stR : State :=
  cell0 (live (fun c => { c with rings := [(3, { declared := true, sz := 3, n := 2, base := 0, tail := 1 })], arch := (c.arch.ws 4 0x40001).ws 5 1 }))
    (fun k => k.setWord 4 0 2)

theorem witness_RingWords :
    (let w : Fields := { d := rb 2, a := rs 0, b := rs 4 };
      let c := stR.ctx {};
      Sound stR ∧ Runs stR w [w.a, w.b] [] ∧ fld (c.raw w w.b).toNat 3 0 ≤ 8 ∧ fld (c.raw w w.b).toNat 15 4 = 0 ∧ 2 ≤ fld (c.raw w w.b).toNat 28 16 ∧
      fld (c.raw w w.b).toNat 28 16 ≤ 4096 ∧ (c.raw w w.b).toNat < 2 ^ 29 ∧ (c.raw w w.a).toNat % 128 = 0 ∧
      0 + 4 * 2 ^ (1 + 7) ≤ (stR.cell 0).scratch * 2 ^ 17 ∧ (c.ring 2).tail = (c.ring 2).chead ∧ stR.ringBound 0 (c.ring 2) = false) ∧
    (let w : Fields := { d := rb 3, a := rv 1, b := im 3 };
      let r := (stR.ctx {}).ring 3;
      Runs stR w [w.a] [] ∧ r.fed = false ∧ 1 ≤ r.free ∧ (immOf w w.b).toNat < r.parts ∧ stR.appending {} false 3 = false ∧
      ((stR.ctx {}).orderWait false).isNone = true ∧
      ((stR.ctx {}).atomicWait (tileKey 0 (r.slot r.tail + 256 * 3)) 256).isNone = true) ∧
    (let w : Fields := { d := rv 31, a := rb 3, b := im 3 };
      let r := (stR.ctx {}).ring 3;
      w.d.cls = 1 ∧ Runs stR w [] [w.d] ∧ 1 ≤ r.held ∧ stR.queuedOn {} 3 = 0 ∧ (immOf w w.b).toNat < (if r.sz = 0 then 1 else r.parts) ∧
      ((stR.ctx {}).orderWait false).isNone = true ∧
      ((stR.ctx {}).atomicWait (tileKey 0 (r.slot r.shead + 256 * 3)) 256).isNone = true) ∧
    (let w : Fields := { d := rs 1, a := rb 3 }; w.d.cls = 0 ∧ Runs stR w [] [w.d]) ∧
    (let w : Fields := { a := rb 3, b := rs 5 };
      let c := stR.ctx {};
      Runs stR w [w.b] [] ∧ 1 ≤ (c.raw w w.b).toNat ∧ (c.raw w w.b).toNat ≤ (c.ring 3).n ∧ (c.raw w w.b).toNat ≤ (c.ring 3).held ∧
      stR.queuedOn {} 3 = 0) := by
  unfold Runs Sound; decide +kernel

def wA : Fields := { ty := 2, spc := 3, d := rs 63, a := rs 1, b := im 0, c := rs 3, imm := 0x18 }

/-- The cell's cache holds a translation of virtual 0 to host memory. -/
def stH : State := cell0 stM (fun k => { k with tlb := { ents := [{ asid := 0, va := 0, lg := 16, pa := 2 ^ 45, wr := true }] } })

theorem witness_Atomics :
    (let c := stM.ctx {};
      wA.d.cls = 0 ∧ stM.isHead {} = true ∧ c.syncTrap stM .d 0x200 (c.addr wA) 4 true = none ∧ c.syncTrap stM .d 0x207 (c.addr wA) 4 true = none ∧
      stM.partHome .d (c.addr wA) false true = some (dieKey 0 0x0C) ∧ stM.partHome .d (c.addr wA) false false = some (dieKey 0 0x0C) ∧
      (c.orderWait (Fields.rel wA)).isNone = true ∧ (c.atomicWait (dieKey 0 0x0C) 4).isNone = true ∧
      (c.loadWait (dieKey 0 0x0C) 4).isNone = true ∧ (stM.scaleWaitAt (dieKey 0 0x0C) 4).isNone = true ∧ isHostKey (dieKey 0 0x0C) = false ∧
      Runs stM wA [wA.a, wA.b, wA.c, wA.e] [wA.d] ∧ Runs stM wA [wA.a, wA.b, wA.c] [wA.d]) ∧
    (let w := { wA with spc := 0 };
      let c := stH.ctx {};
      w.d.cls = 0 ∧ stH.isHead {} = true ∧ Fields.space w = .g ∧ c.syncTrap stH .g 0x200 (c.addr w) 4 true = none ∧
      stH.partHome .g (c.addr w) true false = some (hostKey 0x0C) ∧ (c.orderWait (Fields.rel w)).isNone = true ∧
      (c.atomicWait (hostKey 0x0C) 4).isNone = true ∧ (c.loadWait (hostKey 0x0C) 4).isNone = true ∧
      (stH.scaleWaitAt (hostKey 0x0C) 4).isNone = true ∧ isHostKey (hostKey 0x0C) = true ∧ Runs stH w [w.a, w.b, w.c, w.e] [w.d]) ∧
    (Sound stProd ∧ ((stProd.ctx {}).prods[3]?).map (fun p => (p.kind, p.dst)) = some (.atomic 7 2 (dieKey 0 0x0C) 0 5 0 0x0C, .s 63) ∧
      ((stProd.ctx {}).prods[4]?).map (fun p => (p.kind, p.dst)) = some (.atomic 9 2 (dieKey 0 0xFFF034) 3 0 0 0xFFF034, .s 0)) := by
  unfold Runs Sound; decide +kernel

/-- A barrier object at die-scratch offset 0x40: two arrivals expected, one there; s1 names it. -/
def stB : State :=
  bytesAt (withS [(1, 0x40), (2, 0x80), (3, 2)]) (dieKey 0 0x40) [2, 0, 0, 0, 1]

def wB : Fields := { ty := 2, spc := 3, d := rs 63, a := rs 1, b := im 0, c := rs 3 }

theorem witness_FencesWaitsAndBarriers :
    (let w : Fields := { fn := 0x0C }; Runs stB w [] [] ∧ (stB.ctx {}).prods.all (fun p => !p.access) = true ∧
      ((stB.ctx {}).releaseWait (Fields.rel w || !Fields.acq w)).isNone = true ∧ Fields.acq w = true ∧ 2 ≤ Fields.scope w) ∧
    (let c := stB.ctx {};
      wB.d.cls = 0 ∧ Runs stB wB [wB.a, wB.b, wB.c] [wB.d] ∧ stB.isHead {} = true ∧ (c.orderWait false).isNone = true ∧
      c.syncTrap stB .d 0x241 (c.addr wB) 4 false = none ∧ stB.partHome .d (c.addr wB) false true = some (dieKey 0 0x40) ∧
      (c.atomicWait (dieKey 0 0x40) 4).isNone = true ∧ (c.loadWait (dieKey 0 0x40) 4).isNone = true ∧
      (stB.scaleWaitAt (dieKey 0 0x40) 4).isNone = true) ∧
    (let w := { wB with a := rs 2 };
      let c := stB.ctx {};
      let o := dieKey 0 0x80;
      Sound stB ∧ Runs stB w [w.a, w.b, w.c] [] ∧ (c.orderWait false).isNone = true ∧ c.syncTrap stB .d 0x242 (c.addr w) 32 true = none ∧
      stB.partHome .d (c.addr w) false false = some o ∧ (c.atomicWait o 32).isNone = true ∧
      (c.loadWait o 32).isNone = true ∧ (stB.scaleWaitAt o 32).isNone = true ∧ (∀ i, i < 32 → ownBits (o + i) = 0) ∧ memNum stB.mem (o + 4) 4 = 0 ∧ memNum stB.mem (o + 8) 4 = 0 ∧
      fld (c.raw w w.c).toNat 59 58 ≠ 3 ∧ fld (c.raw w w.c).toNat 63 60 = 0 ∧ fld (c.raw w w.c).toNat 36 32 = 0) ∧
    (let c := stB.ctx {};
      let o := dieKey 0 0x40;
      Runs stB wB [wB.a, wB.b] [wB.d] ∧ (c.orderWait true).isNone = true ∧ c.syncTrap stB .d 0x243 (c.addr wB) 32 true = none ∧
      stB.partHome .d (c.addr wB) false false = some o ∧ memNum stB.mem (o + 4) 4 + 1 = memNum stB.mem o 4 ∧ memNum stB.mem (o + 8) 4 = 0) ∧
    (let c := stB.ctx {};
      let o := dieKey 0 0x40;
      Runs stB wB [wB.a, wB.b, wB.c] [] ∧ c.syncTrap stB .d 0x244 (c.addr wB) 32 true = none ∧
      memNum stB.mem (o + 8) 4 + (c.raw wB wB.c).toNat % 2 ^ 32 < 2 ^ 32) ∧
    (let c := stB.ctx {};
      let o := dieKey 0 0x40;
      let w := { wB with c := im 1 };
      c.syncTrap stB .d 0x245 (c.addr wB) 32 false = none ∧ bit (memNum stB.mem (o + 12) 1) 0 ≠ bit (c.raw w w.c).toNat 0 ∧
      bit (memNum stB.mem (o + 12) 1) 0 = bit (c.raw wB wB.c).toNat 0 ∧ stB.barWaits.any (fun b => b.x == stB.cur && b.obj == o) = false) := by
  unfold Runs Sound; decide +kernel


/-- 3, 2, 1, −1 and 0 as operands; 1/3 lies between two neighbours of a grid of 27 bits, 1/2 on one. -/
theorem witness_TranscendentalsRoundOnce :
    FVal.ofCode .f32 0x40400000 = .fin false 0xC00000 (-22) ∧ (1 : ℝ) * (0xC00000 : Nat) * 2 ^ (-22 : Int) = 3 ∧
    (2 ^ (Fmt.f32.mb + 3) ≤ 89478485 ∧ ((89478485 : Nat) : ℝ) * 2 ^ (-28 : Int) < |1 / 3| ∧
      |(1 / 3 : ℝ)| < (((89478485 : Nat) : ℝ) + 1) * 2 ^ (-28 : Int) ∧ ((1 / 3 : ℝ) < 0 ↔ false = true)) ∧
    FVal.ofCode .f32 0x40000000 = .fin false 0x800000 (-22) ∧ (1 : ℝ) * (0x800000 : Nat) * 2 ^ (-22 : Int) = 2 ∧
    |(1 / 2 : ℝ)| = ((2 ^ 26 : Nat) : ℝ) * 2 ^ (-27 : Int) ∧
    FVal.ofCode .f32 0x3F800000 = .fin false 0x800000 (-23) ∧ (1 : ℝ) * (0x800000 : Nat) * 2 ^ (-23 : Int) = 1 ∧
    FVal.ofCode .f32 0xBF800000 = .fin true 0x800000 (-23) ∧ (-1 : ℝ) * (0x800000 : Nat) * 2 ^ (-23 : Int) < 0 ∧
    FVal.ofCode .f32 0x80000000 = .fin true 0 (-149) := by
  refine ⟨by decide +kernel, by norm_num, ⟨by decide +kernel, by norm_num [abs_of_pos], by norm_num [abs_of_pos], by norm_num⟩, by decide +kernel, by norm_num,
    by norm_num [abs_of_pos], by decide +kernel, by norm_num, by decide +kernel, by norm_num, by decide +kernel⟩
/-! ### Witnesses: ports, messages, the island, control -/

def beat (sb : BitVec 16) : Beat := { sb := sb, data := 5 }

/-- Port 2 an outbound stream with room and a data beat of this round, port 3 an inbound stream with two beats, the second with a mark; port 4
outbound and empty; s1 = 256, s2 = the binding of an inbound stream. -/
def stQ : State := live (fun c => { c with
  ports := [(2, { bind := 3, depth := 4, fifo := [beat 0x0104] }), (3, { bind := 2, depth := 4, fifo := [beat 0x0104, beat 0x0304] }),
            (4, { bind := 3, depth := 2 })]
  opn := { c.opn with snap := { c.opn.snap with ports := [(2, { bind := 3 })] } }
  arch := ((c.arch.ws 1 256).ws 2 2).ws 3 0x2000 })

/-- The same on a cell whose accumulator 0 holds a list of 8 and whose island context 0 holds. -/
def stI : State := cell0 stQ (fun k => { k with
  lists := [(0, 8)], island := { k.island with holder := some 0, tiles := { k.island.tiles with aty := 0 } } })

theorem witness_PortWords :
    (let w : Fields := { d := rq 3, a := rs 2 };
      let c := (stQ.modCtx {} (fun c => c.setPort 3 { c.port 3 with fifo := [] })).ctx {};
      2 ≤ w.d.idx.toNat ∧ Runs stQ w [w.a] [] ∧ bindOk (c.raw w w.a).toNat = true ∧ (c.port 3).out = false ∧ (c.port 3).avail = [] ∧
      (stQ.modCtx {} (fun c => c.setPort 3 { c.port 3 with fifo := [] })).delivering {} 3 = false ∧ stQ.appending {} true 3 = false ∧
      stQ.merging {} 3 = false) ∧
    (let w : Fields := { d := rq 2, a := rv 0, b := rs 1, fn := 7 };
      let c := stQ.ctx {};
      Runs stQ w [w.a, w.b] [] ∧ 2 ≤ w.d.idx.toNat ∧ (c.port 2).out = true ∧ (c.port 2).closed = false ∧ 1 ≤ (c.raw w w.b).toNat ∧
      (c.raw w w.b).toNat ≤ 256 ∧ (c.port 2).old.length + (c.port 2).fifo.length < (c.port 2).depth ∧ stQ.appending {} true 2 = false) ∧
    (let c := stQ.ctx {};
      Runs stQ { d := rq 2, fn := 0x0F } [] [] ∧ (BitVec.getLsbD (0x0F : BitVec 8) 3) = true ∧ (BitVec.getLsbD (0x07 : BitVec 8) 3) = false ∧ c.marks 2 = true ∧
      (c.port 3).out = false) ∧
    (let w : Fields := { d := rs 1, a := rq 3 };
      w.d.cls = 0 ∧ Runs stQ w [] [w.d] ∧ (stQ.ctx {}).port 3 = { bind := 2, depth := 4, fifo := [beat 0x0104, beat 0x0304] }) ∧
    (let w : Fields := { d := rq 3, a := ra 0, b := im 31 };
      let c := stI.ctx {};
      Runs stI w [w.b] [] ∧ stI.merging {} 3 = false ∧ (c.port 3).out = false ∧ (c.port 3).kind = 1 ∧ (stI.cell 0).listK (c.acc 0) ≠ 0 ∧ (c.raw w w.b).toNat < 32) ∧
    (let w : Fields := { d := rq 3, a := ra 0, b := im 0x7F };
      let c := stI.ctx {};
      Runs stI w [w.b] [] ∧ c.raw w w.b = BitVec.allOnes 64) := by
  unfold Runs; decide +kernel

theorem witness_MessagesAreBuffered :
    (let w : Fields := { a := rs 3, b := rv 0, c := rs 1 };
      let c := stQ.ctx {};
      c.opn.used < 1024 ∧ Runs stQ w [w.a, w.b] [] ∧ boxOk (c.raw w w.a).toNat = true) ∧
    (let w : Fields := { a := rs 3, b := rs 1, c := rs 2 }; Runs stQ w [w.a, w.b, w.c] []) ∧
    (let w : Fields := { a := rs 4, fn := 4 };
      let s := withS [(4, 0x0006000000000040)];
      Runs s w [w.a] [] ∧ addrWord ((s.ctx {}).raw w w.a).toNat = some (.die 0 0x40) ∧ 0x40 + 32 ≤ 2 ^ 24) := by
  unfold Runs; decide +kernel

def stW : State := stI.modCtx {} (fun c => { c with
  rings := [(0, { declared := true, sz := 8, n := 2, tail := 1 }), (1, { declared := true, sz := 0, n := 4, tail := 4 })]
  info := { c.info with nacc := 8, amap := [0, 1, 2, 3, 4, 5, 6, 7] } })

theorem witness_RowQueueWords : (stW.cell 0).island.holder = some 0 ∧
    (let w : Fields := { a := rb 0, ty := 0 }; Runs stW w [] [] ∧ ((stW.ctx {}).ring 0).sz = 8 ∧ (stW.cell 0).island.rq.length + 1 ≤ 64 ∧
      ((stW.ctx {}).scratchWait [stW.ringSpan (stW.ctx {}) 0]).isNone = true) ∧
    (let w : Fields := { d := ra 1, a := rb 1, b := im 4, ty := 0 };
      let c := stW.ctx {};
      let i := (stW.cell 0).island;
      Runs stW w [w.b] [] ∧ (c.ring 1).declared = true ∧ (c.ring 1).sz = 0 ∧ (stW.cell 0).listK (c.acc 1) = 0 ∧ (i.tiles.after i.rq).aty = 0 ∧
      1 ≤ (c.raw w w.b).toNat ∧ (c.raw w w.b).toNat ≤ 32 ∧ scaled 0 = false ∧ stW.queuedOn {} 1 + 4 ≤ (c.ring 1).held + stW.ringAppends {} 1 ∧
      (c.scratchWait [stW.ringSpan c 1]).isNone = true) ∧
    (let w : Fields := { d := ra 1, a := rb 1, b := rm 3, ty := 0 };
      w.b.cls = 2 ∧ Runs stW w [] [] ∧ [] = (List.range 32).filter (fun r => ((stW.ctx {}).arch.rm (w.b.idx.toNat - 16)).getLsbD r)) ∧
    (let w : Fields := { d := rs 1 }; w.d.cls = 0 ∧ Runs stW w [] [w.d] ∧ (stW.cell 0).island.rq.length < 2 ^ 7 ∧
      (stW.cell 0).island.pq.length < 2 ^ 7 ∧ (stW.cell 0).island.cq.length < 2 ^ 6 ∧ (stW.cell 0).island.tiles.aty < 16 ∧ (stW.cell 0).island.tiles.lty < 16) := by
  unfold Runs; decide +kernel

/-- A row of block partials of accumulator 1 stands in the partial queue; s1 and s2 name scale vectors in scratch. -/
def stP : State := (cell0 stW (fun k => { (k.setWord 4 0 2) with
  island := { k.island with pq := [{ acc := 1, row := 0, ty := 13 }] } })).modCtx {} (fun c => { c with arch := (((c.arch.ws 1 0).ws 2 1024).ws 3 31).ws 4 64 })

theorem witness_ClosingQueueWords :
    (Runs stP { d := ra 1 } [] [] ∧ (stP.cell 0).listK ((stP.ctx {}).acc 1) = 0 ∧ (stP.cell 0).island.cq.length < 32) ∧
    (let w : Fields := { d := ra 1, a := rs 4 }; Runs stP w [w.a] [] ∧ ((stP.ctx {}).raw w w.a).toNat ≤ 64) ∧
    (let w : Fields := { d := ra 0, a := im 0x7F }; Runs stP w [w.a] [] ∧ (stP.cell 0).listK ((stP.ctx {}).acc 0) ≠ 0 ∧ (stP.ctx {}).raw w w.a = BitVec.allOnes 64) ∧
    (let w : Fields := { d := ra 0, a := rs 3, b := ra 1, c := rs 1 }; w.b.cls ≠ 1 ∧ Runs stP w [w.a, w.c] [] ∧ ((stP.ctx {}).raw w w.a).toNat < 32 ∧
      (stP.cell 0).listK ((stP.ctx {}).acc 1) = 0) ∧
    (let w : Fields := { d := ra 0, a := rs 3 }; Runs stP w [w.a] [] ∧ ((stP.ctx {}).raw w w.a).toNat < 32 ∧ (stP.cell 0).listK ((stP.ctx {}).acc 0) ≠ 0) ∧
    (let w : Fields := { d := ra 1, a := rs 3 }; Runs stP w [w.a] [] ∧ (stP.cell 0).listK ((stP.ctx {}).acc 1) = 0) ∧
    (let w : Fields := { d := ra 0, a := rs 3, b := rv 1, c := rv 2 }; w.b.cls = 1 ∧ Runs stP w (w.a :: w.b :: withMask w [w.c]) []) ∧
    (let w : Fields := { d := ra 0, a := rs 3, b := rq 0 }; w.b.idx = 0 ∧ Runs stP w [w.a, w.b] []) ∧
    (let w : Fields := { d := ra 1, a := rs 1, b := rs 2, c := im 1, ty := 13 };
      let k := stP.cell 0;
      let tags := (((k.island.pq.filter (fun p => p.used.isNone)).map (fun p => (p.acc, p.ty))) ++ k.island.scaledRows).drop
          (k.island.claims (fun _ => true));
      ((stP.ctx {}).raw w w.c).toNat = 1 ∧ Runs stP w [w.a, w.b, w.c] [] ∧ 1 ≤ tags.length ∧ (tags.take 1).all (fun t => t == (1, w.ty.toNat)) = true ∧
      (stP.cell 0).island.holder = some 0 ∧ ((stP.ctx {}).scratchWait [(tileKey 0 0, 128), (tileKey 0 1024, 1024)]).isNone = true ∧
      (stP.ctx {}).acc 1 = 1 ∧ stP.spanTrap 0 128 = none ∧ stP.spanTrap 1024 1024 = none) := by
  unfold Runs; decide +kernel

/-- A merge from port 3 is at the front of the closing unit of cell 0. -/
def stMerge : State := cell0 stP (fun k => { k with island := { k.island with cq := [{ op := .rlmergeQ 31 3 }] } })

/-- The same with EOF at the head of the port. -/
def stMergeEof : State := stMerge.modCtx {} (fun c => c.setPort 3 { c.port 3 with fifo := [eofBeat] })

theorem witness_ClosingQueueWords_merge :
    (let w : Fields := { d := ra 0, a := rs 3, b := rq 3 };
      let p := (stP.ctx {}).port 3;
      Runs stP w [w.a, w.b] [] ∧ w.b.cls = 4 ∧ 2 ≤ w.b.idx.toNat ∧ ((stP.ctx {}).raw w w.a).toNat < 32 ∧
      (stP.cell 0).listK ((stP.ctx {}).acc 0) ≠ 0 ∧ beat 0x0304 ∈ p.avail ∧ beatMark (beat 0x0304).sb ≠ 0) ∧
    (stMerge.cell 0).island.cq = [{ op := .rlmergeQ 31 3 }] ∧ (stMerge.cell 0).island.behindRow { op := .rlmergeQ 31 3 } = false ∧
    ((stMerge.ctx {}).port 3).head? = some (beat 0x0104) ∧ (beat 0x0104).sb ≠ 0x1000 ∧
    (stMergeEof.cell 0).island.cq = [{ op := .rlmergeQ 31 3 }] ∧ ((stMergeEof.ctx {}).port 3).head? = some eofBeat := by
  unfold Runs; decide +kernel

theorem witness_ClosingUnitResults :
    (let w : Fields := { d := rv 31, a := ra 1, b := rs 3, c := im 0, ty := 8 };
      w.d.cls = 1 ∧ Runs stP w [w.b] [w.d] ∧ ((stP.ctx {}).raw w w.b).toNat < 32 ∧ (stP.cell 0).island.cq.length < 32 ∧
      (stP.cell 0).listK ((stP.ctx {}).acc 1) = 0 ∧ (stP.cell 0).listK ((stP.ctx {}).acc 0) ≠ 0) ∧
    (let w : Fields := { d := rs 63, a := ra 0, b := rs 3, c := rs 1 }; w.d.cls = 0 ∧ Runs stP w [w.b] [w.d] ∧ Runs stP w [w.b, w.c] [w.d]) := by
  unfold Runs; decide +kernel

def stD : State := stP.modCtx {} (fun c => { c with rings := [(2, { declared := true, sz := 3, n := 2 })] })

/-- The closing unit of cell 0 has this to perform next, for accumulator 0, whose row 0 holds what `v` says. -/
def closing (op : CloseOp) (v : Nat) : State := cell0 stD (fun k => { k with
  accs := [(0, BitVec.ofNat 8192 v)], island := { k.island with rq := [], cq := [{ ctx := 0, ord := 1, acc := 0, op := op }] } })

/-- What the closing unit is about to perform in a state. -/
def closes (s : State) (op : CloseOp) : Prop :=
  s.cells.get? 0 ≠ none ∧ (s.cell 0).island.cq = [{ ctx := 0, ord := 1, acc := 0, op := op }] ∧
    (s.cell 0).island.behindRow { ctx := 0, ord := 1, acc := 0, op := op } = false

theorem witness_DrainsToPortsAndRings :
    (let w : Fields := { d := rq 2, a := ra 1, b := rs 3, c := im 7, ty := 4 };
      let c := stD.ctx {};
      Runs stD w [w.b] [] ∧ (c.raw w w.b).toNat < 32 ∧ (stD.cell 0).island.cq.length < 32 ∧ w.d.cls = 4 ∧ 2 ≤ w.d.idx.toNat ∧ (c.port 2).out = true ∧
      (c.port 2).closed = false ∧ (stD.cell 0).listK (c.acc 1) = 0 ∧
      (c.port 2).old.length + (c.port 2).fifo.length + (stD.appends {} 2 + tyBits w.ty.toNat / 8) ≤ (c.port 2).depth) ∧
    (let c := stD.ctx {};
      (stD.cell 0).listK (c.acc 0) ≠ 0 ∧ (stD.cell 0).island.quiet (c.acc 0) = true ∧ rowPairs ((stD.cell 0).accRow 0 0) = [] ∧
      (c.port 2).old.length + (c.port 2).fifo.length + (stD.appends {} 2 + 1) ≤ (c.port 2).depth) ∧
    (let w : Fields := { d := rb 2, a := ra 1, b := rs 3, ty := 8 };
      let r := (stD.ctx {}).ring 2;
      Runs stD w [w.b] [] ∧ w.d.cls = 5 ∧ r.fed = false ∧ 256 * (tyBits w.ty.toNat / 8) ≤ r.size ∧ stD.ringAppends {} 2 < r.free ∧
      ((stD.ctx {}).scratchWait [stD.ringSpan (stD.ctx {}) 2]).isNone = true) ∧
    Sound (closing (.drainQ 2 4 0 false 0 2 7 1) 0) ∧ closes (closing (.drainQ 2 4 0 false 0 2 7 1) 0) (.drainQ 2 4 0 false 0 2 7 1) ∧
    closes (closing (.rlsend 0 2 7 1) 0) (.rlsend 0 2 7 1) ∧ rowPairs (((closing (.rlsend 0 2 7 1) 0).cell 0).accRow 0 0) = [] ∧
    rowPairs (((closing (.rlsend 0 2 7 1) (1 <<< 4096)).cell 0).accRow 0 0) ≠ [] ∧
    closes (closing (.drainB 2 8 0 false 0 2) 0) (.drainB 2 8 0 false 0 2) := by
  unfold Runs Sound closes; decide +kernel
theorem witness_RankedListsKeepTheBest : 1 ≤ 1 ∧ 64 ≤ 64 ∧ f32nan 0x7F800001 = true ∧ f32nan 0x3F800000 = false ∧ 0x3F800000 < 2 ^ 32 ∧
    List.Perm [(1, 2), (3, 4)] [(3, 4), (1, 2)] := by decide

/-- A unit at word 3 of its block with a trap action at word 8 of the block 8 to 9, its class-0 beats on q0, and s1 = 1. -/
def stC : State := cell0 (live (fun c => { c with
  info := { c.info with trapw := some 8, amap := [] }
  ports := [(0, { bind := 2, depth := 4, fifo := [beat 0x0104, beat 0x1000] })]
  arch := { (c.arch.ws 1 1) with tok := beat 0x0E04 } })) (fun k => (k.setWord 2 0 0x100090008).setWord 1 0 (0x0001000000000000 + 0x20000))

theorem witness_ControlWords :
    ((stC.ctx {}).arch.guards {} = true ∧ (stC.ctx {}).arch.pos = .word 3 0 9) ∧
    (let w : Fields := { a := im 6, b := rs 1 }; Runs stC w [w.b] [] ∧ 3 + (immOf w w.a).toNat ≤ 9 ∧ 3 + ((immOf w w.a).toNat + 1) > 9) ∧
    (let w : Fields := { a := im 5, b := rs 1 }; 3 + ((immOf w w.a).toNat + 1) ≤ 9 ∧ bit ((stC.ctx {}).raw w w.b).toNat (beatClass 0) = true ∧
      bit ((stC.ctx {}).raw w w.b).toNat (beatClass (stC.ctx {}).arch.tok.sb) = false) ∧
    (let w : Fields := { a := im 7, b := rs 1 }; 9 < 3 + (immOf w w.a).toNat) ∧
    (let w : Fields := { d := rs 63, a := im 1 };
      let c := stC.ctx {};
      w.d.cls = 0 ∧ Runs stC w [] [w.d] ∧ c.handing = false ∧ 1 ≤ (immOf w w.a).toNat ∧
      (c.steer.take 1).all (fun b => b.sb != 0x1000) = true ∧ c.arch.tok.sb ≠ 0x1000 ∧ c.steer[0]? = some (beat 0x0104) ∧
      (c.steer.take 2).any (fun b => b.sb == 0x1000) = true) ∧
    (let w : Fields := { a := rs 0 }; Runs stC w [w.a] [] ∧ ((stC.ctx {}).raw w w.a).toNat < (stC.gramOf {}).nnt ∧ (stC.ctx {}).arch.pushn = none) ∧
    (let w : Fields := { a := rs 1 };
      let c := stC.ctx {};
      Runs stC w [w.a] [] ∧ c.opn.ents = [] ∧ c.opn.msgs = [] ∧ c.opn.ts.toNat ≤ (c.raw w w.a).toNat % 2 ^ 32 ∧ c.opn.prev = none ∧
      c.info.ts0.toNat ≤ (c.raw w w.a).toNat % 2 ^ 32) ∧
    (let s := stC.modCtx { ctx := 1 } (fun c => { c with life := .live, info := { c.info with hrecv := true } });
      let w : Fields := { a := rs 1 };
      let c := s.ctx {};
      Runs s w [w.a] [] ∧ beatMark c.arch.tok.sb = 7 ∧ (c.raw w w.a).toNat = 1 ∧ c.opn.hands = false ∧ c.opn.used < 1024 ∧
      ctxAt (s.pageCell 0 0) 1 = { ctx := 1 } ∧ (s.ctx { ctx := 1 }).life = .live ∧ (s.ctx { ctx := 1 }).info.hrecv = true ∧
      (s.ctx { ctx := 1 }).info.sdie = c.info.sdie ∧ (s.ctx { ctx := 1 }).info.lkey = c.info.lkey ∧ (s.ctx { ctx := 1 }).info.page = c.info.page) ∧
    (stC.ctx {}).arch.trapped = none := by
  unfold Runs; decide +kernel

theorem witness_RoundWords :
    let c := st0.ctx {};
    c.arch.guards {} = true ∧ c.cancel = false ∧ c.closed = none ∧ c.opn.ts ≠ 0xFFFFFFFF ∧
    (let s := stQ.modCtx {} (fun c => { c with rings := [(1, { n := 2, tail := 1 })], opn := { c.opn with snap := { c.opn.snap with rings := [(1, {})] } } });
      (s.ctx {}).arch.guards {} = true ∧ (s.ctx {}).ports.get? 2 = some { bind := 3, depth := 4, fifo := [beat 0x0104] } ∧
      (s.ctx {}).opn.snap.ports.get? 2 = some { bind := 3 } ∧ (s.ctx {}).rings.get? 1 = some { n := 2, tail := 1 } ∧
      (s.ctx {}).opn.snap.rings.get? 1 = some {}) := by
  decide +kernel

/-- Inside a trap action. -/
def stT : State := stC.modCtx {} (fun c => { c with arch := { c.arch with trapped := some (.word 3 0 9) } })

theorem witness_TrapsAndHalt :
    (Traps (.ill {}) stC 1 1 ∧ (stC.ctx {}).arch.trapped = none ∧ (stC.ctx {}).info.trapw = some 8 ∧ (stC.cell 0).block 8 = some 9) ∧
    (let w : Fields := { a := rs 1 }; Runs stC w [w.a] [] ∧ (stC.ctx {}).arch.guards w = true ∧ Runs stT w [w.a] [] ∧ (stT.ctx {}).prods = []) ∧
    (let s := stQ.modCtx {} (fun c => { c with opn := { c.opn with snap := { c.opn.snap with ports := [(2, { bind := 3 })] } } });
      (s.ctx {}).closed = none ∧ (s.ctx {}).ports.get? 2 = some { bind := 3, depth := 4, fifo := [beat 0x0104] } ∧
      (s.ctx {}).opn.snap.ports.get? 2 = some { bind := 3 } ∧ ((s.ctx {}).port 2).out = true) ∧
    ((stT.ctx {}).arch.trapped = some (.word 3 0 9)) ∧
    (let s := stC.modCtx {} (fun c => { c with closed := some {} }); (s.ctx {}).closed = some {} ∧ (stC.ctx {}).closed = none) := by
  refine ⟨⟨rfl, by decide +kernel⟩, ?_⟩
  unfold Runs; decide +kernel

/-! ### Witnesses: system words and the sampler

Which cells are fused off is the part's own (R2), an uninterpreted constant of the model: where a statement speaks of a cell that is not, the
witness takes that as its premise. -/

/-- A privileged unit with beats on q0 and a bound outbound port; s1 = 5, s2 = 2^16, s6 = a record address. -/
def stS : State := live (fun c => { c with
  info := { c.info with sys := true }
  ports := [(0, { bind := 2, depth := 4, fifo := [beat 0x0104] }), (2, { bind := 3, depth := 4 })]
  arch := ((c.arch.ws 1 5).ws 2 0x10000).ws 6 0x0006000000000040 })

theorem witness_SpecialRegisters :
    (let w : Fields := { d := rs 63, a := im 0x20 }; w.d.cls = 0 ∧ Runs stS w [] [w.d] ∧ (immOf w w.a).toNat = 0x020) ∧
    (let w : Fields := { d := rs 63, a := im 0x40, imm := 0 }; (immOf { w with a := ⟨7, 0xC0, false, 0⟩, imm := 0x40 } ⟨7, 0xC0, false, 0⟩).toNat = 0x040) ∧
    (immOf {} (im 0x23)).toNat = 0x023 ∧ (immOf {} (im 0x21)).toNat = 0x020 + 1 ∧ (stS.ctx {}).handing = false ∧ (stS.ctx {}).look 1 = some (beat 0x0104) ∧
    (immOf {} (im 0x22)).toNat = 0x020 + 2 ∧ (stS.ctx {}).look 2 = none ∧ (stS.ctx {}).stuckIn 0 2 = false ∧
    (let s := stS.modCtx {} (fun c => { c with opn := { c.opn with msgs := [.handoff 0 1] } }); (s.ctx {}).handing = true) ∧
    (let w : Fields := { a := im 9, b := rs 1 }; (stS.ctx {}).priv = true ∧ Runs stS w [w.b] [] ∧ (immOf w w.a).toNat = 0x009) ∧
    (immOf {} (im 8)).toNat = 0x008 ∧ (stC.ctx {}).priv = false ∧ (stC.ctx {}).arch.guards {} = true := by
  unfold Runs; decide +kernel

theorem witness_DigestWords :
    (let w : Fields := { d := rs 63, a := rs 1, b := rv 1, c := im 64 }; w.d.cls = 0 ∧ Runs stS w [w.a, w.b] [w.d]) ∧
    (let w : Fields := { d := rv 31, a := rv 1, b := rv 2 }; w.d.cls = 1 ∧ Runs stS w [w.a, w.b] [w.d]) := by
  unfold Runs; decide +kernel

/-- A pool of 10 entries on die 0. -/
def stL : State := stS.setSched 0 { stS.sched 0 with pool := 10 }

theorem witness_LaunchWords :
    (let w : Fields := { d := rs 63, a := rs 6, b := im 9 };
      Runs stL w [{ w.a with bt := false }, w.b] [w.d] ∧ w.d.cls = 0 ∧ (stL.ctx {}).opn.used < 1024 ∧ ((stL.ctx {}).raw w w.b).toNat = 9 ∧
      (stL.sched 0).waits = [] ∧ (stL.issuer {}) = none ∧ 1 + 9 ≤ (stL.sched 0).room) ∧
    (let w : Fields := { d := rs 63, a := ⟨0, 6, true, 0⟩, b := im 10 };
      Runs stL w [{ w.a with bt := false }, w.b] [w.d] ∧ ((stL.ctx {}).raw w w.b).toNat = 10 ∧ w.a.bt = true ∧ ¬1 + 10 ≤ (stL.sched 0).room) ∧
    (1024 ≤ ((stL.modCtx {} (fun c => { c with opn := { c.opn with msgs := List.replicate 1024 (.handoff 0 1) } })).ctx {}).opn.used) ∧
    (let w : Fields := { d := rs 63, a := rs 6, b := rs 2 }; Runs stL w [{ w.a with bt := false }, w.b] [w.d] ∧ 4095 < ((stL.ctx {}).raw w w.b).toNat) ∧
    (let w : Fields := { d := rs 63, a := rs 6, b := im 4, fn := 0 };
      w.d.cls = 0 ∧ Runs stL w [w.a] [w.d] ∧ ((stL.ctx {}).orderWait false).isNone = true ∧ addrWord ((stL.ctx {}).raw w w.a).toNat = some (.die 0 0x40) ∧
      ((stL.ctx {}).atomicWait (dieKey 0 0x40) 32).isNone = true ∧
      ((stL.ctx {}).loadWait (dieKey 0 0x40) 32).isNone = true ∧ memNum stL.mem (dieKey 0 0x40 + 17) 1 = w.fn.toNat ∧ memNum stL.mem (dieKey 0 0x40 + 17) 1 ≠ 1) := by
  unfold Runs; decide +kernel

theorem witness_ShootDown :
    (let w : Fields := { a := rs 1, b := rs 1, c := rs 2 };
      let c := stS.ctx {};
      Runs stS w [w.a, w.b, w.c] [] ∧ c.priv = true ∧ stS.isHead {} = true ∧ (c.raw w w.a).toNat < 2 ^ 49 ∧ (c.raw w w.c).toNat < 2 ^ 17 ∧
      0 < (c.raw w w.b).toNat) ∧
    (let w : Fields := { a := rs 1, b := rs 0, c := rs 1 }; Runs stS w [w.a, w.b, w.c] [] ∧ ((stS.ctx {}).raw w w.b).toNat = 0) := by
  unfold Runs; decide +kernel

/-- Cell 5 of die 1 in a state, and words of the configuration network in s1 (region 5, word 0), s2 (region 6), s3 (region 7), s6 and s7 (rectangles
of two rows and two columns, and of too many rows). -/
def stK (st : BitVec 2) : State := (stS.modCell (cellKey 1 5) (fun k => (({ k with st := st }.setWord 4 0 2)))).modCtx {} (fun c => { c with
  arch := ((((((c.arch.ws 1 0x5105).ws 2 0x6105).ws 3 0x7105).ws 4 2).ws 5 3).ws 6 0x111).ws 7 0x11F })

/-- Cell 5 of die 1 as its repair bits make it. -/
def repaired (spare retired busy : Bool) : State :=
  ((stK 1).modCell (cellKey 1 5) (fun k => { k with spare := spare, retired := retired })).modCtx (ctxAt (cellKey 1 5) 0) (fun c =>
    { c with life := if busy then .live else .empty })

theorem witness_ConfigurationAndLoading (unfused : fusedOff (cellKey 1 5) = false) :
    (((stK 1).unusable (cellKey 1 5) = false ∧ (repaired true false false).unusable (cellKey 1 5) = true ∧
      (repaired false true false).unusable (cellKey 1 5) = true) ∧ Sound (stK 1) ∧
      (let w : Fields := { a := rs 1, b := rs 4, c := rs 0 };
        let c := (stK 1).ctx {};
        c.priv = true ∧ Runs (stK 1) w [w.a, w.b, w.c] [] ∧ (stK 1).isHead {} = true ∧ kilnOk (c.raw w w.a).toNat = true ∧ c.raw w w.c = 0 ∧
        cellKey (fld (c.raw w w.a).toNat 9 8) (fld (c.raw w w.a).toNat 7 0) = cellKey 1 5 ∧ fld (c.raw w w.a).toNat 15 12 < 6)) ∧
    (let w : Fields := { a := rs 1, b := rs 4, c := rs 6 };
      let rect := (((stK 1).ctx {}).raw w w.c).toNat;
      Runs (stK 1) w [w.a, w.b, w.c] [] ∧ rect / 2 ^ 8 = 1 ∧ 5 / 12 + (rect % 16 + 1) ≤ 12 ∧ 5 % 12 + (rect / 16 % 16 + 1) ≤ 12) ∧
    (let w : Fields := { a := rs 1, b := rs 4, c := rs 7 };
      let rect := (((stK 1).ctx {}).raw w w.c).toNat;
      rect ≠ 0 ∧ rect / 2 ^ 8 = 1 ∧ ¬5 / 12 + (rect % 16 + 1) ≤ 12) ∧
    (((stK 1).cell (cellKey 1 5)).st = 1 ∧ ((stK 2).cell (cellKey 1 5)).st ≠ 1 ∧ ((stK 2).cell (cellKey 1 5)).busy = false) ∧
    ((repaired false false true).cell (cellKey 1 5)).busy = true ∧
    (kilnOk 0x6105 = true ∧ fld 0x6105 15 12 = 6 ∧ kilnOk 0x7105 = true ∧ fld 0x7105 15 12 = 7 ∧
      fld 0x7105 39 16 / 16384 < ((stK 1).cell (cellKey 1 5)).scratch) ∧
    (let w : Fields := { d := rs 63, a := rs 2 }; w.d.cls = 0 ∧ Runs (stK 1) w [w.a] [w.d] ∧ ((stK 1).cell (cellKey 1 5)).tiles ≤ 24) ∧
    ((stC.ctx {}).priv = false ∧ (stC.ctx {}).arch.guards {} = true) := by
  refine ⟨⟨⟨?_, ?_, ?_⟩, ?_⟩, ?_⟩
  · unfold State.unusable; rw [unfused]; decide +kernel
  · unfold State.unusable; rw [unfused]; decide +kernel
  · unfold State.unusable; rw [unfused]; decide +kernel
  · unfold Runs Sound; decide +kernel
  · unfold Runs; decide +kernel

/-- The sampler of die 0 with a batch of one row, in lap 1 with a logit in transit. -/
def hdr1 : SeqHdr := { prog := 0, v := 4, topk := 1, g := [0x3F800000, 0, 0, 0, 0, 0, 0, 0x40000000] }
def row1 : Row := { hdr := hdr1, words := [0x0B, 0x0D], res := some 0x0006000000000200, bits := [5] }
def logitAt (c : Int) (l : Nat) : Logit := { id := 0, l := l, c := c, pc := 0 }
def stJ (l : Logit) : State := State.reset.setSampler 0 { row := some row1, cur := some l }

theorem witness_LogitWords :
    ((stJ (logitAt 1 0x3F800000)).sampler 0).row = some row1 ∧ ((stJ (logitAt 1 0x3F800000)).sampler 0).cur = some (logitAt 1 0x3F800000) ∧
    row1.hdr.bias.filter (fun e => e.1 == 0) = [] ∧ [(0, 7)].filter (fun e => e.1 == 0) = [(0, 7)] ∧ (logitAt 0 0).c ≤ 0 ∧ 0 < (logitAt 1 0).c ∧
    f32lt 0 0x3F800000 = true ∧ f32lt 0 0x80000000 = false ∧ row1.bits[0 / 8]? = some 5 ∧ (5 : Byte).getLsbD (0 % 8) = true ∧
    (5 : Byte).getLsbD (1 % 8) = false ∧ f32nan 0x3F800000 = false ∧ f32nan 0x7FC00000 = true := by
  decide +kernel

def cmdS : Cmd := { m := 0x20 + (BitVec.ofNat 512 0x0006000000000000 <<< 256) + (1 <<< 320) + (2 <<< 320) }
def cmdB : Cmd := { m := 0x21 + (BitVec.ofNat 512 0x0006000000000100 <<< 256) + (1 <<< 320) + (BitVec.ofNat 512 0xFFFF <<< 336) + (2 <<< 352) }

/-- A sequence block at die-scratch offset 0 with a vocabulary of 4, a program at 0x1000, a batch table at 0x100 and a result record at 0x200. -/
def samplerMem : List Host.Cell :=
  memSets (memSets (memSets (memSets [] (dieKey 0 0) (toBytes 64 (0x0006000000001000 + 4 * 2 ^ 64 + 2 ^ 112)))
    (dieKey 0 0x100) (toBytes 32 (0x0006000000000000 + 0x0006000000000200 * 2 ^ 64)))
    (dieKey 0 0x1000) (toBytes 8 (0x0B + 0x0D * 2 ^ 32))) (dieKey 0 0x80) [1]

def stY (k : Sampler) : State := { (State.reset.setSampler 0 k) with mem := samplerMem }

/-- The feeder: context 0 of cell 0 of die 0 with a committed beat of four logits on its port 2, or an EOF. -/
def feeder (s : State) (b : Beat) : State := s.modCtx {} (fun c => { c with life := .live, ports := [(2, { bind := 7, depth := 4, fifo := [b], ctail := 1 })] })

theorem witness_SamplerCommands :
    (let s := stY { queue := [cmdS] };
      Sound s ∧ (s.sampler 0).batch = none ∧ (s.sampler 0).queue.head? = some cmdS ∧ s.faulting (.sampler 0 headJob) = false ∧ cmdS.phase = 0 ∧ (s.sampler 0).fatalOf headJob = none ∧
      cmdS.cw = false ∧ 0 % 128 = 0 ∧
      addrWord (cmdS.op 256 64) = some (.die 0 0) ∧ 0 + 128 + 2048 + 2 * 2 ^ 18 ≤ 2 ^ 24 ∧ hdrOk (memNum s.mem (dieKey 0 0) 128) = true ∧
      cmdS.m.getLsbD 321 = true) ∧
    (let s := stY { queue := [cmdB] };
      (s.sampler 0).queue.head? = some cmdB ∧ cmdB.opc = 0x21 ∧ cmdB.cw = false ∧ memWord (cmdB.op 256 64) = true ∧
      s.away (if cmdB.op 336 16 = 0xFFFF then cmdB.src else cmdB.op 336 16) = false) ∧
    (let s := stY { batch := some cmdB, nrows := 1, port := 2 };
      let b := s.sampler 0;
      let e := memNum s.mem (dieKey 0 (0x100 + 32 * b.next)) 32;
      let h := memNum s.mem (dieKey 0 0) 128;
      let ws := progWords 32 (memGets s.mem (dieKey 0 0x1000) 128);
      b.batch = some cmdB ∧ cmdB.phase = 0 ∧ b.row = none ∧ b.next < b.nrows ∧ b.lap2 = [] ∧ s.faulting (.sampler 0 (rowJob b.next)) = false ∧ b.fatalOf (rowJob b.next) = none ∧
      b.bad = false ∧ b.cancel = false ∧ b.ended = false ∧ 0x100 + 32 * b.nrows ≤ 2 ^ 24 ∧
      addrWord (cmdB.op 256 64) = some (.die 0 0x100) ∧ 0x100 % 32 = 0 ∧ addrWord (fld e 63 0) = some (.die 0 0) ∧
      addrWord (fld e 127 64) = some (.die 0 0x200) ∧ 0x200 % 32 = 0 ∧ fld e 255 128 = 0 ∧ hdrOk h = true ∧ fld h 383 320 = 0 ∧
      addrWord (fld h 63 0) = some (.die 0 0x1000) ∧ progOk ws = true ∧ uses ws 1 = false ∧ uses ws 5 = false ∧ uses ws 9 = false) ∧
    (let s := feeder (stY { batch := some cmdB, nrows := 1, port := 2, next := 1, row := some row1 }) (beat 0x0210);
      let b := s.sampler 0;
      let p := (s.ctx {}).port 2;
      b.cur = none ∧ s.faulting (.sampler 0 (rowJob row1.r)) = false ∧ b.fatalOf (rowJob row1.r) = none ∧ b.pend = [] ∧ b.mark = 0 ∧ b.ended = false ∧ b.row = some row1 ∧ row1.status = 0 ∧ s.away b.src = false ∧ s.receiver b.src = {} ∧
      p.out = true ∧ p.kind = 3 ∧ p.fifo = [beat 0x0210] ∧ p.base < p.ctail ∧ (s.ctx {}).frozen = false ∧ (beat 0x0210).sb.getLsbD 12 = false ∧
      fld (beat 0x0210).sb.toNat 8 0 % 4 = 0) ∧
    (let s := stY { batch := some cmdB, pend := [5], row := some row1 };
      (s.sampler 0).pend = [5] ∧ s.faulting (.sampler 0 (rowJob row1.r)) = false ∧ (s.sampler 0).fatalOf (rowJob row1.r) = none ∧ row1.n < row1.hdr.v ∧ uses row1.words 2 = false ∧ row1.undoId = none) ∧
    (let r := { row1 with n := 4, list := [(0x3F800000, 2)], maxp := 0x3F800000, draw := some true };
      let s := stY { batch := some cmdB, lap2 := [r] };
      (s.sampler 0).lap2 = [r] ∧ s.faulting (.sampler 0 (rowJob 0)) = false ∧ r.r = 0 ∧ r.res = some 0x0006000000000200 ∧ addrWord 0x0006000000000200 = some (.die 0 0x200) ∧
      r.status = 0 ∧ r.maxp ≠ f32negInf ∧ r.replay = false ∧ r.count = false ∧ row1.maxp = f32negInf ∧ { r with status := 12 }.status ≠ 0 ∧
      { r with seq := 0x0006000000000000, draw := some false }.draw = some false ∧ addrWord 0x0006000000000000 = some (.die 0 0) ∧
      dieKey 0 0 + 128 ≤ dieKey 0 0x200 ∧ (s.sampler 0).fatalOf (rowJob 0) = none ∧ (∀ i, i < 32 → ownBits (dieKey 0 0x200 + i) = 0) ∧
      (∀ i, i < 8 → ownBits (dieKey 0 0 + 32 + i) = 0)) ∧
    (let s := stY { batch := some cmdB, nrows := 1, next := 1 };
      (s.sampler 0).next = (s.sampler 0).nrows ∧ (s.sampler 0).row = none ∧ (s.sampler 0).lap2 = [] ∧
      s.faulting (.sampler 0 batchJob) = false ∧ (s.sampler 0).fatalOf batchJob = none) ∧
    (let c : Cmd := { cmdB with m := cmdB.m + 0x200 + (BitVec.ofNat 512 0x0006000000000300 <<< 64), phase := 5, status := 12 };
      let s := stY { batch := some c, ended := true };
      (s.sampler 0).batch = some c ∧ s.faulting (.sampler 0 batchJob) = false ∧ (s.sampler 0).fatalOf batchJob = none ∧ c.phase = 5 ∧ c.cw = true ∧
      cmdB.cw = false ∧ addrWord (c.op 64 64) = some (.die 0 0x300) ∧ 0x300 % 64 ≤ 60 ∧ (s.sampler 0).ended = true ∧
      { c with phase := 6 }.phase = 6 ∧ { c with phase := 7 }.phase = 7) ∧
    (let s := feeder (stY {}) { sb := 0x1000 };
      let p := (s.ctx {}).port 2;
      p.fifo = [{ sb := 0x1000 }] ∧ p.out = true ∧ p.kind = 3 ∧ p.base < p.ctail ∧ (s.ctx {}).frozen = false ∧ (s.sampler 0).batch = none) := by
  unfold Sound; and_intros <;> decide +kernel

/-! ### Witnesses: engines -/

/-- Engine 0 of die 0 with a command started in queue 0, and a memory of die scratch. -/
def stE (c : Cmd) : State :=
  { bytesAt (bytesAt State.reset (dieKey 0 0x100) [1, 2, 3, 4, 5, 6, 7, 8, 9]) (dieKey 0 0x200) [0, 0, 0, 0, 3, 0, 0, 0, 9] with
    eng := (0x2000, 0), boxes := [(0x2000, { qs := [(0, [c])], seq := 1 })] }

/-- A command of an opcode whose parameter block has been read. -/
def cmdE (opc : Nat) (pb : Nat) : Cmd := { m := BitVec.ofNat 512 opc, started := true, checked := true, pb := pb }

def dieAddr (off : Nat) : Nat := 0x0006000000000000 + off
/-- SRC 0x100, DST as given, LEN 100; COUNT1 3, STRIDE1 16, and AUX 0x200 for the ragged and gathered forms. -/
def block (dst : Nat) : Nat := dieAddr 0x100 + dst * 2 ^ 64 + 100 * 2 ^ 128 + 1 * 2 ^ 160
def block3 (dst : Nat) : Nat := block dst + dieAddr 0x200 * 2 ^ 192 + (3 + 16 * 2 ^ 32) * 2 ^ 256
def portWord : Nat := 0x0008000000020000

/-- The same with a unit that takes beats on port 2 of context 0 of cell 0 of die 0. -/
def stEP (c : Cmd) : State := { (stE c).modCtx {} (fun c => { c with life := .live, ports := [(2, { bind := 2, depth := 4 })] }) with fresh := 1 }

def isDone : PortPut → Bool
  | .done _ => true
  | _ => false

theorem witness_EngineCommandsAdvance :
    (let c := cmdE 1 (block (dieAddr 0x400));
      let s := stE c;
      Sound s ∧ s.cmd? s.eng.1 s.eng.2 = some c ∧ c.started = true ∧ firmwareOwn s.eng.1 c.m = false ∧ s.faulting (.engine s.eng.1 c.seq) = false ∧
      c.phase = 0 ∧ c.bar = false ∧ c.checked = true ∧ addrWord c.srcWord = some (.die 0 0x100) ∧ c.cur = none ∧ c.flvl = 0 ∧ c.run = 0 ∧ c.opc = 1) ∧
    (let c := cmdE 2 (block 0 + (2 + 2 ^ 64 + 2 ^ 128) * 2 ^ 256); c.opc = 2 ∧ 0 < c.count 1 ∧ 0 < c.count 2 ∧ 0 < c.count 3 ∧ c.run = 0 + c.count 1 * (0 + c.count 2 * 0)) ∧
    (let c := cmdE 4 (block3 0);
      c.opc = 4 ∧ addrWord c.auxWord = some (.die 0 0x200) ∧ 0x200 + 4 * c.count 1 + 4 ≤ 2 ^ 24 ∧ c.run < c.count 1) ∧
    (let c := cmdE 3 (block3 0); c.opc = 3 ∧ memNum (stE c).mem (dieKey 0 0x200) 4 + c.aux < memNum (stE c).mem (dieKey 0 0x204) 4) ∧
    (let c := { cmdE 3 (block3 0) with run := 2 };
      c.run < c.count 1 ∧ memNum (stE c).mem (dieKey 0 0x20C) 4 < memNum (stE c).mem (dieKey 0 0x208) 4) ∧
    (let c := { cmdE 3 (block3 0) with aux := 3 };
      c.aux ≠ 0 ∧ memNum (stE c).mem (dieKey 0 0x200) 4 ≤ memNum (stE c).mem (dieKey 0 0x204) 4 ∧
      memNum (stE c).mem (dieKey 0 0x204) 4 ≤ memNum (stE c).mem (dieKey 0 0x200) 4 + c.aux) ∧
    (let c := cmdE 3 (block 0 + dieAddr 0x300 * 2 ^ 192 + (3 + 16 * 2 ^ 32) * 2 ^ 256);
      addrWord c.auxWord = some (.die 0 0x300) ∧ c.aux = 0 ∧ memNum (stE c).mem (dieKey 0 0x304) 4 = memNum (stE c).mem (dieKey 0 0x300) 4) ∧
    (let c := { cmdE 1 (block (dieAddr 0x400)) with run := 1 }; c.cur = none ∧ c.opc = 1 ∧ c.run ≠ 0 ∧ addrWord c.dstWord = some (.die 0 0x400)) ∧
    (let c := { cmdE 2 (block portWord + (2 + 2 ^ 64 + 2 ^ 128) * 2 ^ 256) with run := 2 };
      c.opc = 2 ∧ c.count 1 * c.count 2 * c.count 3 ≤ c.run ∧ addrWord c.dstWord = some (.port 0 2)) ∧
    (let c := { cmdE 4 (block3 0x000A000000000800) with run := 3 };
      c.opc = 4 ∧ c.count 1 ≤ c.run ∧ addrWord c.dstWord = some (.ring 0 0x800)) ∧
    (let c := { cmdE 1 (block 0x000A000000000800) with cur := some (0x100, 0, 100), off := 99 };
      addrWord c.dstWord = some (.ring 0 0x800) ∧ c.off < 100 ∧ { c with off := 100 }.off = 100) ∧
    (let c := { cmdE 1 (block portWord) with cur := some (0x100, 3, 100) };
      isDone ((stEP c).portPut 0 2 (bareBeat 3)) = true ∧ isDone ((stEP c).portPut 0 2 (dataBeat 100 3 0)) = true ∧
      isDone ((stEP c).portPut 0 2 (dataBeat 256 0 0)) = true ∧ c.off + 256 < 300 ∧ c.off + 100 = 100 ∧ 3 < 8) ∧
    (let c := cmdE 5 (block3 (dieAddr 0x400));
      c.opc = 5 ∧ addrWord c.auxWord = some (.die 0 0x200) ∧ 0x200 + 4 * c.count 1 ≤ 2 ^ 24 ∧ c.cur = none ∧ c.run < c.count 1 ∧
      { c with run := 3 }.count 1 ≤ 3 ∧ { c with cur := some (0x480, 0, 100), off := 100 }.off = c.len ∧ c.held = [] ∧
      0x100 + c.len * c.count 1 ≤ 2 ^ 24) ∧
    (let c := { cmdE 7 (block 0 + 2 * 2 ^ 176 + dieAddr 0x400 * 2 ^ 512) with aux := 0 };
      c.fresh = true ∧ c.aux ≤ c.ndst ∧ addrWord (c.dstN c.aux) = some (.die 0 0x400) ∧ 0x400 + c.len ≤ 2 ^ 24 ∧ c.off < c.len ∧
      c.len ≤ { c with off := 100 }.off ∧ c.ndst < { c with aux := 1 }.aux ∧ c.ndst < { c with run := 1 }.run ∧
      reduceSize c.rty = some 4 ∧ c.held.length < 4 ∧ c.off + c.held.length < c.len ∧ addrWord c.srcWord = some (.die 0 0x100)) ∧
    (let c := cmdE 0x0A (block 0 + dieAddr 0x200 * 2 ^ 192 + dieAddr 0x300 * 2 ^ 256);
      c.run < 3 ∧ addrWord c.srcWord = some (.die 0 0x100) ∧ addrWord c.auxWord = some (.die 0 0x200) ∧ addrWord (c.par 256 64) = some (.die 0 0x300) ∧
      c.off < c.len ∧ { c with off := 100 }.off = c.len) ∧
    (let c := { cmdE 1 (block (dieAddr 0x400)) with m := BitVec.ofNat 512 (1 + 2 ^ 10), bytes := 5, sub := 5 }; c.bar = true ∧ c.bytes ≤ c.sub) ∧
    (let c := { cmdE 6 (block (dieAddr 0x400)) with off := 100 }; c.off = c.len ∧ 0x400 + c.len ≤ 2 ^ 24) ∧
    (let c := { cmdE 1 (block (dieAddr 0x400)) with cur := some (0x100, 0, 100), off := 99, bytes := 99 };
      addrWord c.srcWord = some (.die 0 0x100) ∧ c.cur = some (Int.ofNat 0x100, 0, 100) ∧ c.off < 100 ∧ 0x100 + 100 ≤ 2 ^ 24 ∧
      addrWord c.dstWord = some (.die 0 0x400) ∧ 0x400 + c.bytes + 64 ≤ 2 ^ 24 ∧ c.held = [] ∧ { c with held := [7] }.held ≠ []) ∧
    (let c := { cmdE 1 (block portWord) with cur := some (0x100, 0, 100), off := 90, held := [1, 2] };
      addrWord c.dstWord = some (.port 0 2) ∧ c.held.length < min 256 (100 - c.off) ∧
      (List.replicate 10 (0 : Byte)).length = min 256 (100 - c.off)) ∧
    (let c := { cmdE 5 (block3 (dieAddr 0x400)) with cur := some (0x480, 0, 100), off := 99, held := [1] };
      addrWord c.srcWord = some (.die 0 0x100) ∧ addrWord c.dstWord = some (.die 0 0x400) ∧ c.opc = 5 ∧ c.off < c.len ∧ c.held ≠ [] ∧ c.len = 100) ∧
    (let c := { cmdE 6 (block (dieAddr 0x400)) with off := 99 }; c.opc = 6 ∧ c.off < c.len ∧ addrWord c.dstWord = some (.die 0 0x400)) ∧
    (let c := { cmdE 7 (block 0 + 2 * 2 ^ 176 + dieAddr 0x400 * 2 ^ 512) with fresh := false, held := [0, 0, 0x80, 0x3F] };
      c.opc = 7 ∧ c.run ≤ c.ndst ∧ addrWord (c.dstN c.run) = some (.die 0 0x400) ∧ c.off < c.len ∧ reduceSize c.rty = some 4 ∧ 4 ≤ c.held.length ∧
      (0x400 + c.off) % 64 + 4 ≤ 64) ∧
    ((cmdE 0x0A 0).opc = 0x0A ∧ { cmdE 0x0A 0 with run := 3 }.run = 3) ∧
    (let c : Cmd := { m := BitVec.ofNat 512 (8 + 2 ^ 256), started := true };
      c.headerWordsBad = false ∧ c.opc = 8 ∧ c.op 260 252 = 0 ∧ 1 ≤ c.op 256 4 ∧ (stE c).joinWaits 0x2000 0 (c.op 256 4) = false ∧
      (stE c).joinWaits 0x2000 1 (c.op 256 4) = true) ∧
    (let c : Cmd := { m := BitVec.ofNat 512 (9 + 2 ^ 10 + dieAddr 0x300 * 2 ^ 192), started := true };
      c.headerWordsBad = false ∧ c.bar = true ∧ c.bytes ≤ c.sub ∧ c.opc = 9 ∧ c.op 288 224 = 0) := by
  unfold Sound; and_intros <;> decide +kernel

/-- A record of two bytes for a message ring of 256 bytes at 0x1000 whose header stands at 0x800. -/
def cmdR : Cmd := { cmdE 1 (dieAddr 0x100 + 0x000A000000000800 * 2 ^ 64) with phase := 1, held := [5, 6] }
def stO : State := bytesAt (stE cmdR) (dieKey 0 0x800) ([0, 0x10, 0, 0] ++ [0, 1, 0, 0] ++ [0xC0, 0, 0, 0])

theorem witness_EngineCommandsStartAndFinish :
    (let c : Cmd := { m := 1, free := true };
      let s := stE c;
      Sound s ∧ s.queued 0x2000 0 0 = some c ∧ c.started = false ∧ firmwareOwn 0x2000 c.m = false ∧ c.free = true ∧ c.opc ≠ 8 ∧ fld 0x2000 15 12 = 2 ∧
      0x2000 / 8 = 0x2001 / 8 ∧ (s.boxes.getD 0x2001 {}).out = false ∧ (s.boxes.getD 0x2001 {}).qs = []) ∧
    (stO.ringHeld 0 0x800 = false ∧ cmdR.held ≠ [] ∧ { cmdR with held := [] }.held = [] ∧ cmdR.held.length < 2 ^ 32) ∧
    (let c : Cmd := { cmdE 1 0 with phase := 4, bytes := 7, m := BitVec.ofNat 512 (1 + 2 ^ 10 + dieAddr 0x300 * 2 ^ 192) };
      c.bar = true ∧ addrWord (c.op 192 64) = some (.die 0 0x300) ∧ (∀ i, i < 32 → ownBits (dieKey 0 0x300 + i) = 0) ∧ c.sub ≠ c.bytes ∧ fld 0x2000 15 12 = 2 ∧ { c with sub := 7 }.sub = c.bytes ∧
      (stE c).queued 0x2000 0 0 = some c ∧ (stE c).faulting (.engine 0x2000 c.seq) = false) ∧
    (let c : Cmd := { cmdE 1 0 with phase := 3 };
      c.dirty = none ∧ memNum (stE c).mem (dieKey ((stE c).partyDie (.engine 0x2000 c.seq)) (tcb + 16)) 8 = 0) ∧
    (let c : Cmd := { cmdE 1 0 with phase := 6, status := 3, m := BitVec.ofNat 512 (1 + 2 ^ 11) };
      6 ≤ c.phase ∧ c.status ≠ 0 ∧ c.op 24 16 ≠ 0xFFFF ∧ c.status < 2 ^ 8 ∧ { c with status := 0 }.ack = true ∧
      { c with status := 0, m := 1 }.ack = false) ∧
    (Sound stO ∧ stO.queued 0x2000 0 0 = some cmdR ∧ cmdR.phase = 1 ∧ addrWord cmdR.dstWord = some (.ring 0 0x800) ∧ stO.ringOk 0 0x800 = true ∧
      memNum stO.mem (dieKey 0 0x804) 4 = 256 ∧ memNum stO.mem (dieKey 0 0x808) 4 = 0xC0 ∧ ceilTo 64 (8 + cmdR.held.length) = 64 ∧
      (0xC0 + 2 ^ 32 - memNum stO.mem (dieKey 0 0x80C) 4) % 2 ^ 32 + 64 ≤ 256 ∧ 0xC0 % 256 + 64 ≤ 256 ∧ 0x800 + 32 ≤ 0x1000 ∧
      (∀ i, i < 64 → ownBits (dieKey 0 0x10C0 + i) = 0) ∧ (∀ i, i < 4 → ownBits (dieKey 0 0x808 + i) = 0)) ∧
    (let c : Cmd := { cmdE 1 0 with phase := 5, m := BitVec.ofNat 512 (1 + 2 ^ 9 + dieAddr 0x300 * 2 ^ 64) };
      c.cw = true ∧ addrWord (c.op 64 64) = some (.die 0 0x300) ∧ 0x300 % 64 ≤ 60 ∧ (∀ i, i < 4 → ownBits (dieKey 0 0x300 + i) = 0) ∧ c.bar = false ∧ c.dirty = none) := by
  unfold Sound; and_intros <;> decide +kernel

/-! ### Witnesses: the arbiter and the sequencer -/

/-- Contexts 0 and 1 of cell 0 are ready, with credits. -/
def stArb (credit wait : List Nat) : State :=
  cell0 ((live (fun c => { c with ports := [(0, { bind := 2, depth := 4, fifo := [beat 0x0104] })] })).modCtx { ctx := 1 } (fun c => { c with life := .live }))
    (fun k => { k with arb := { k.arb with credit := credit, wait := wait } })

theorem witness_Arbitration :
    (let s := stArb [0, 0, 0, 0] [4093, 0, 0, 0];
      let rdy := s.readySet 0;
      (s.cell 0).grant = none ∧ 0 ∈ rdy ∧ 0 < (s.ctx (ctxAt 0 0)).occ ∧ 4093 ≤ (s.cell 0).arb.wait.getD 0 0 ∧ (s.cell 0).arb.credit.getD 0 0 = 0) ∧
    (let s := stArb [0, 2, 0, 0] [4092, 0, 0, 0];
      s.readySet 0 = [0, 1] ∧ s.forcedSet 0 [0, 1] = [] ∧ 1 ∈ s.readySet 0 ∧ 0 < (s.cell 0).arb.credit.getD 1 0) ∧
    (let s := stArb [0, 0, 0, 0] [0, 0, 0, 0];
      s.readySet 0 = [0, 1] ∧ s.forcedSet 0 [0, 1] = [] ∧ (s.cell 0).arb.credit = [0, 0, 0, 0] ∧ (s.cell 0).arb.w = [1, 1, 1, 1]) ∧
    (State.reset.clk.toNat % 1024 = 0 ∧ (State.reset.ctx {}).yieldTo ≤ State.reset.clk.toNat) := by
  and_intros <;> decide +kernel

/-- A grammar: production 0 is term 1, nonterminal 0, action 8, end; production 1 ends at once; nonterminal 0 expands by production 1. -/
def grammar (k : Cell) : Cell :=
  ((((((((k.setWord 1 0 0x0000000200010000).setWord 1 1 0x0080002000000040).setWord 1 4 0x00580050).setWord 1 8 0x8001800180018001).setWord 1 20
    0xC000800840000001).setWord 1 22 0xC000).setWord 2 0 0x100090008))

/-- A context at a step, with a stack and two beats on q0. -/
def stG0 (stack : List Frame) (f : Ctx → Ctx) : State :=
  cell0 (live (fun c => f { c with
    ports := [(0, { bind := 2, depth := 4, fifo := [beat 0x0304, beat 0x0104] })], arch := { c.arch with stack := stack } }))
    (fun k => { (grammar k) with grant := some 0, ctxs := k.ctxs.map (fun e => (e.1, { e.2 with arch := { e.2.arch with pos := .step } })) })

theorem witness_SequencerSteps :
    (let s := stG0 [{}] id;
      let c := s.ctx {};
      c.life = .live ∧ (s.cell 0).grant = some 0 ∧ c.arch.pos = .step ∧ c.frozen = false ∧ s.waved 0 = false ∧ c.info.bad = false ∧ c.arch.closePend = false ∧ c.arch.recov = none ∧
      s.symbolOf {} = .term 1 ∧ c.arch.stack = [{}] ∧ c.handing = false ∧ c.handed = none ∧ c.arch.tok.sb ≠ 0x1000 ∧ (c.port 0).closed = false ∧
      (c.port 0).avail.head? = some (beat 0x0304) ∧ beatClass (beat 0x0304).sb = 1 ∧ beatClass (beat 0x0104).sb ≠ 1 ∧
      (s.cell 0).recoverFrame (s.gramOf {}) c.arch.stack = .ok none) ∧
    (let s := stG0 [{ off := 1 }] id;
      let k := s.cell 0;
      let g := s.gramOf {};
      s.symbolOf {} = .nonterm 0 true ∧ k.gword (g.base + g.opt + 2 * (16 * 0 + beatClass (beat 0x0304).sb)) = 2 ^ 15 + 1 ∧ 1 < g.nprod ∧
      k.symbol g 0 2 ≠ .stop ∧ k.symbol g 1 0 = .stop ∧ 64 ≤ (List.replicate 63 ({} : Frame)).length + 1) ∧
    ((stG0 [{ prod := 1 }, {}] id).symbolOf {} = .stop ∧ (stG0 [{ prod := 1 }] id).symbolOf {} = .stop) ∧
    (let s := stG0 [{ prod := 1 }] (fun c => { c with arch := { c.arch with tok := eofBeat } });
      (s.ctx {}).arch.tok.sb = 0x1000 ∧ s.symbolOf {} = .stop ∧ (s.ctx {}).cancel = false ∧ (s.ctx {}).closed = none) ∧
    (let s := cell0 (stG0 [{ off := 1 }] id) (fun k => k.setWord 1 20 0xC000001040000001);
      s.symbolOf {} = .nonterm 0 true ∧ (s.cell 0).symbol (s.gramOf {}) 0 2 = .bad 0xA4 false) ∧
    ((cell0 (stG0 [{ off := 2 }] id) (fun k => k.setWord 1 20 0xC000001040000001)).symbolOf {} = .bad 0xA4 false) ∧
    (let s := cell0 (stG0 [{ off := 2 }] (fun c => { c with arch := { c.arch with closePend := true } })) (fun k => k.setWord 1 20 0xC000800940000001);
      (s.ctx {}).arch.closePend = true ∧ s.symbolOf {} = .bad 0xA4 true) ∧
    (let s := stG0 [{ off := 2 }] id; s.symbolOf {} = .action 8 ∧ (s.cell 0).block 8 = some 9) ∧
    (let s := stG0 [{}] (fun c => { c with arch := { c.arch with closePend := true } }); (s.ctx {}).arch.closePend = true ∧ (s.ctx {}).opn.ts ≠ 0xFFFFFFFF) ∧
    (let s := stG0 [{}] (fun c => { c with arch := { c.arch with recov := some { level := 2, act := 8 } } });
      (s.ctx {}).arch.recov = some { level := 2, act := 8 } ∧ (s.cell 0).block 8 = some 9 ∧ beatMark (beat 0x0304).sb < 2 ∧ 1 ≤ beatMark (beat 0x0304).sb) := by
  and_intros <;> decide +kernel

/-! ### Witnesses: rounds, messages and results -/

/-- A closed round of two stores to `.s` and `.n` with a message, at timestamp 4, that has asked to commit; the open one is at 5. -/
def rnd (ts : Nat) : Round :=
  { serial := 1, asked := some (0, 0), ts := BitVec.ofNat 32 ts, ents := [{ sp := .s, base := cellKey 0 0, blk := 2, data := 0xABCD, en := 3 },
      { sp := .s, base := cellKey 0 0, blk := 2, data := 0x11, en := 1 }, { sp := .n, base := cellKey 0 1, blk := 1, data := 0xFF, en := 1 }],
    msgs := [.message 0x2000 5] }

def stClosed (f : Ctx → Ctx) : State :=
  { live (fun c => f { c with closed := some (rnd 4), opn := { c.opn with ts := 5, serial := 2 } }) with clk := 9 }

/-- Two units of domain 3; the other one read at a later timestamp what this round writes. -/
def stDomain : State :=
  (stClosed (fun c => { c with info := { c.info with domain := 3 } })).modCtx { ctx := 1 } (fun c =>
    { c with life := .live, info := { c.info with domain := 3 },
             opn := { c.opn with ts := 9, serial := 3, ranges := [{ sp := .s, base := cellKey 0 0, lo := 100, hi := 128 }] } })

theorem witness_RoundCommits :
    (let r := { rnd 4 with asked := none };
      let s := stDomain.modCtx {} (fun c => { c with closed := some r });
      (s.ctx {}).closed = some r ∧ (s.ctx {}).info.domain ≠ 0 ∧ r.asked = none ∧ s.settledRound {} r = true) ∧
    (let s := stDomain.modCtx {} (fun c => { c with frozen := true });
      (s.ctx {}).closed = some (rnd 4) ∧ s.settledRound {} (rnd 4) = false) ∧
    (let s := stDomain.modCtx { ctx := 1 } (fun c => { c with opn := { c.opn with ts := 1 } });
      (rnd 4).asked.isSome = true ∧ s.mayCommit {} (rnd 4) = false) ∧
    (Sound (stClosed id) ∧ (let s := stClosed id; let r := rnd 4; let c := s.ctx {};
      c.closed = some r ∧ s.mayCommit {} r = true ∧ (∀ e ∈ r.ents, e.sp = .s ∨ e.sp = .n ∨ e.sp = .d) ∧ c.info.domain = 0 ∧ c.life = .live ∧
      c.prods = [] ∧ r.final = false ∧ c.dirty = none ∧
      (∀ e ∈ r.ents, (c.atomicWait (homeOf e.sp e.base (64 * e.blk)) 64).isNone = true))) ∧
    (∀ b ∈ (rnd 4).msgs, ∃ box m, b = .message box m) ∧
    (Sound stDomain ∧ (let s := stDomain; let r := rnd 4; let y : CtxId := { ctx := 1 };
      (∀ e ∈ r.ents, ((s.ctx {}).atomicWait (homeOf e.sp e.base (64 * e.blk)) 64).isNone = true) ∧
      (s.ctx {}).closed = some r ∧ s.mayCommit {} r = true ∧ (s.ctx {}).info.domain ≠ 0 ∧ (s.cells.get? y.ck).isSome = true ∧
      (((s.cells.get? y.ck).getD {}).ctxs.get? y.ctx) = some (s.ctx y) ∧ (s.ctx y).life = .live ∧ (s.ctx y).info.domain = (s.ctx {}).info.domain ∧
      (s.ctx y).closed = none ∧ (s.ctx y).frozen = false ∧ r.ts.toNat < (s.ctx y).opn.ts.toNat ∧
      ∃ e ∈ r.ents, ∃ g ∈ (s.ctx y).opn.ranges, g.sp = e.sp ∧ g.base = e.base ∧ e.en.getLsbD 0 = true ∧ g.lo ≤ 64 * e.blk + 0 ∧
        64 * e.blk + 0 ≤ g.hi)) := by
  refine ⟨by decide +kernel, by decide +kernel, by decide +kernel, ?_, fun b hb => ?_, ?_⟩
  · unfold Sound; decide +kernel
  · simp [rnd] at hb; exact ⟨_, _, hb⟩
  · unfold Sound; decide +kernel

/-- A launch with a record at 0x1000 of HBM: two units expected; instance 0 is untiled. -/
def stLaunched (f : Ctx → Ctx) : State :=
  ((((live id).modCtx {} (fun c => f { c with info := { c.info with lkey := 1 } })).setSched 0 { launches := [{ key := 1, crec := 0x1000, insts := [{ left := 2 }] }] })
    |>.putNum 0x1000 4 2)

/-- What the record of a launch needs for a count of one more unit. -/
theorem witness_UnitsEnd_counted :
    let s := stLaunched (fun c => { c with cancel := true, wait := .fault });
    let l : Launch := { key := 1, crec := 0x1000, insts := [{ left := 2 }] };
    s.launch? (s.ctx {}).info.sdie (s.ctx {}).info.lkey = some l ∧ l.insts[(s.ctx {}).info.inst]? = some { left := 2 } ∧
    (∀ i, i < 32 → ownBits (l.crec + i) = 0) ∧ (∀ p ∈ (s.ctx {}).prods, p.stores = false ∧ p.performed = false) ∧
    memNum s.mem (l.crec + 4) 4 + memNum s.mem (l.crec + 8) 4 + (memNum s.mem (l.crec + 12) 4 + 1) < memNum s.mem (l.crec + 0) 4 ∧
    memNum s.mem (l.crec + 12) 4 + 1 < 2 ^ 32 ∧
    (let u := (live id : State); (∀ p ∈ (u.ctx {}).prods, p.stores = false ∧ p.performed = false) ∧
      u.launch? (u.ctx {}).info.sdie (u.ctx {}).info.lkey = none) := by
  decide +kernel

/-- The same for HALT, whose launch has noted no failure yet. -/
theorem witness_TrapsAndHalt_counted :
    let s := stLaunched id;
    let l : Launch := { key := 1, crec := 0x1000, insts := [{ left := 2 }] };
    let w : Fields := { a := rs 1 };
    Sound s ∧ Runs s w [w.a] [] ∧ (s.ctx s.cur).closed = none ∧ s.launch? (s.ctx s.cur).info.sdie (s.ctx s.cur).info.lkey = some l ∧
    l.insts[(s.ctx s.cur).info.inst]? = some { left := 2 } ∧ (∀ i, i < 32 → ownBits (l.crec + i) = 0) ∧
    memNum s.mem (l.crec + 4) 4 + (memNum s.mem (l.crec + 8) 4 + 1) + memNum s.mem (l.crec + 12) 4 < memNum s.mem (l.crec + 0) 4 ∧
    memNum s.mem (l.crec + 8) 4 + 1 < 2 ^ 32 ∧ l.noted = false ∧ s.faulted l.crec = false ∧
    (∀ p ∈ (s.ctx s.cur).prods, p.stores = false ∧ p.performed = false) := by
  unfold Runs Sound; decide +kernel

theorem witness_UnitsEnd :
    (Sound (stLaunched (fun c => { c with life := .accepted })) ∧ (let s := stLaunched (fun c => { c with life := .accepted });
      let c := s.ctx {}; let i := (s.cell 0).island;
      c.life = .accepted ∧ c.closed = none ∧ c.prods = [] ∧ c.frozen = false ∧ (∀ e ∈ i.rq, e.ctx ≠ 0) ∧ (∀ e ∈ i.cq, e.ctx ≠ 0) ∧
      (∃ l, s.launch? c.info.sdie c.info.lkey = some l ∧ ∃ tile, l.insts[c.info.inst]? = some tile ∧ tile.tiled = false ∧ c.dirty = none ∧ (∀ i, i < 32 → ownBits (l.crec + i) = 0) ∧
        memNum s.mem (l.crec + 4) 4 + 1 + memNum s.mem (l.crec + 8) 4 + memNum s.mem (l.crec + 12) 4 < memNum s.mem (l.crec + 0) 4 ∧
        memNum s.mem (l.crec + 4) 4 + 1 < 2 ^ 32))) ∧
    (Sound (stLaunched (fun c => { c with cancel := true, wait := .fault })) ∧
      (let s := stLaunched (fun c => { c with cancel := true, wait := .fault }); let c := s.ctx {};
      c.life = .live ∧ c.cancel = true ∧ c.frozen = false ∧ c.stopsNow = true ∧ s.waitOver {} = false ∧ c.closed = none)) ∧
    (Sound (stClosed (fun c => { c with cancel := true, wait := .fault })) ∧
      (let s := stClosed (fun c => { c with cancel := true, wait := .fault }); let c := s.ctx {};
      c.life = .live ∧ c.cancel = true ∧ c.frozen = false ∧ c.stopsNow = true ∧ s.waitOver {} = false ∧ c.closed = some (rnd 4) ∧ c.prods = [])) ∧
    (let s := cell0 (live (fun c => { c with cancel := true, arch := { c.arch with vf := 0 } })) (fun k => (k.setWord 0 6 0xE0220002020008D2).setWord 0 7 0x3800);
      let c := s.ctx {};
      c.life = .live ∧ c.cancel = true ∧ c.frozen = false ∧ c.wait = .none ∧ s.nextWait {} = some (.regs [.v 1]) ∧ ({ c with wait := .regs [.v 1] } : Ctx).stopsNow = true) := by
  refine ⟨⟨by unfold Sound; decide +kernel, by decide +kernel, by decide +kernel, by decide +kernel, by decide +kernel, by decide +kernel,
    by decide +kernel, ?_⟩, ?_, ?_, by decide +kernel⟩
  · exact ⟨{ key := 1, crec := 0x1000, insts := [{ left := 2 }] }, by decide +kernel, { left := 2 }, by decide +kernel, by decide +kernel,
      by decide +kernel, by decide +kernel, by decide +kernel⟩
  · unfold Sound; decide +kernel
  · unfold Sound; decide +kernel

/-- Bindings: outbound to port 2 of context 1 of cell 0; inbound; inbox. -/
def bindOut : BitVec 24 := BitVec.ofNat 24 (1 + 1 * 2 + 1 * 2 ^ 4 + 2 * 2 ^ 20)

/-- Two queued messages of two contexts, a beat about to leave and one on its way, messages on their way, a barrier. -/
def stTraffic : State :=
  let s := cell0 ((live (fun c => { c with ports := [(3, { bind := bindOut, depth := 4, fifo := [beat 0x0104, beat 0x0204], ctail := 1 })] })).modCtx
      { ctx := 1 } (fun c => { c with life := .live, ports := [(2, { bind := 2, depth := 4, fifo := [beat 0x0304] }), (5, { bind := 4, depth := 4 })] }))
    (fun k => { k with queue := [{ ctx := 0, box := 0x2000, m := 1 }, { ctx := 1, box := 0x2000, m := 2 }] })
  let s := ((s.putNum 0x2000 4 3).putNum 0x2004 4 1)
  { s with
    flights := [{ src := 3, box := 1, port := 2, beat := beat 0x0404 }]
    transit := [{ src := 0, box := 0x2000, m := 1 }, { src := 0, box := 1, m := 7 }, { src := 0, box := 2, m := BitVec.ofNat 512 (7 + 3 * 2 ^ 24) }]
    barMsgs := [.arrival 0x3000 0x2000 false, .release 0x2000], releases := [(0x2000, 0x4000)]
    barWaits := [{ x := {}, obj := 0x2000 }] }

theorem witness_MessagesAndBeatsMove (unfused : fusedOff (cellKey 0 0) = false) :
    Sound stTraffic ∧
    (let s := stTraffic; let k := s.cell (cellKey 0 0);
      k.queue[1]? = some { ctx := 1, box := 0x2000, m := 2 } ∧ ∀ f ∈ k.queue.take 1, f.log = false ∧ (f.ctx ≠ 1 ∨ f.box ≠ 0x2000)) ∧
    (let s := stTraffic; let p := (s.ctx {}).port 3;
      p.fifo = [beat 0x0104, beat 0x0204] ∧ p.out = true ∧ p.kind = 1 ∧ p.base < p.ctail ∧ (s.ctx {}).frozen = false ∧
      s.holdsBeats (fld p.bind.toNat 19 4) (fld p.bind.toNat 23 20) = false) ∧
    (let s := cell0 { stTraffic with pages := [{ key := 1, cells := [0], freeze := .wave }] } (fun k => { k with page := some (1, 0) });
      let p := (s.ctx {}).port 3; s.holdsBeats (fld p.bind.toNat 19 4) (fld p.bind.toNat 23 20) = true) ∧
    (let s := stTraffic; let f : Flight := { src := 3, box := 1, port := 2, beat := beat 0x0404 }; let y := s.receiver f.box; let p := (s.ctx y).port f.port;
      s.flights[0]? = some f ∧ s.flights.take 0 = [] ∧ s.away f.box = false ∧ 2 ≤ f.port ∧ (s.ctx y).life = .live ∧ (s.ctx y).frozen = false ∧
      s.pageTakes y.ck = true ∧ p.shut = false ∧ p.out = false ∧ p.kind = 1 ∧ p.old.length + p.fifo.length < p.depth) ∧
    (let s := stTraffic; let m : Transit := { src := 0, box := 0x2000, m := 1 };
      s.transit[0]? = some m ∧ s.transit.take 0 = [] ∧ fld m.src 15 12 ≠ 7 ∧ boxOk m.box = true ∧ fld m.box 15 12 = 2 ∧ (s.boxes.getD m.box {}).out = false ∧
      s.sys.dies.getD (fld m.box 11 10) true = true ∧ refusal 2 m.m = none ∧
      ((s.boxes.getD m.box {}).qs.getD (m.m.extractLsb' 16 2).toNat []).length < 64) ∧
    (let s := stTraffic; let m : Transit := { src := 0, box := 1, m := 7 }; let y := s.receiver m.box;
      s.transit[1]? = some m ∧ (∀ u ∈ s.transit.take 1, u.src ≠ m.src ∨ u.box ≠ m.box) ∧ fld m.src 15 12 ≠ 7 ∧ boxOk m.box = true ∧ fld m.box 15 12 = 0 ∧
      s.away m.box = false ∧ (s.ctx y).inboxPort = some 5 ∧ (s.ctx y).life = .live ∧ y.ck = cellKey 0 0 ∧ (s.ctx y).frozen = false ∧
      s.pageTakes y.ck = true ∧ ((s.ctx y).port 5).shut = false ∧ ((s.ctx y).port 5).old.length + ((s.ctx y).port 5).fifo.length < ((s.ctx y).port 5).depth) ∧
    fusedOff (stTraffic.receiver 1).ck = false ∧
    (let s := stTraffic; let m : Transit := { src := 0, box := 2, m := BitVec.ofNat 512 (7 + 3 * 2 ^ 24) }; let y := s.receiver m.box;
      s.transit[2]? = some m ∧ (∀ u ∈ s.transit.take 2, u.src ≠ m.src ∨ u.box ≠ m.box) ∧ fld m.src 15 12 ≠ 7 ∧ fld m.box 15 12 = 0 ∧
      s.away m.box = false ∧ (s.ctx y).inboxPort = none ∧ (s.ctx y).frozen = false ∧ boxOk 600 = false ∧ (m.m.extractLsb' 0 8).toNat ≠ 0x7F ∧
      (m.m.extractLsb' 24 16).toNat ≠ 0xFFFF ∧ m.box < 2 ^ 16) ∧
    (let s := stTraffic;
      s.barMsgs[0]? = some (.arrival 0x3000 0x2000 false) ∧ iceHome 0x2000 = false ∧ (∀ o ∈ s.barMsgs, o.waitsAt (barHome 0x2000) = false) ∧ (s.releases.filter (fun r => barHome r.1 == barHome 0x2000)).length < 1024 ∧
      memNum s.mem (0x2000 + 4) 4 < memNum s.mem 0x2000 4 ∧ memNum s.mem (0x2000 + 4) 4 + 1 < memNum s.mem 0x2000 4 ∧ (∀ i, i < 4 → ownBits (0x2000 + 4 + i) = 0) ∧ ownBits (0x2000 + 12) = 0 ∧
      s.barMsgs[1]? = some (.release 0x2000)) ∧
    (let s := { stTraffic with releases := List.replicate 1024 (0x2000, 0x4000) };
      1024 ≤ (s.releases.filter (fun r => barHome r.1 == barHome 0x2000)).length) ∧
    (let s := { stTraffic with barMsgs := [.release 0x2000, .arrival 0x3000 0x2000 true] };
      s.barMsgs[1]? = some (.arrival 0x3000 0x2000 true) ∧ (∀ o ∈ s.barMsgs.take 1, o.waitsAt (barHome 0x2000) = false)) := by
  refine ⟨by unfold Sound; decide +kernel, by decide +kernel, by decide +kernel, by decide +kernel, by decide +kernel, by decide +kernel,
    by decide +kernel, ?_,
    by decide +kernel, by decide +kernel, by decide +kernel, by decide +kernel⟩
  have h : (stTraffic.receiver 1).ck = cellKey 0 0 := by decide +kernel
  rw [h]; exact unfused

/-- Results under way for s3: of a load, of a WAITW that reached its target, of CSTAT without and with WAIT, of %la1. -/
def stResult (k : Await) : State :=
  let s := (live (fun c => { c with
    opn := { c.opn with serial := 5 }, ports := [(0, { bind := 2, depth := 4, fifo := [beat 0x0304, beat 0x0104] })]
    prods := [{ id := 1, dst := .s 9 }, { id := 2, serial := 3, dst := .s 3, kind := k }]
    arch := { c.arch with sf := ~~~(BitVec.ofNat 64 (2 ^ 3)) } })).putNum 0x1008 4 77
  { s with watches := [{ x := {}, id := 2, home := 0x1000, target := 3, got := some 9 }] }

theorem witness_ResultsArrive :
    let p (k : Await) : Prod := { id := 2, serial := 3, dst := .s 3, kind := k }
    let k1 : Await := .load 0 false [] [(0, 0x80)]
    (∀ k ∈ [k1, .waitw 0x1000 0 0, .cstat 0x1000 1 false, .cstat 0x1000 1 true, .look 0],
      ((stResult k).ctx {}).prods[1]? = some (p k) ∧ (p k).dst = .s 3 ∧ (∀ q ∈ ((stResult k).ctx {}).prods, q.id = (p k).id → q = p k) ∧
      (p k).serial < ((stResult k).ctx {}).opn.serial) ∧
    (stResult (.waitw 0x1000 0 0)).watches.find? (fun w => w.x == {} && w.id == 2) = some { x := {}, id := 2, home := 0x1000, target := 3, got := some 9 } ∧
    memNum (stResult (.cstat 0x1000 1 true)).mem (0x1000 + 18) 1 = 0 ∧
    memNum ((stResult (.cstat 0x1000 1 true)).putNum 0x1012 1 1).mem (0x1000 + 18) 1 ≠ 0 ∧
    (((stResult (.look 0)).ctx {}).lookAt 0).isSome = true := by
  decide +kernel
/-! ### Witnesses: translation and the island -/

/-- Tables in HBM: the address-space table at 0x80000, its entry for ASID 0 names a root at 0x102000, whose entry 0 names a table at 0x103000, whose
entry 0 is a leaf of 2^30 bytes at 0x40000000 without W, and whose entry 1 the same with W. -/
def stTables (f : State → State) : State :=
  f ((((((live id).putNum (dieKey 0 tcb) 8 0x80000).putNum 0x80000 8 0x102001).putNum 0x102000 8 0x103001).putNum 0x103000 8 0x40000003).putNum
    0x103008 8 0x40000007)

/-- The same with the tables of levels 3 and 4: entry 0 of the level 2 table names a table at 0x104000, whose entry 0 names one at 0x105000, whose
entry 0 is a leaf of 2^16 bytes with W. -/
def stDeep (f : State → State) : State :=
  stTables (fun s => f (((s.putNum 0x103000 8 0x104001).putNum 0x104000 8 0x105001).putNum 0x105000 8 0x40010007))

/-- A walk of context 0. -/
def walkOf (va : Nat) (wr : Bool) (r : Option WalkRes) : Walk := { va := va, wr := wr, res := r }

def stWalk (w : Walk) (f : State → State) : State := { stTables f with walks := [w] }
def stDeepWalk (w : Walk) (f : State → State) : State := { stDeep f with walks := [w] }

/-- The entry that a table holds at an index, the table that an entry names, and the tables and entries on the way of a walk: the root, e1 to e4. -/
def entryAt (s : State) (table index : Nat) : Nat := memNum s.mem (paKey (table + 8 * index)) 8
def tableOf (e : Nat) : Nat := fld e 45 8 * 2 ^ 8
def rootOf (s : State) (w : Walk) : Nat := fld (entryAt s (memNum s.mem (dieKey w.x.die tcb) 8) w.asid) 45 13 * 2 ^ 13
def entriesOf (s : State) (w : Walk) : List Nat :=
  let e1 := entryAt s (rootOf s w) (fld w.va 48 39)
  let e2 := entryAt s (tableOf e1) (fld w.va 38 30)
  let e3 := entryAt s (tableOf e2) (fld w.va 29 21)
  [0, e1, e2, e3, entryAt s (tableOf e3) (fld w.va 20 16)]
def startsWalk (s : State) (w : Walk) : Bool :=
  let atab := memNum s.mem (dieKey w.x.die tcb) 8
  let e0 := entryAt s atab w.asid
  s.walks[0]? == some w && w.res.isNone && atab % 2 ^ 19 == 0 && decide (atab < 2 ^ 46) && s.paOk atab && fld e0 12 0 == 1 &&
    decide (e0 < 2 ^ 46) && s.paOk (rootOf s w)
def goodEntry (s : State) (e lvl : Nat) (leaf : Bool) : Bool := e % 2 == 1 && s.entryOk e lvl && bit e 1 == leaf
/-- The walk gets to a level. -/
def descends (s : State) (w : Walk) (lvl : Nat) : Bool :=
  startsWalk s w && (List.range lvl).all (fun l => l == 0 || goodEntry s ((entriesOf s w).getD l 0) l false)
/-- The leaf's address exists. -/
def reaches (s : State) (w : Walk) (e lg : Nat) : Bool := s.paOk (tableOf e + w.va % 2 ^ lg) && !(w.hostBar && bit (tableOf e + w.va % 2 ^ lg) 45)
/-- Where a level's entry on the way of va 0 lies. -/
def slotOf (lvl : Nat) : Nat := 0x101000 + 0x1000 * lvl

/-- A context with a closed round that waits on slot 5 of die 0's faults, with a RES. -/
def waitingFault : FaultWait := { party := .ctx {}, slot := some 5, va := 0x1234, kind := 1, level := 2 }
def stFault (res : Nat) : State :=
  let s := (stClosed (fun c => { c with wait := .fault })).putNum (slotKey 0 5) 1 (4 + res)
  { s with faults := [waitingFault] }

/-- A context whose TLBINV waits. -/
def stShoot : State := { live (fun c => { c with wait := .tlbinv }) with shoots := [{ x := {}, hi := 10 }] }

theorem witness_TranslationEvents_walks :
    (let s := stWalk (walkOf 0 false none) (fun s => s.putNum (dieKey 0 tcb) 8 1);
      Sound s ∧ s.walks[0]? = some (walkOf 0 false none) ∧ memNum s.mem (dieKey 0 tcb) 8 % 2 ^ 19 ≠ 0) ∧
    (let s := stWalk (walkOf 0 false none) (fun s => s.putNum 0x80000 8 0); let atab := memNum s.mem (dieKey 0 tcb) 8;
      Sound s ∧ s.walks[0]? = some (walkOf 0 false none) ∧ atab % 2 ^ 19 = 0 ∧ atab < 2 ^ 46 ∧ s.paOk atab = true ∧ entryAt s atab 0 % 2 = 0) ∧
    (∀ l : Fin 4, let lvl := l.val + 1; let w := walkOf 0 true none; let s := stDeepWalk w (fun s => s.putNum (slotOf lvl) 8 0);
      Sound s ∧ descends s w lvl = true ∧ (entriesOf s w).getD lvl 0 % 2 = 0) ∧
    (∀ l : Fin 4, let lvl := l.val + 1; let w := walkOf 0 true none;
      let s := stDeepWalk w (fun s => s.putNum (slotOf lvl) 8 (if lvl = 1 then 3 else 0x800000040010007));
      Sound s ∧ descends s w lvl = true ∧ (entriesOf s w).getD lvl 0 % 2 = 1 ∧ s.entryOk ((entriesOf s w).getD lvl 0) lvl = false) ∧
    (∀ l : Fin 3, ∀ wr wl : Bool, let lvl := l.val + 2; let lg := [30, 21, 16].getD l.val 0; let w := walkOf 0 wr none;
      let s := stDeepWalk w (fun s => s.putNum (slotOf lvl) 8 (if wl then 0x40000007 else 0x40000003));
      let e := (entriesOf s w).getD lvl 0;
      Sound s ∧ descends s w lvl = true ∧ goodEntry s e lvl true = true ∧ bit e 2 = wl ∧ reaches s w e lg = true) ∧
    (∀ l : Fin 3, let lvl := l.val + 2; let lg := [30, 21, 16].getD l.val 0; let w := walkOf 0 true none;
      let s := stDeepWalk w (fun s => s.putNum (slotOf lvl) 8 0x1FFFC0000007);
      let e := (entriesOf s w).getD lvl 0;
      Sound s ∧ descends s w lvl = true ∧ goodEntry s e lvl true = true ∧ bit e 2 = true ∧ reaches s w e lg = false) := by
  unfold Sound; and_intros <;> decide +kernel

theorem witness_TranslationEvents :
    (let s := stWalk { walkOf 0 false (some (.leaf 0x40000000 30 false)) with gen := 1 } id;
      Sound s ∧ s.walks[0]? = some { walkOf 0 false (some (.leaf 0x40000000 30 false)) with gen := 1 } ∧ (s.cell 0).tlb.gen = 0) ∧
    (let s := stWalk (walkOf 0 false (some (.leaf 0x40000000 30 false))) id;
      Sound s ∧ s.walks[0]? = some (walkOf 0 false (some (.leaf 0x40000000 30 false))) ∧ (s.cell 0).tlb.gen = (walkOf 0 false none).gen) ∧
    (let w := walkOf 7 true (some (.bad 1 2)); let s := { (stClosed id).putNum (dieKey 0 (tcb + 8)) 2 0xFFFF with walks := [w] };
      Sound s ∧ s.walks[0]? = some w ∧ w.gen = (s.cell 0).tlb.gen ∧ memNum s.mem (dieKey 0 (tcb + 8)) 2 = 0xFFFF ∧ (s.ctx {}).closed ≠ none) ∧
    (let w := walkOf 7 true (some (.bad 1 2)); let s := { (stClosed id).putNum (dieKey 0 (tcb + 8)) 2 4 with walks := [w] };
      Sound s ∧ s.walks[0]? = some w ∧ w.gen = (s.cell 0).tlb.gen ∧ memNum s.mem (dieKey 0 (tcb + 8)) 2 ≠ 0xFFFF ∧ s.freeSlot 0 = some 0) ∧
    (∀ i : Fin 4, let s := stFault i.val; let f := waitingFault;
      Sound s ∧ s.faults.find? (fun f => f.die == 0 && f.slot == some 5) = some f ∧ f.party = .ctx {} ∧ f.gone = false ∧ f.away = none ∧
      (s.ctx {}).life = .live ∧ (s.ctx {}).frozen = false ∧ (s.ctx {}).cancel = false ∧ (s.ctx {}).wait = .fault ∧
      (if f.res = 0 then memNum s.mem (slotKey 0 5) 1 % 4 else f.res) = i.val ∧ (s.ctx {}).closed ≠ none ∧
      s.faults.any (fun f => f.die == 0 && f.slot.isNone && !f.gone) = false) ∧
    (let f := { waitingFault with gone := true }; let s := { stFault 3 with faults := [f] };
      Sound s ∧ s.faults.find? (fun f => f.die == 0 && f.slot == some 5) = some f ∧ f.gone = true ∧
      (if f.res = 0 then memNum s.mem (slotKey 0 5) 1 % 4 else f.res) ≠ 0 ∧
      s.faults.any (fun f => f.die == 0 && f.slot.isNone && !f.gone) = false) ∧
    (let s := { stFault 1 with faults := [waitingFault, { waitingFault with slot := some 6 }] };
      s.faults.find? (fun f => f.die == 0 && f.slot == some 5) = some waitingFault ∧ s.faults.any (fun g => g.slot == some 6 && !g.gone) = true) ∧
    (let s := (stClosed id).putNum (dieKey 0 (tcb + 8)) 2 4; s.freeSlot 0 = some 0 ∧
      (let u := (List.range 64).foldl (fun s i => s.putNum (slotKey 0 i) 1 4) s; u.freeSlot 0 = none ∧ memNum u.mem (dieKey 0 (tcb + 8)) 2 ≠ 0xFFFF)) ∧
    (let w := walkOf 0 false (some (.leaf 0x40000000 30 false)); let s := (stWalk w id).modCtx {} (fun c => { c with wait := .walk });
      (s.ctx w.x).wait = .walk ∧ (∀ v ∈ dropIdx s.walks 0, v.x ≠ w.x)) ∧
    (Sound stShoot ∧ (stShoot.shoots.find? (fun h => h.x == {})).isSome = true ∧
      stShoot.allCtxs.any (fun e => e.2.owes { x := {}, hi := 10 }) = false) := by
  unfold Sound; and_intros <;> decide +kernel

/-- A row queue with an i8 row of accumulator 1, ring 0 holding one slot; the other operations in front of it. -/
def stRows (op : RowOp) (f : Island → Island) : State :=
  bytesAt (cell0 (live (fun c => { c with rings := [(0, { declared := true, sz := 8, n := 2, tail := 1 })] }))
    (fun k => { k with island := f { k.island with holder := some 0, rq := [{ ord := 3, op := op }], stores := [(0, 0x0302), (1, 5)] } }))
    (tileKey 0 0) [2, 0xFF, 3]

/-- The row queue's head is this operation, of a context whose round goes on, and a slot is there. -/
def rowReady (s : State) (op : RowOp) : Bool :=
  let i := (s.cell (cellKey 0 0)).island
  let c := s.ctx (ctxAt (cellKey 0 0) 0)
  i.rq == [{ ord := 3, op := op }] && !c.frozen && !s.waved (cellKey 0 0) && c.opn.serial == 0 && decide (1 ≤ (c.ring 0).held)

/-- A closing queue that holds one operation of accumulator 2, after a row of accumulator 1; a partial row; the producers of `s5` and `v5`. -/
def closingOf (op : CloseOp) : CloseEnt := { ord := 9, acc := 2, op := op }
def stQueued (op : CloseOp) (dst : Reg) : State :=
  (stRows (.row 1 4 0 0) (fun i => { i with cq := [closingOf op], pq := [{ serial := 0, used := some 0 }, { serial := 0, acc := 2, row := 3, ty := 11 }] })).modCtx {}
    (fun c => { c with prods := [{ id := 6, dst := dst, kind := .closing }] })
def queued (op : CloseOp) (dst : Reg) : Bool :=
  let s := stQueued op dst
  let i := (s.cell (cellKey 0 0)).island
  i.cq == [closingOf op] && !s.mergeStalled (ctxAt (cellKey 0 0) 0) && i.rq.all (fun r => !decide (r.ord < 9) || (closingOf op).accs.all (fun a => r.acc? != some a)) &&
    (s.ctx (ctxAt (cellKey 0 0) 0)).opn.serial == 0 && (s.ctx (ctxAt (cellKey 0 0) 0)).opn.journal.isEmpty

theorem witness_IslandOperations :
    (∀ ty : Fin 3, let op : RowOp := .row 1 4 ([0, 9, 10].getD ty.val 0) 0;
      let s := stRows op (fun i => { i with cq := [{ ord := 9, acc := 1 }] });
      rowReady s op = true ∧ ∀ q ∈ (s.cell (cellKey 0 0)).island.cq, 1 ∈ q.accs → 3 ≤ q.ord) ∧
    (∀ ty : Fin 4, let op : RowOp := .row 1 4 (11 + ty.val) 0; let s := stRows op (fun i => { i with pq := List.replicate 63 {} });
      rowReady s op = true ∧ (s.cell (cellKey 0 0)).island.pq.length < 64) ∧
    (let s := stRows (.mldb 0 0) (fun i => { i with tiles := { act := 0, load := 1 } }); let i := (s.cell (cellKey 0 0)).island;
      rowReady s (.mldb 0 0) = true ∧ i.filling = none ∧ freeStore i.tiles ((s.ctx (ctxAt (cellKey 0 0) 0)).namedStores 0) = some 2) ∧
    (rowReady (stRows .mswap id) .mswap = true ∧ ((stRows .mswap id).cell (cellKey 0 0)).island.filling = none) ∧
    (((stRows .mswap (fun i => { i with filling := some (1, 0) })).cell (cellKey 0 0)).island.filling.isSome = true) ∧
    (let i := ((stRows (.row 1 4 0 0) (fun i => { i with cq := [{ ord := 9, acc := 1 }] })).cell (cellKey 0 0)).island;
      i.cq = [{ ord := 9, acc := 1 }] ∧ ∃ r ∈ i.rq, r.ord < 9 ∧ ∃ a ∈ ({ ord := 9, acc := 1 } : CloseEnt).accs, r.acc? = some a) := by
  and_intros <;> decide +kernel

theorem witness_IslandOperations_queue :
    (∀ op ∈ ([.mzero, .msca 11 0 64 0, .msca 11 0 64 1, .msca 11 0 64 2, .rldecl 0, .rldecl 64, .rlpushV 31 0 0 0, .rlpushA 31 4 0, .rlmerge 31 [],
        .rlclr none, .rlclr (some 31), .rscan 31] : List CloseOp), queued op (.s 5) = true) ∧
    (∀ op ∈ ([.mdrn 0 1 0 false 31 5 1 6, .mdrn 2 12 0 true 0 5 3 6, .rlread 31 1 5 6] : List CloseOp), queued op (.v 5) = true ∧
      ((stQueued op (.v 5)).ctx (ctxAt (cellKey 0 0) 0)).prods.find? (fun p => p.id == 6) = some { id := 6, dst := .v 5, kind := .closing }) ∧
    (∀ op ∈ ([.rlth 31 5 6, .rnorm 31 0 5 6] : List CloseOp), queued op (.s 5) = true ∧
      ((stQueued op (.s 5)).ctx (ctxAt (cellKey 0 0) 0)).prods.find? (fun p => p.id == 6) = some { id := 6, dst := .s 5, kind := .closing }) ∧
    ((stQueued (.msca 11 0 64 2) (.s 5)).cell (cellKey 0 0)).island.pq.find? (fun p => p.used.isNone) = some { serial := 0, acc := 2, row := 3, ty := 11 } ∧
    ((stRows (.row 1 4 0 0) (fun i => { i with cq := [closingOf (.msca 11 0 64 2)] })).cell (cellKey 0 0)).island.pq.find? (fun p => p.used.isNone) = none := by
  and_intros <;> decide +kernel
/-! ### Witnesses: schedulers and the pager

Which cells are fused off is not known to the model, so witnesses that place or load a page take it as a premise that none is. -/

/-- The two data items of an image of one page of one cell with one used context: its role map, and the context's declaration. -/
def imgItems : List (Nat × Nat × Word) := [(4, 0, 4129), (5, 0, 1)]
def imgCrc : Nat := imgItems.foldl (fun c e => crcMore c (toBytes 8 e.2.2.toNat)) 0

/-- The image: header, pattern table, items, rectangle. -/
def imgBytes : List Byte :=
  toBytes 128 (1 + 2 ^ 16 + 2 ^ 32 + 260 * 2 ^ 64 + 128 * 2 ^ 96)
    ++ toBytes 32 (160 + 2 * 2 ^ 32 + imgCrc * 2 ^ 64 + 6 * 2 ^ 96 + 2 ^ 128 + 192 * 2 ^ 160)
    ++ toBytes 16 (4 * 2 ^ 12 + 4129 * 2 ^ 64) ++ toBytes 16 (5 * 2 ^ 12 + 2 ^ 64) ++ toBytes 4 0

/-- The descriptor of a launch of one unit of that image with its record at 0x6000. -/
def descNum : Nat := dieAddr 0x4000 + 2 ^ 64 + 3 * 2 ^ 112 + 2 ^ 115 + dieAddr 0x6000 * 2 ^ 384

/-- A scheduler with a command at its head; the image and descriptor stand in die scratch, a record at 0x6100. -/
def stSched (c : Cmd) (f : Sched → Sched) : State :=
  (((bytesAt (live id) (dieKey 0 0x4000) imgBytes).putNum (dieKey 0 0x5000) 64 descNum).putRecord (dieKey 0 0x6100) 3 1 0 {}).setSched 0
    (f { queue := [c] })

/-- A command from a message, from a privileged sender. -/
def cmdD (m : Nat) : Cmd := { m := BitVec.ofNat 512 m, priv := true }
def sopenCmd : Cmd := cmdD (0x32 + dieAddr 0x6000 * 2 ^ 256 + 3 * 2 ^ 320 + 9 * 2 ^ 352)
def slaunchCmd : Cmd := cmdD (0x30 + dieAddr 0x5000 * 2 ^ 256 + 2 * 2 ^ 320)
def sgraphCmd : Cmd := cmdD (0x31 + dieAddr 0x5000 * 2 ^ 256 + dieAddr 0x6000 * 2 ^ 320)
def scancelCmd (lvl : Nat) : Cmd := cmdD (0x33 + dieAddr 0x6100 * 2 ^ 256 + lvl * 2 ^ 320)

/-- The launch that a record at 0x6100 belongs to, with one unit on context 0. -/
def oneLaunch : Launch := { key := 1, asid := 0, image := dieAddr 0x4000, nunit := 1, crec := dieKey 0 0x6100, level := 3, adm := 4,
                            slots := [(0, 0, 0)], insts := [{ left := 1 }] }
def stCancel : State := (stSched (scancelCmd 1) (fun d => { d with launches := [oneLaunch] })).modCtx {} (fun c => { c with info := { c.info with lkey := 1 } })

/-- What a read for a scheduler has found, from a test that can be decided. -/
theorem found_is {α : Type} [DecidableEq α] (s : State) (a : α) (r : State × Found α)
    (h : (match r with
      | (t, .ok b) => decide (t = s ∧ b = a)
      | _ => false) = true) : r = (s, .ok a) := by
  obtain ⟨t, x⟩ := r
  cases x <;> simp_all

theorem checked_is (s : State) (r : State × Checked)
    (h : (match r with
      | (t, .ok) => decide (t = s)
      | _ => false) = true) : r = (s, .ok) := by
  obtain ⟨t, x⟩ := r
  cases x <;> simp_all

/-- The image as it is read. -/
def theImage : Image := { npage := 1, pats := [{ items := imgItems, crc := imgCrc, tiles := 6, rects := [{}] }] }

theorem witness_SchedulerCommands :
    (∀ c ∈ [sopenCmd, slaunchCmd, sgraphCmd, scancelCmd 1, scancelCmd 2],
      let s := stSched c id; let d := s.sched s.die;
      Sound s ∧ d.queue.head? = some c ∧ s.faulting (.sched s.die 0) = false ∧ c.phase = 0 ∧ c.cw = false) ∧
    (let s := stSched sopenCmd id; let c := sopenCmd;
      recordOf (c.op 256 64) = some (dieKey 0 0x6000) ∧ (∀ i, i < 32 → ownBits (dieKey 0 0x6000 + i) = 0) ∧ s.openRecord (dieKey 0 0x6000) = false ∧ c.op 384 64 = 0 ∧
      ∀ e ∈ s.scheds, ∀ o ∈ e.2.opened, o.crec ≠ dieKey 0 0x6000) ∧
    (let s := stSched slaunchCmd id; let c := slaunchCmd; let a := memNum s.mem (dieKey 0 0x5000) 64;
      addrWord (c.op 256 64) = some (.die 0 0x5000) ∧ 0x5000 % 64 = 0 ∧ (s.sched s.die).fatalOf 0 = none ∧ recordOf (fld a 447 384) = some (dieKey 0 0x6000) ∧
      1 ≤ fld a 95 64 ∧ fld a 95 64 ≤ 65536 ∧ fld a 111 96 = 0 ∧ 1 ≤ fld a 117 115 ∧ bit a 118 = false ∧ bit a 119 = false ∧ fld a 127 121 = 0 ∧
      fld a 191 160 = 0 ∧ fld a 319 256 = 0 ∧ fld a 511 448 = 0 ∧ fld a 63 0 = dieAddr 0x4000) ∧
    (∃ img, (stSched slaunchCmd id).readImage 0 0 slaunchCmd.asid (dieAddr 0x4000) = (stSched slaunchCmd id, .ok img) ∧ img.slots ≠ [] ∧ img.hands = false) ∧
    (let c := sgraphCmd; recordOf (c.op 320 64) = some (dieKey 0 0x6000) ∧ tableWord (c.op 256 64) 128 = true ∧ c.op 384 64 = 0) ∧
    (recordOf ((scancelCmd 2).op 256 64) = some (dieKey 0 0x6100) ∧
      (stSched (scancelCmd 2) id).recLevel (dieKey 0 0x6100) ≠ (scancelCmd 2).op 320 3) ∧
    (let s := stCancel; let r := dieKey 0 0x6100; let x : CtxId := {};
      recordOf ((scancelCmd 1).op 256 64) = some r ∧ s.recLevel r = (scancelCmd 1).op 320 3 ∧ s.recStatus r = 0 ∧ s.scheds = [(s.die, s.sched s.die)] ∧
      (s.sched s.die).graphs = [] ∧ (s.sched s.die).launches = [oneLaunch] ∧ oneLaunch.crec = r ∧ oneLaunch.ended = false ∧ s.madeAt r ≤ oneLaunch.adm ∧
      s.launch? s.die oneLaunch.key = some oneLaunch ∧ (s.cells.get? x.ck).isSome = true ∧ (((s.cells.get? x.ck).getD {}).ctxs.get? x.ctx) = some (s.ctx x) ∧
      (s.ctx x).life = .live ∧ (s.ctx x).info.sdie = s.die ∧ (s.ctx x).info.lkey = oneLaunch.key) := by
  refine ⟨by unfold Sound; decide +kernel, by decide +kernel, by decide +kernel, ?_, by decide +kernel, by decide +kernel, by decide +kernel⟩
  exact ⟨theImage, found_is _ _ _ (by decide +kernel), by decide +kernel, by decide +kernel⟩

/-- A graph of one node of kind 3 for engine 0x2000, its table at 0x7000, its record at 0x6200; and what its table holds. -/
def nodeNum : Nat := 3 + 2 ^ 24 + 0x2000 * 2 ^ 32 + dieAddr 0x7100 * 2 ^ 64 + 0xFFFFFFFFFFFFFFFF * 2 ^ 128
def graphCmd : Cmd := cmdD (0x31 + dieAddr 0x7000 * 2 ^ 256 + dieAddr 0x6200 * 2 ^ 320)
def oneGraph : Graph := { key := 5, crec := dieKey 0 0x6200, cmd := graphCmd, adm := 7 }

/-- The same graph once admitted, its node loaded with a command, or sent and waiting for the reply. -/
def loadedNode : Node := { kind := 3, ncmd := 1, target := 0x2000, st := 1, loaded := true, msgs := [BitVec.ofNat 512 (1 + 0x3000 * 2 ^ 24)] }
def sentNode : Node := { kind := 3, ncmd := 1, target := 0x2000, st := 2, loaded := true, outs := [(0x2000, 77)] }
def graphOf (n : Node) : Graph := { oneGraph with admitted := true, nodes := [n], cmd := { graphCmd with phase := 7 } }

def stMoves (f : Sched → Sched) : State :=
  ((stSched {} f).putNum (dieKey 0 0x7000) 128 nodeNum).putRecord (dieKey 0 0x6200) 2 2 0 {}

/-- A reply to the graph's node. -/
def nodeRep : Transit := { src := 0x2000, box := schedBox 0, node := some (0, 5, 0), m := BitVec.ofNat 512 (0x7F + 0x2000 * 2 ^ 16 + 77 * 2 ^ 64) }

/-- A unit descheduled by LAUNCH, the pool empty or not. -/
def launchWord : BitVec 128 := (encodeWord (.launch { (default : Fields) with d := rs 3, a := rs 1, b := rs 2 })).getD 0
def stPool (pool : Nat) (f : Sched → Sched) : State :=
  { cell0 (stMoves (fun d => f { d with pool := pool, waits := [{ x := {}, need := 4 }] }))
      (fun k => (k.setWord 0 6 (launchWord.extractLsb' 0 64)).setWord 0 7 (launchWord.extractLsb' 64 64)) with clk := 2 ^ 21 }

theorem witness_SchedulerMoves (unfused : ∀ ck, fusedOff ck = false) :
    (let s := stMoves (fun d => { d with graphs := [oneGraph] }); let d := s.sched 0; let g := oneGraph;
      Sound s ∧ d.graphs[0]? = some g ∧ s.faulting (.sched 0 (graphJob g.key)) = false ∧ g.cmd.phase = 0 ∧ g.ended = false ∧ g.admitted = false ∧
      g.phase = 0 ∧ d.fatalOf (graphJob g.key) = none ∧ d.waits = [] ∧ ([nodeNum].map (fun d => 1 + fld d 23 12)).foldl (· + ·) 0 ≤ d.room ∧
      (∀ h ∈ d.graphs, h.pwait = true → g.adm ≤ h.adm) ∧ (∀ h ∈ d.graphs, h.key = g.key → h = g) ∧ (∀ i, i < 32 → ownBits (g.crec + i) = 0)) ∧
    (let s := stMoves (fun d => { d with graphs := [oneGraph] });
      s.readTable 0 (graphJob 5) 0 (graphCmd.op 256 64) 0 128 (graphCmd.op 448 10 + 1) = (s, .ok [nodeNum]) ∧
      State.checkNodes 0 (graphJob 5) 0 [nodeNum] 0 0 s = (s, .ok)) ∧
    (let s := stMoves (fun d => { d with graphs := [graphOf loadedNode] }); let n := loadedNode;
      (s.sched 0).out = false ∧ ((topEntry (s.classOf 0 (.engine 0x2000))).map (fun e => e.2)) = some (.node 5 0) ∧
      (s.sched 0).graphs.find? (fun g => g.key == 5) = some (graphOf n) ∧ (graphOf n).nodes[0]? = some n ∧ s.faulting (.sched 0 (nodeJob 5 0)) = false ∧
      n.loaded = true ∧ n.kind = 3 ∧ n.msgs = [BitVec.ofNat 512 (1 + 0x3000 * 2 ^ 24)] ∧
      (s.deliver { src := schedBox 0, priv := false, box := n.target, m := BitVec.ofNat 512 (1 + 0x3000 * 2 ^ 24), node := some (0, 5, 0) }).isSome = true) ∧
    (let s := stMoves (fun d => { d with launches := [oneLaunch] }); let l := oneLaunch;
      (s.sched 0).out = false ∧ s.pages = [] ∧ ((topEntry (s.cellsClass 0)).map (fun e => e.2)) = some (.launch 1) ∧ s.launch? 0 1 = some l ∧
      s.faulting (.sched 0 (launchJob 1)) = false ∧ (s.sched 0).fatalOf (launchJob 1) = none ∧ l.key = 1) ∧
    (let s := stMoves (fun d => { d with launches := [oneLaunch] });
      s.readImage 0 (launchJob 1) oneLaunch.asid oneLaunch.image = (s, .ok theImage) ∧
      ∃ w, s.windowFor 0 theImage oneLaunch.page oneLaunch.barred = some (w, false)) ∧
    (let s := { stMoves (fun d => { d with graphs := [graphOf sentNode] }) with transit := [nodeRep] }; let g := graphOf sentNode;
      Sound s ∧ s.transit[0]? = some nodeRep ∧ nodeRep.box = schedBox 0 ∧ nodeRep.m.extractLsb' 0 8 = 0x7F ∧ nodeRep.m.extractLsb' 8 8 = 0 ∧
      s.transit.take 0 = [] ∧ fld nodeRep.src 15 12 ≠ 7 ∧ nodeRep.node = some (0, g.key, 0) ∧ sentNode.st = 2 ∧ sentNode.kind = 3 ∧ sentNode.msgs = [] ∧
      sentNode.cancel = false ∧ sentNode.bad = false ∧ (s.sched 0).graphs = [g] ∧ g.nodes = [sentNode] ∧ (nodeRep.m.extractLsb' 16 16).toNat = 0x2000 ∧
      sentNode.outs = [(0x2000, (nodeRep.m.extractLsb' 64 64).toNat)] ∧
      memNum s.mem (g.crec + 4) 4 + 1 + memNum s.mem (g.crec + 8) 4 + memNum s.mem (g.crec + 12) 4 < memNum s.mem (g.crec + 0) 4 ∧ memNum s.mem (g.crec + 4) 4 + 1 < 2 ^ 32) ∧
    (let s := stPool 9 id; let v : PoolWait := { x := {}, need := 4 };
      (s.sched 0).waits = [v] ∧ s.frozen = [] ∧ (s.ctx v.x).life = .live ∧
      ((s.ctx v.x).waitingLaunch (s.cell v.x.ck)).map (fun w => (w.d.cls, w.d.idx)) = some (0, 3) ∧
      s.launch? (s.ctx v.x).info.sdie (s.ctx v.x).info.lkey = none ∧ v.need ≤ (s.sched 0).room ∧
      (s.ctx v.x).opn.used < 1024 ∧ v.x.die = 0) ∧
    (let u : PoolWait := { x := { ctx := 1 }, need := 2, lkey := 1 }; let v : PoolWait := { x := {}, need := 4 };
      let l := { oneLaunch with reserve := 2 };
      let s := (stPool 0 (fun d => { d with waits := [v, u], launches := [l] })).setCtx u.x
        { (stPool 0 id).ctx {} with info := { ((stPool 0 id).ctx {}).info with lkey := 1 } };
      (s.sched 0).waits = [v, u] ∧ u ≠ v ∧ s.frozen = [] ∧ (s.ctx v.x).life = .live ∧ (s.sched 0).room < v.need - s.reserveFor 0 (s.ctx v.x) v.need ∧
      u.x.die = 0 ∧ (s.ctx u.x).life = .live ∧ ((s.ctx u.x).waitingLaunch (s.cell u.x.ck)).map (fun w => (w.d.cls, w.d.idx)) = some (0, 3) ∧
      (s.ctx u.x).info.sdie = 0 ∧ s.launch? 0 (s.ctx u.x).info.lkey = some l ∧ l.ended = false ∧ l.key = (s.ctx u.x).info.lkey ∧ 0 < u.need ∧
      u.need ≤ l.reserve ∧ (s.ctx u.x).opn.used < 1024) ∧
    (let s := stPool 9 (fun d => { d with launches := [oneLaunch] }); let l := oneLaunch;
      (s.launchEntries 0)[0]? = some ({ level := 3, adm := l.rank }, .launch l.key) ∧ s.launch? 0 l.key = some l ∧ l.level = 3 ∧ l.since = 0 ∧
      l.prioSet = none ∧ l.level < 7 ∧ l.since + 2 ^ 16 ≤ s.clk.toNat) ∧
    (let l := { oneLaunch with inst := 1 }; let s := stPool 0 (fun d => { d with launches := [l] }); let d := s.sched 0;
      Sound s ∧ d.waits ≠ [] ∧ s.nextGrant 0 = none ∧ d.progress + 2 ^ 20 ≤ s.clk.toNat ∧
      youngest (s.jobs 0) = some (.launch 0 4 1 (dieKey 0 0x6100)) ∧ (s.jobFamily (.launch 0 4 1 (dieKey 0 0x6100))).2 = [(0, 1)] ∧
      (∀ e ∈ s.scheds, e.2.graphs = []) ∧ (∀ i, i < 32 → ownBits (l.crec + i) = 0) ∧ s.launch? 0 1 = some l ∧ l.crec = dieKey 0 0x6100 ∧ l.node = none ∧
      recordOf l.parent = none ∧ l.ended = false ∧ s.unitsOf 0 1 = [] ∧ s.frozen = [] ∧ s.pages = [] ∧ l.insts.length ≤ l.inst) := by
  refine ⟨by unfold Sound; decide +kernel, ⟨found_is _ _ _ (by decide +kernel), checked_is _ _ (by decide +kernel)⟩, by decide +kernel, by decide +kernel,
    ⟨found_is _ _ _ (by decide +kernel), ?_⟩, by unfold Sound; decide +kernel, by decide +kernel, by decide +kernel, by decide +kernel, by unfold Sound; decide +kernel⟩
  · simp only [State.windowFor, State.pickWindow, State.usable, State.cellFree, State.unusable, unfused]
    exact ⟨{ num := 1, cells := [1, 2, 3, 4, 13, 14, 15, 16, 25, 26, 27, 28, 37, 38, 39, 40] }, by decide +kernel⟩

/-- A page of that launch on the second window; and a state where it stands there. -/
def pageCells : List Nat := [1, 2, 3, 4, 13, 14, 15, 16, 25, 26, 27, 28, 37, 38, 39, 40]
def onePage : Page := { key := 2, lkey := 1, cells := pageCells, window := 1, adm := 4 }
def stPage (f : Page → Page) (g : Ctx → Ctx) : State :=
  let s := (stMoves (fun d => { d with launches := [oneLaunch] })).putPage (f onePage) { num := 1, cells := pageCells }
  s.modCtx { cell := 1 } g

/-- The context of that page, waiting for the pool, or stopped there. -/
def poolCtx (c : Ctx) : Ctx := { c with life := .live, wait := .pool 3, info := { c.info with lkey := 1 } }

/-- The frozen image of that page, with that context stopped. -/
def frozenPage : Frozen := { page := onePage, level := 3, cells := [{ idx := 0, cfg := [(4 * 2 ^ 24, 4129)], ctxs := [(0, { poolCtx {} with frozen := true })] }] }
def stFrozen : State := { stMoves (fun d => { d with launches := [{ oneLaunch with inst := 1 }] }) with frozen := [frozenPage] }

/-- That page on its way back, at a word of the load of section 1. -/
def thawPage (done : Nat) (fr : Freeze) : Page := { onePage with loading := true, thaw := true, done := done, freeze := fr }
def stThaw (done st : Nat) (fr : Freeze) : State :=
  { (stFrozen.putPage (thawPage done fr) { num := 1, cells := pageCells }) with }.modCell (cellKey 0 1) (fun k => { k with st := BitVec.ofNat 2 st })

/-- That page under load at a word of its pattern, its cell begun, sealed, or as the load left it. -/
def loadingPage (done : Nat) : Page := { onePage with loading := true, done := done, filled := [0] }
def stLoad (done st : Nat) : State :=
  (stPage (fun _ => loadingPage done) id).modCell (cellKey 0 1) (fun k => { k with st := BitVec.ofNat 2 st })

/-- A page at level 3 with a unit that runs, and an entry of level 5 that could not place since clock 100. -/
def highLaunch : Launch := { oneLaunch with key := 9, level := 5, crec := dieKey 0 0x6300 }
def stBlocked (clk : Nat) : State :=
  { (stPage id (fun c => { c with life := .live })).modSched 0 (fun d =>
      { d with launches := [{ oneLaunch with inst := 1 }, highLaunch], blocked := some (.launch 9, 100) }) with clk := BitVec.ofNat 64 clk }

theorem witness_PagerMoves (unfused : ∀ ck, fusedOff ck = false) :
    (∀ done : Fin 6, let s := stLoad done.val (if done.val = 5 then 2 else 1); let p := loadingPage done.val; let l := oneLaunch;
      Sound s ∧ s.pages[0]? = some p ∧ s.launch? p.sdie p.lkey = some l ∧ l.key = p.lkey ∧ p.thaw = false ∧ p.loading = true ∧ p.skip = false ∧ p.again = false ∧ p.freeze = .no ∧
      s.faulting (.sched p.sdie (launchJob l.key)) = false ∧ (s.sched p.sdie).fatalOf (launchJob l.key) = none) ∧
    (∀ done : Fin 6, let s := stLoad done.val (if done.val = 5 then 2 else 1);
      s.readImage 0 (launchJob 1) oneLaunch.asid oneLaunch.image = (s, .ok theImage)) ∧
    (∀ done : Fin 6, (stLoad done.val (if done.val = 5 then 2 else 1)).unusable (cellKey 0 1) = false) ∧
    (theImage.loadOps (loadingPage 0) = [([1], .start), ([1], .item 4 0 4129), ([1], .item 5 0 1), ([1], .item 5 1 0), ([1], .seal 0x86b81ece)] ∧
      cellKey 0 1 = 1 ∧ ((stLoad 0 0).cell (cellKey 0 1)).busy = false ∧ ((stLoad 1 1).cell (cellKey 0 1)).st = 1) ∧
    (let s := stLoad 5 3; let p := loadingPage 5;
      (theImage.loadOps p)[p.done]? = none ∧ (theImage.cellsOf p).filter (fun e => (s.cell e.1).st != 2) = theImage.cellsOf p ∧
      (theImage.cellsOf p).length = 1 ∧ p.again = false ∧ p.tries = 0 ∧ Sound s) ∧
    (let s := stLoad 5 3; s.readImage 0 (launchJob 1) oneLaunch.asid oneLaunch.image = (s, .ok theImage)) ∧
    (let s := stLoad 5 2; let p := loadingPage 5;
      (∀ e ∈ theImage.cellsOf p, (s.cell e.1).st = 2) ∧ p.skip = false ∧ oneLaunch.units p.copy p.ord = [(0, 0, 0)] ∧ p.cells.getD 0 0 < 144 ∧
      oneLaunch.seof = false) ∧
    (let s := stPage id poolCtx; let p := onePage;
      Sound s ∧ (s.pages.filter (fun p => p.die == 0)).find? (fun p => p.freeze == .no && s.descheduled p) = some p) ∧
    (∀ t ∈ [4195, 4196], let s := stBlocked t; let mine := s.pages.filter (fun p => p.die == 0);
      Sound s ∧ (∀ g ∈ mine, g.freeze = .no ∧ s.descheduled g = false) ∧
      topEntry (s.cellsClass 0) = some ({ level := 5, adm := highLaunch.rank }, .launch 9) ∧ (s.sched 0).blocked = some (.launch 9, 100) ∧
      s.victim (mine.filter (fun p => !p.sys && decide (s.pageLevel p < 5) && (p.loading || (s.pageCtxs p).any (fun e => e.2.life != .empty)))) = some onePage) ∧
    (let s := stPage (fun p => { p with freeze := .asked }) poolCtx; let p : Page := { onePage with freeze := .asked };
      Sound s ∧ s.pages[0]? = some p ∧ p.loading = false) ∧
    (let s := stPage (fun p => { p with freeze := .wave }) poolCtx; let x : CtxId := { cell := 1 };
      Sound s ∧ s.waved x.ck = true ∧ (s.ctx x).frozen = false ∧ (s.ctx x).life ≠ .empty ∧ (s.ctx x).atStop = true) ∧
    (let s := stPage (fun p => { p with freeze := .wave, filled := [0] }) (fun c => { poolCtx c with frozen := true });
      let p : Page := { onePage with freeze := .wave, filled := [0] };
      Sound s ∧ s.pages[0]? = some p ∧ (∀ e ∈ s.pageCtxs p, e.2.life ≠ .empty → e.2.frozen = true ∧ s.quiet e.1 e.2 = true) ∧
      (∀ c ∈ p.cells, (s.cell (cellKey p.die c)).queue = []) ∧ s.sys.retiring = [] ∧ s.launch? p.sdie p.lkey = some oneLaunch ∧ p.cells[0]? = some 1 ∧ 0 ∈ p.filled) ∧
    (let s := stFrozen; let f := frozenPage; let c : Ctx := { poolCtx {} with frozen := true };
      Sound s ∧ s.frozen[0]? = some f ∧ s.pages = [] ∧ (s.sched f.die).out = false ∧ (topEntry (s.cellsClass f.die)).map (fun e => e.2) = some (.frozen f.page.key) ∧
      s.launch? f.page.sdie f.page.lkey = some { oneLaunch with inst := 1 } ∧ f.st = 0 ∧ f.watches = [] ∧
      s.redirects f.die + (f.cells.map (fun c => c.ctxs.length)).foldl (· + ·) 0 ≤ 64 ∧ f.page.barred = [] ∧
      c.opn.void = false ∧ c.closed = none ∧ c.poolFault = false ∧ c.life = .live) ∧
    (∀ n : Fin 4, let s := stThaw n.val 2 .no; let f := frozenPage;
      Sound s ∧ s.pages[0]? = some (thawPage n.val .no) ∧ (thawPage n.val .no).thaw = true ∧
      s.frozen.find? (fun f => f.page.key == (thawPage n.val .no).key) = some f ∧ (f.loadOps (thawPage n.val .no))[n.val]?.isSome = (n.val != 3)) ∧
    (frozenPage.page.tries < 2 ∧ (thawPage 3 .asked).freeze ≠ .no ∧ ((stThaw 3 3 .no).cell (cellKey 0 1)).st ≠ 2 ∧
      ((stThaw 3 2 .no).cell (cellKey 0 1)).st = 2 ∧ pageCells.getD 0 0 = 1) ∧
    (∃ w, stFrozen.pickWindow 0 (tab 16 (fun j => ((frozenPage.cells.find? (fun c => c.idx == j)).map (fun c =>
        roleTiles (c.cfg.getD (4 * 2 ^ 24) 0).toNat)).getD 0)) [] (fun _ => false) = some (w, false) ∧ w.cells.getD 0 0 < 144) ∧
    (let s := { stPage id id with clk := 4096 };
      Sound s ∧ s.pages[0]? = some onePage ∧ onePage.win < s.clk.toNat / 1024 ∧ s.sys.governor.get? onePage.key ≠ some (s.clk.toNat / 1024)) := by
  refine ⟨by unfold Sound; decide +kernel, fun done => found_is _ _ _ (by revert done; decide +kernel), ?_, by decide +kernel,
    by unfold Sound; decide +kernel, found_is _ _ _ (by decide +kernel), by decide +kernel, by unfold Sound; decide +kernel, by unfold Sound; decide +kernel,
    by unfold Sound; decide +kernel, by unfold Sound; decide +kernel, by unfold Sound; decide +kernel, by unfold Sound; decide +kernel,
    by unfold Sound; decide +kernel, by decide +kernel, ?_,
    by unfold Sound; decide +kernel⟩
  · simp only [State.unusable, unfused]
    decide +kernel
  · simp only [State.pickWindow, State.usable, State.cellFree, State.unusable, unfused]
    exact ⟨{ num := 1, cells := pageCells }, by decide +kernel⟩
/-! ### Witnesses: the host and the network -/

/-- The machine after its start sequence, with a window's registers and a message on its way. -/
def stHost (w : Window) (tr : List Transit) : State :=
  { State.reset with sys := { State.reset.sys with started := true }, host := { State.reset.host with wins := [(5, w)] }, transit := tr }

/-- CTL with EN, target engine 0x2000 and ASID 9. -/
def ctlGood : BitVec 46 := BitVec.ofNat 46 (2 ^ 32 + 9 * 2 ^ 16 + 0x2000)

theorem witness_HostWindows :
    (let s := stHost { ctl := ctlGood, valid := BitVec.ofNat 64 (2 ^ 63 - 1) } []; let w := s.window 5;
      0 + [1, 2].length ≤ 64 ∧ 63 + [1].length ≤ 64 ∧ ¬(∀ i, i < 64 → (w.valid.getLsbD i || decide (0 ≤ i ∧ i < 0 + 2)) = true) ∧
      (∀ i, i < 64 → (w.valid.getLsbD i || decide (63 ≤ i ∧ i < 63 + 1)) = true) ∧ w.ctl.getLsbD 32 = true ∧
      (w.ctl.extractLsb' 12 4).toNat < 7 ∧ w.queue.length + (s.transit.filter (fun u => u.src == windowBox 5)).length < 64 ∧ s.sys.started = true) ∧
    (let w := (stHost { valid := BitVec.allOnes 64 } []).window 5; w.ctl.getLsbD 32 = false) ∧
    (let w : Window := { ctl := BitVec.ofNat 46 (2 ^ 32 + 0x7000) }; 7 ≤ (w.ctl.extractLsb' 12 4).toNat) ∧
    (let w : Window := { queue := List.replicate 64 (1, ctlGood) }; 64 ≤ w.queue.length) ∧
    (let s := stHost { queue := [(1, ctlGood)] } []; (s.window 5).queue = [(1, ctlGood)] ∧ s.windowTransit 5 = none) ∧
    (let u : Transit := { src := windowBox 5, box := 0x2000, m := 1 }; let s := stHost {} [u]; let b := s.boxes.getD u.box {};
      s.windowTransit 5 = some 0 ∧ s.transit[0]? = some u ∧ boxOk u.box = true ∧ fld u.box 15 12 = 2 ∧ b.out = false ∧ s.sys.dies.getD (fld u.box 11 10) true = true ∧
      refusal 2 u.m = none ∧ (b.qs.getD (u.m.extractLsb' 16 2).toNat []).length < 64) ∧
    (let u : Transit := { src := windowBox 5, priv := true, box := 0x3000, m := BitVec.ofNat 512 0x7F }; let s := stHost {} [u];
      s.windowTransit 5 = some 0 ∧ s.transit[0]? = some u ∧ fld u.box 15 12 = 3 ∧ u.m.extractLsb' 0 8 = 0x7F) ∧
    (let u : Transit := { src := windowBox 5, priv := true, box := 0x3000, m := sopenCmd.m }; let s := stHost {} [u];
      s.windowTransit 5 = some 0 ∧ s.transit[0]? = some u ∧ fld u.box 15 12 = 3 ∧ boxOk u.box = true ∧ (s.sched 0).out = false ∧ s.sys.dies.getD 0 true = true ∧
      (s.sched 0).queue.length < 64 ∧ (refusal 3 u.m).isNone = true ∧ s.schedWaits 0 u = false) ∧
    (let u : Transit := { src := windowBox 5, box := 0x2000, m := 1 };
      (stHost {} [u]).windowTransit 5 = some 0 ∧ ((stHost {} [u]).deliver u).isSome = true ∧ (fld u.box 15 12 ≠ 3 ∨ u.m.extractLsb' 0 8 ≠ 0x7F) ∧
      let s : State := { stHost {} [u] with boxes := [(0x2000, { qs := [(0, List.replicate 64 {})] })] };
      s.windowTransit 5 = some 0 ∧ s.transit[0]? = some u ∧ (s.deliver u).isNone = true) := by
  and_intros <;> decide +kernel

/-- A message for window 5. -/
def toWin : Transit := { src := 3, box := 0x7005, m := BitVec.ofNat 512 (7 + 4 * 2 ^ 24) }

/-- An atomic on host memory for s3 of context 0, and a load part of 8 bytes. -/
def hostProd : Prod := { id := 8, dst := .s 3, kind := .hostAtomic (hostKey 0x40) 8 0 0x40 }
def hostPiece : Piece := { home := hostKey 0x40, len := 8, fwd := List.replicate 8 none }
def hostLoad : Prod := { id := 8, dst := .s 3, kind := .load 3 false [hostPiece] [] }
def stHostReq (p : Prod) (r : HostReq) : State :=
  { (live (fun c => { c with prods := [p] })).putNum (hostKey 0x40) 8 5 with host := { State.reset.host with reqs := [r] } }

theorem witness_HostAccesses :
    (let s := stHost {} [toWin];
      Sound s ∧ s.transit[0]? = some toWin ∧ fld toWin.box 15 12 = 7 ∧ s.transit.take 0 = [] ∧ fld toWin.box 11 0 = 5 ∧ (s.window 5).rsize.toNat = 0 ∧
      fld toWin.m.toNat 39 24 ≠ 0xFFFF ∧ toWin.m.extractLsb' 0 8 ≠ 0x7F ∧ toWin.box < 2 ^ 16) ∧
    (let w := (stHost { rsize := 64, rtail := 64, rhead := 0 } [toWin]).window 5;
      w.rsize.toNat ≠ 0 ∧ w.rsize.toNat < (w.rtail - w.rhead).toNat + 64) ∧
    (∀ on open' : Bool, let s := stHost { rsize := 128, rtail := 64, rhead := 64, rbase := 0x1000, ctl := BitVec.ofNat 46 (b2n on * 2 ^ 45 + 3 * 2 ^ 34) } [toWin];
      let h : HostLink := { s.host with unmasked := if open' then [3] else [] }; let w := s.window 5;
      Sound { s with host := h } ∧ w.rsize.toNat ≠ 0 ∧ (w.rtail - w.rhead).toNat + 64 ≤ w.rsize.toNat ∧ w.ctl.getLsbD 45 = on ∧
      (w.ctl.extractLsb' 34 11).toNat = 3 ∧ (3 ∈ h.unmasked ↔ open' = true)) ∧
    (let s := stHost {} [];
      0 < 2 ∧ 0x10 + 2 ≤ 2 ^ s.host.barLg ∧ s.host.hboff.toNat + 0x10 + 2 ≤ 0x9000000000 ∧ (∀ i, i < 2 → s.paOk (s.host.hboff.toNat + 0x10 + i) = true)) ∧
    (let s := stHost {} []; let far : HostLink := { s.host with hboff := 0x9000000000 }; 0x9000000000 ≤ far.hboff.toNat + 0x10 + 0) ∧
    (let s := stHostReq hostLoad (.load {} 8);
      Sound s ∧ s.host.reqs[0]? = some (.load {} 8) ∧ (s.ctx {}).prods = [hostLoad] ∧ hostLoad.kind = .load 3 false [hostPiece] [] ∧ hostLoad.dst = .s 3 ∧
      isHostKey hostPiece.home = true ∧ hostPiece.early.isNone = true ∧ hostPiece.l1 = false ∧ hostPiece.off = 0 ∧ hostPiece.len = tyBits 3 / 8 ∧
      hostPiece.fwd = List.replicate hostPiece.len none) ∧
    (let s := stHostReq hostProd (.atomic {} 8 0 3 (hostKey 0x40) 7 0);
      Sound s ∧ hostProd.kind = .hostAtomic (hostKey 0x40) (tyBits 3 / 8) 0 0x40 ∧ s.host.reqs[0]? = some (.atomic {} 8 0 3 (hostKey 0x40) 7 0) ∧
      (s.ctx {}).prods = [hostProd] ∧ (atomicNew 0 3 (memNum s.mem (hostKey 0x40) (tyBits 3 / 8)) 7 0).isSome = true) ∧
    ((atomicNew 7 3 5 7 0).isNone = true) ∧
    ((64 : BitVec 64).toNat % 64 = 0 ∧ (64 : BitVec 64).toNat ≤ 2 ^ 24 ∧ (stHost {} []).sys.started = true ∧ Sound (stHost {} [])) ∧
    ((stHost {} []).host.barLg ≤ 40 ∧ 30 ≤ (40 : BitVec 64).toNat ∧ (40 : BitVec 64).toNat ≤ 40) ∧
    (∀ b : Bool, (BitVec.ofNat 64 (b2n b)).getLsbD 0 = b) ∧
    (let h : HostLink := { pend := [3] }; 3 ∈ h.pend ∧ 3 ∉ h.unmasked) ∧ (0xFFF030 % 8 = 0 ∧ 0xFFF030 + 8 ≤ 2 ^ 24) := by
  unfold Sound; and_intros <;> decide +kernel

/-- The peer table stands at 0x8000 of die 0, with a valid entry 1; the transport engine holds a command in queue 0. -/
def peerNum : Nat := 0x77 + 5 * 2 ^ 128 + 2 ^ 152 + 3 * 2 ^ 160
def stNet (c : Cmd) : State :=
  { ((((State.reset.putNum (dieKey 0 0xFFF000) 8 (dieAddr 0x8000)).putNum (dieKey 0 0xFFF008) 2 4).putNum (dieKey 0 0x8020) 32 peerNum).putNum
      (dieKey 0 0x100) 8 0x0807060504030201) with
    eng := (0x6000, 0), boxes := [(0x6000, { qs := [(0, [c])], seq := 1 })] }

/-- A peer command: LOCAL 0x100, LEN 100, peer 1; a collective of that array into 0x400. -/
def peerCmd (opc : Nat) : Cmd :=
  { m := BitVec.ofNat 512 (opc + dieAddr 0x100 * 2 ^ 256 + 100 * 2 ^ 320 + 2 ^ 352), started := true, checked := true }
def collCmd : Cmd :=
  { m := BitVec.ofNat 512 (0x43 + dieAddr 0x100 * 2 ^ 256 + 8 * 2 ^ 320 + 2 * 2 ^ 364 + dieAddr 0x400 * 2 ^ 384), started := true, checked := true, aux := 2,
    held := [0, 0, 128, 63, 0, 0, 0, 64] }

/-- A tree of R375 exists whatever the ranks' values and the operation. -/
theorem witness_TransportCommands_tree (v : Nat → Nat) (op : Nat → Nat → Nat) : ∃ tree : Nat → Nat → Nat, (∀ lo, tree lo 1 = v lo) ∧
    ∀ lo n i, 2 ^ i < n → n ≤ 2 ^ (i + 1) → tree lo n = op (tree lo (2 ^ i)) (tree (lo + 2 ^ i) (n - 2 ^ i)) := by
  let f : Nat → Nat → Nat → Nat := Nat.rec (fun lo _ => v lo) fun _ r lo n =>
    if n ≤ 1 then v lo else op (r lo (2 ^ Nat.log2 (n - 1))) (r (lo + 2 ^ Nat.log2 (n - 1)) (n - 2 ^ Nat.log2 (n - 1)))
  have hs : ∀ k lo n, f (k + 1) lo n = if n ≤ 1 then v lo else
      op (f k lo (2 ^ Nat.log2 (n - 1))) (f k (lo + 2 ^ Nat.log2 (n - 1)) (n - 2 ^ Nat.log2 (n - 1))) := fun _ _ _ => rfl
  have hf : ∀ a b lo n, n ≤ a + 1 → n ≤ b + 1 → f a lo n = f b lo n := by
    intro a
    induction a with
    | zero =>
      intro b lo n ha _
      cases b with
      | zero => rfl
      | succ b => rw [hs, if_pos (by omega)]; rfl
    | succ a ih =>
      intro b lo n ha hb
      rw [hs]
      cases b with
      | zero => rw [if_pos (by omega)]; rfl
      | succ b =>
        rw [hs]
        split
        · rfl
        · have hn : n - 1 ≠ 0 := by omega
          have h1 := Nat.log2_self_le hn
          have h2 : 0 < 2 ^ Nat.log2 (n - 1) := Nat.pos_of_ne_zero (by simp)
          rw [ih b _ _ (by omega) (by omega), ih b _ _ (by omega) (by omega)]
  refine ⟨fun lo n => f n lo n, fun lo => by simp [hs], fun lo n i h1 h2 => ?_⟩
  obtain ⟨m, rfl⟩ : ∃ m, n = m + 1 := ⟨n - 1, by omega⟩
  have hp : 0 < 2 ^ i := Nat.pos_of_ne_zero (by simp)
  have hl : Nat.log2 m = i := (Nat.log2_eq_iff (by omega)).2 ⟨by omega, by omega⟩
  show f (m + 1) lo (m + 1) = op (f (2 ^ i) lo (2 ^ i)) (f (m + 1 - 2 ^ i) (lo + 2 ^ i) (m + 1 - 2 ^ i))
  rw [hs, if_neg (by omega), Nat.add_sub_cancel, hl, hf m (2 ^ i) _ _ (by omega) (by omega), hf m (m + 1 - 2 ^ i) _ _ (by omega) (by omega)]

theorem witness_TransportCommands :
    (∀ c ∈ [peerCmd 0x40, peerCmd 0x41, peerCmd 0x42, collCmd, { peerCmd 0x40 with checked := false }],
      let s := stNet c;
      Sound s ∧ s.eng.1 = 0x6000 ∧ s.cmd? 0x6000 s.eng.2 = some c ∧ c.started = true ∧ c.phase = 0 ∧ c.bar = false ∧
      s.faulting (.engine 0x6000 c.seq) = false ∧ s.netDown = false) ∧
    (let c : Cmd := { peerCmd 0x40 with checked := false }; let s := stNet c; let e := memNum s.mem (dieKey 0 (0x8000 + 32 * c.netPeer)) 32;
      c.headerWordsBad = false ∧ addrWord (memNum s.mem (dieKey 0 0xFFF000) 8) = some (.die 0 0x8000) ∧ 0x8000 % 64 = 0 ∧ 0x8000 + 2 ^ 17 ≤ 2 ^ 24 ∧
      bit e 152 = true ∧ fld e 159 153 = 0 ∧ fld e 255 176 = 0 ∧ bit (memNum s.mem (dieKey 0 0x8040) 32) 152 = false) ∧
    (let c := peerCmd 0x40; addrWord c.netLocal = some (.die 0 0x100) ∧ 0x100 + c.netLen ≤ 2 ^ 24 ∧ c.held.length < c.netLen ∧ c.opc = 0x40) ∧
    (let c : Cmd := { peerCmd 0x41 with cur := some (0, 0, 0), held := [1, 2], off := 60 };
      c.opc = 0x41 ∧ c.cur = some (0, 0, 0) ∧ 4096 * 0 + c.off + c.held.length ≤ c.netLen ∧ c.held ≠ []) ∧
    (let c : Cmd := { m := BitVec.ofNat 512 (0x41 + dieAddr 0x100 * 2 ^ 256 + 5000 * 2 ^ 320), cur := some (0, 0, 0) };
      c.held = [] ∧ c.blk + 1 < (c.netLen + 4095) / 4096) ∧
    (let c : Cmd := { peerCmd 0x40 with held := List.replicate 100 1 };
      0 < (c.netLen + 4095) / 4096 ∧ bit c.pb 0 = false ∧ min (4096 * (0 + 1)) c.netLen ≤ c.held.length ∧ c.m.getLsbD 364 = false ∧
      c.blk + 1 = (c.netLen + 4095) / 4096 ∧ c.cur = none) ∧
    (let c : Cmd := { m := BitVec.ofNat 512 (0x40 + dieAddr 0x100 * 2 ^ 256 + 5000 * 2 ^ 320), held := List.replicate 4096 1 };
      c.blk + 1 < (c.netLen + 4095) / 4096 ∧ min (4096 * (0 + 1)) c.netLen ≤ c.held.length) ∧
    (let c : Cmd := { peerCmd 0x41 with cur := some (0, 0, 100), off := 100 };
      c.held = [] ∧ c.blk + 1 = (c.netLen + 4095) / 4096 ∧ 4096 * 0 + c.off + c.held.length ≤ c.netLen) ∧
    (let c : Cmd := { m := BitVec.ofNat 512 (0x42 + dieAddr 0x100 * 2 ^ 256 + 5000 * 2 ^ 320 + 2 ^ 474) };
      c.m.getLsbD 474 = true ∧ c.status = 0 ∧ c.blk = 0 ∧ c.blk + 1 < (c.netLen + 4095) / 4096 ∧ c.opc = 0x42 ∧ (peerCmd 0x40).m.getLsbD 474 = false) ∧
    (let c : Cmd := { m := BitVec.ofNat 512 (0x40 + dieAddr 0x100 * 2 ^ 256 + 5000 * 2 ^ 320 + 2 ^ 364) }; c.m.getLsbD 364 = true ∧ 1 ≠ c.blk) ∧
    (let c : Cmd := { collCmd with aux := 1 }; c.fresh = true ∧ c.aux = 1 ∧ c.netLen ≤ c.held.length ∧ collCmd.aux ≠ 1) ∧
    (let c := peerCmd 0x41; (List.replicate 100 (7 : Byte)).length = min 4096 (c.netLen - 4096 * 0) ∧ c.opc ≠ 8 ∧ c.bytes ≤ c.netLen) ∧
    (let c := collCmd; let srcs : List (List Byte) := [c.held, [0, 0, 128, 63, 0, 0, 128, 63]];
      c.opc = 0x43 ∧ c.fresh = true ∧ c.held.length = c.netLen ∧ c.aux = srcs.length ∧ 1 < c.aux ∧ c.run < c.aux ∧ (∀ b ∈ srcs, b.length = c.netLen) ∧
      srcs.getD c.run [] = c.held ∧ reduceSize c.netRty = some 4 ∧ c.netLen % 4 = 0 ∧ c.aux ≤ 4096 ∧ 4 * 1 < c.netLen) ∧
    (let c : Cmd := { collCmd with fresh := false };
      addrWord c.netDst = some (.die 0 0x400) ∧ 0x400 + c.bytes + c.held.length ≤ 2 ^ 24 ∧ c.held ≠ [] ∧ { c with held := [] }.held = []) := by
  unfold Sound; and_intros <;> decide +kernel

/-- A packet of the known peer, of 4 bytes to virtual address 0 of ASID 3, or of a record for the ring of die 0 at 0x9000; the tables of ASID 3 name no
leaf, or one whose A is set, the ring is empty, full or bad; a barrier object stands at 0xA000. -/
def packet (fa : Nat) : Packet := { fa := BitVec.ofNat 128 fa, job := 5, len := 4, data := [1, 2, 3, 4] }
def postPacket (off len : Nat) : Packet :=
  { packet 0x77 with kind := .post, addr := 0x9000, msg := 1, off := off, len := len, data := List.replicate (min 4096 (len - off)) 1 }
def stRing (head : Nat) (s : State) : State :=
  ((((s.putNum (dieKey 0 0x9000) 4 0xB000).putNum (dieKey 0 0x9004) 4 0x2000).putNum (dieKey 0 0x900C) 4 head).putNum (dieKey 0 0xA000) 4 9).putNum
    (dieKey 0 0xA008) 4 2
def stPacket : State :=
  stRing 0 (((((stNet {}).putNum (dieKey 0 tcb) 8 0x80000).putNum 0x80018 8 0x102001).putNum 0x102000 8 0x103001).putNum 0x103000 8 0x40000017)

/-- An address is granted where its translation is this, with no change of the state. -/
theorem granted_is (s : State) (a : Nat) (r : State × Except (Nat × Nat) Nat)
    (h : (match r with
      | (t, .ok b) => decide (t = s ∧ b = a)
      | _ => false) = true) : r = (s, .ok a) := by
  obtain ⟨t, x⟩ := r
  cases x <;> simp_all

/-- A record that has one packet still to come. -/
def openPost : Post := { fa := 0x77, job := 5, msg := 1, die := 0, off := 0x9000, start := 0, got := [0] }

/-- Nothing in the lower part of a die's scratch is the device's alone. -/
theorem ownBits_low {off : Nat} (h : off < 0xFE0000) : ownBits (dieKey 0 off) = 0 := by
  have hd : (homeTag 2 + 0 * 2 ^ 24 + off - homeTag 2) % 2 ^ 24 = off := by omega
  unfold ownBits dieKey
  split
  · unfold deviceBits tcb
    rw [hd, if_neg (by omega), if_neg (by omega), if_neg (by omega), if_neg (by omega)]
  · rfl

/-- The ring's bytes are none that only the device writes. -/
theorem witness_PacketsAndCongestion_bytes (j : Nat) :
    let s := stPacket; let k := dieKey 0 0x9000;
    ownBits (dieKey 0 (memNum s.mem k 4 + (memNum s.mem (k + 8) 4 + j) % memNum s.mem (k + 4) 4)) = 0 := by
  have hb : memNum stPacket.mem (dieKey 0 0x9000) 4 = 0xB000 := by decide +kernel
  have hz : memNum stPacket.mem (dieKey 0 0x9000 + 4) 4 = 0x2000 := by decide +kernel
  exact ownBits_low (by rw [hb, hz]; omega)

theorem witness_PacketsAndCongestion :
    (let s := stNet {}; let n := memNum s.mem (dieKey 0 0xFFF008) 2; let e (i : Nat) : Nat := memNum s.mem (dieKey 0 (0x8000 + 32 * i)) 32;
      Sound s ∧ s.netDown = false ∧ (let z := State.reset.putNum (dieKey 0 0xFFF000) 8 (2 ^ 64 - 1); tableOk (memNum z.mem (dieKey 0 0xFFF000) 8) = false ∧ z.netDown = false) ∧
      addrWord (memNum s.mem (dieKey 0 0xFFF000) 8) = some (.die 0 0x8000) ∧ 0x8000 % 64 = 0 ∧ 0x8000 + 32 * n ≤ 2 ^ 24 ∧ 1 < n ∧
      bit (e 0) 152 = false ∧ (bit (e 1) 152 = true ∧ fld (e 1) 159 153 = 0 ∧ fld (e 1) 255 176 = 0 ∧ fld (e 1) 127 0 = (packet 0x77).fa.toNat ∧
        fld (e 1) 151 128 = (packet 0x77).job.toNat) ∧ (∀ i, i < n → fld (e i) 127 0 ≠ (packet 0x78).fa.toNat) ∧ fld (e 1) 175 160 = 3) ∧
    (∀ p ∈ [packet 0x77, packet 0x78, { packet 0x77 with addr := BitVec.ofNat 49 (2 ^ 49 - 2) }, { packet 0x77 with addr := 62 },
        { packet 0x77 with kind := .get, len := 4, data := [] }, { packet 0x77 with bar := some (0, 0xA000) }, postPacket 0 100, postPacket 0 4196,
        postPacket 4096 4196],
      packetOk p = true) ∧
    (2 ^ 49 < (BitVec.ofNat 49 (2 ^ 49 - 2)).toNat + 4 ∧ (parts 62 4).length = 2 ∧ (parts 0 4).length = 1) ∧
    (Sound stPacket ∧ stPacket.netDown = false ∧ stPacket.translate netParty 3 0 true false = (stPacket, .ok 0x40000000) ∧
      stPacket.translate netParty 3 0 false false = (stPacket, .ok 0x40000000) ∧ stPacket.translate netParty 3 62 true false = (stPacket, .ok 0x4000003E) ∧
      stPacket.translate netParty 3 64 true false = (stPacket, .ok 0x40000040)) ∧
    ((∀ a ∈ [0x40000000, 0x4000003E, 0x40000040], isHostKey (paKey a) = false) ∧ paKey 0x40000000 + 4 ≤ homeTag 1) ∧
    ((match (stNet {}).translate netParty 3 0 true false with
      | (t, .error x) => decide (t = stNet {} ∧ x = (4, 0))
      | _ => false) = true) ∧
    (let s := stPacket; let o := dieKey 0 0xA000;
      0xA000 + 32 ≤ 2 ^ 24 ∧ (∀ j, j < 32 → ownBits (o + j) = 0) ∧ 0xA000 + 32 ≤ 0xFFF000 ∧ memNum s.mem (o + 4) 4 ≠ memNum s.mem o 4 ∧ memNum s.mem (o + 8) 4 < 4) ∧
    (let s := stPacket; let k := dieKey 0 0x9000; let base := memNum s.mem k 4; let size := memNum s.mem (k + 4) 4;
      s.net.posts = [] ∧ s.ringOk 0 0x9000 = true ∧ (∀ j, j < 4 → ownBits (k + 8 + j) = 0) ∧ (0x9000 + 32 ≤ base ∨ base + size ≤ 0x9000) ∧
      (memNum s.mem (k + 8) 4 + 2 ^ 32 - memNum s.mem (k + 12) 4) % 2 ^ 32 + (8 + 4196 + 63) / 64 * 64 ≤ size ∧ (postPacket 0 100).len ≤ 4096 ∧
      4096 < (postPacket 0 4196).len) ∧
    (let s := stRing 0x200 (stNet {}); let k := dieKey 0 0x9000;
      memNum s.mem (k + 4) 4 < (memNum s.mem (k + 8) 4 + 2 ^ 32 - memNum s.mem (k + 12) 4) % 2 ^ 32 + (8 + 100 + 63) / 64 * 64) ∧
    (stNet {}).ringOk 0 0x9000 = false ∧
    (let p := postPacket 4096 4196; let r := openPost; r.fa = p.fa ∧ r.job = p.job ∧ r.msg = p.msg ∧ r.die = p.ringDie ∧ r.off = p.addr.toNat % 2 ^ 24 ∧
      p.off ∉ r.got ∧ r.got.length + 1 = (p.len + 4095) / 4096 ∧ (postPacket 0 4196).off ∈ r.got ∧
      ({ stPacket with net := { stPacket.net with posts := [r] } } : State).net.posts = [r]) ∧
    (let s := { stNet {} with net := { State.reset.net with wrote := [(1, 100)] }, clk := 1000 };
      let off := memNum s.mem (dieKey 0 0xFFF030) 4 + 16 * 1;
      (∀ d, d < 4 → ∀ j, j < 16 → ownBits (dieKey d off + j) = 0) ∧ 1 < memNum s.mem (dieKey 0 0xFFF008) 2 ∧ off % 16 = 0 ∧ off + 16 ≤ 2 ^ 24 ∧ s.net.wrote.get? 1 = some 100 ∧ s.clk.toNat < 100 + 1024 ∧
      s.net.wrote.get? 2 = none) := by
  refine ⟨by unfold Sound; decide +kernel, by decide +kernel, by decide +kernel, ⟨by unfold Sound; decide +kernel, by decide +kernel, ?_, ?_, ?_, ?_⟩,
    by decide +kernel, by decide +kernel, by decide +kernel, by decide +kernel, by decide +kernel, by decide +kernel, by decide +kernel, by decide +kernel⟩
  all_goals exact granted_is _ _ _ (by decide +kernel)
/-! ### Witnesses: start-up, service and update -/

/-- A record with a START, all parts in service, and the entry of step 12 (stack 0): RATE 1 passed. -/
def oldRecord (start : Nat) : List Byte :=
  sealRecord (toBytes 8 start ++ List.replicate 44 0 ++ toBytes 4 (1 + 4 * 1) ++ List.replicate 80 0 ++ serviceBytes State.reset.sys State.reset.cell)

def stBooted : State :=
  { State.reset.putNum (hostKey 0x40) 1 7 with sys := { State.reset.sys with rec1 := oldRecord 6 } }

/-- That record is the one in force. -/
theorem stBooted_inForce : stBooted.sys.inForce = some (true, oldRecord 6) := by
  have h : recordOk stBooted.sys.rec1 = true := by
    refine (sealRecord_ok ?_).1
    decide +kernel
  have h0 : recordOk stBooted.sys.rec0 = false := by decide +kernel
  rw [Service.inForce, h, h0]
  rfl

theorem witness_StartAndStop :
    (Sound stBooted ∧ (let s := stBooted; let old := (s.sys.inForce.map (fun r => r.2)).getD [];
      recordStart old + 1 < 2 ^ 64 ∧
      (bit (ofBytes ((old.drop 138).take 2)) 0 = true ∧ ofBytes ((old.drop (140 + 0)).take 1) ≤ 2) ∧ recordStep old 12 % 4 = 1 ∧
      recordStep old 12 / 4 % 4 = 1 ∧ (12, 2) ∉ [(12, 1)] ∧ (∀ p', 1 ≤ p' → p' < 2 → (12, p') ∈ [(12, 1)]))) ∧
    State.reset.sys.inForce = none ∧
    (after (execModuleReset [] [] State.reset)).sys.broken = none ∧
    (∀ n, 1 ≤ n → n ≤ 32 → ¬((n ≤ 7 ∨ n = 28 ∨ 30 ≤ n) ∧ ∀ p, 0 ≤ p → p ≤ (if n = 5 ∨ n = 6 then 1 else if n = 28 then 2 else 0) →
      (n, p) ∈ ([] : List (Nat × Nat)))) ∧
    ((∀ p, 0 ≤ p → p ≤ 0 → (1, p) ∈ [(1, 0)]) ∧ ∀ m : Nat, 1 ≤ m → ¬m < 1) ∧
    (after (execModuleReset [(1, 0)] [] State.reset)).sys.broken = some 1 ∧
    (let s := { State.reset with sys := { State.reset.sys with stopped := true }, agenda := [.issue {}] };
      Stopped s ∧ isReset s.takeMove.1 = false) := by
  unfold Sound Stopped
  refine ⟨?_, by decide +kernel, by decide +kernel, ?_, ⟨fun p _ h => by simp [Nat.le_zero.1 h], by omega⟩, by decide +kernel, by decide +kernel⟩
  rotate_left
  · exact fun n _ _ h => absurd (h.2 0 (Nat.le_refl _) (Nat.zero_le _)) (by simp)
  simp only [stBooted_inForce, Option.map_some, Option.getD_some]
  and_intros <;> decide +kernel

/-- Control core 0 of die 0 runs a command whose array words name die scratch. -/
def stCore (c : Cmd) : State :=
  { State.reset with eng := (0x1000, 0), boxes := [(0x1000, { qs := [(0, [c])], seq := 1 })] }
def cmdM (n : Nat) : Cmd := { m := BitVec.ofNat 512 n, started := true, priv := true }

/-- Cell 7 is held as a spare when cell 5 of its die is retired. -/
theorem witness_ManagementCommands_spare (whole : fusedOff (cellKey 0 7) = false) :
    let c := cmdM (0x60 + 5 * 2 ^ 256); let s := (stCore c).modCell (cellKey 0 7) (fun k => { k with spare := true });
    s.pages = [] ∧ (s.cell (cellKey 0 5)).retired = false ∧ 7 < 144 ∧ 7 ≠ c.op 256 8 ∧ (s.cell (cellKey 0 7)).spare = true ∧
      (s.cell (cellKey 0 7)).retired = false ∧ fusedOff (cellKey 0 7) = false :=
  ⟨by decide +kernel, by decide +kernel, by decide +kernel, by decide +kernel, by decide +kernel, by decide +kernel, whole⟩

theorem witness_ManagementCommands (small : 0x100 + Config.firmwareSize ≤ 2 ^ 24) (image : 0 < Config.firmwareSize) :
    (∀ c ∈ [cmdM (0x60 + 5 * 2 ^ 256), { cmdM (0x60 + 5 * 2 ^ 256) with checked := true }, cmdM (0x60 + 5 * 2 ^ 256 + 7 * 2 ^ 266 + 2 ^ 271),
        cmdM (0x61 + 2 ^ 258), { cmdM (0x61 + 2 ^ 258) with checked := true }, cmdM (0x62 + 3 * 2 ^ 256 + 9 * 2 ^ 260)],
      let s := stCore c;
      Sound s ∧ s.eng.1 = coreBox 0 0 ∧ s.cmd? (coreBox 0 0) s.eng.2 = some c ∧ c.started = true ∧ c.phase = 0 ∧ c.bar = false ∧ c.cw = false ∧
      s.faulting (.engine (coreBox 0 0) c.seq) = false ∧ s.pages = []) ∧
    (let c := cmdM (0x60 + 5 * 2 ^ 256); c.opc = 0x60 ∧ c.checked = false ∧ c.m.getLsbD 271 = false ∧ c.op 256 8 < 144 ∧ (∀ x, x < 144 → ((stCore c).cell (cellKey 0 x)).spare = false) ∧
      ((stCore c).cell (cellKey (c.op 264 2) (c.op 256 8))).retired = false) ∧
    (let c := cmdM (0x60 + 5 * 2 ^ 256 + 7 * 2 ^ 266 + 2 ^ 271); c.m.getLsbD 271 = true ∧ c.op 266 5 < 24 ∧
      bit ((stCore c).cell (cellKey (c.op 264 2) (c.op 256 8))).tilesOut (c.op 266 5) = false) ∧
    (let c := { cmdM (0x60 + 5 * 2 ^ 256) with checked := true };
      (((stCore c).modCell (cellKey 0 5) (fun k => { k with retired := true })).cell (cellKey (c.op 264 2) (c.op 256 8))).retired = true) ∧
    (let c := cmdM (0x61 + 2 ^ 258); let s := stCore c;
      c.opc = 0x61 ∧ c.op 256 2 = 0 ∧ (1 < 4 ∧ 1 ≠ c.op 256 2 ∧ s.sys.dies.getD 1 true = true ∧ (s.sched 1).out = false) ∧
      (∀ e, e < 4 → e ≠ 0 → ({ s.sys with dies := [true, false, false, false] } : Service).dies.getD e true = false)) ∧
    (let c := { cmdM (0x61 + 2 ^ 258) with checked := true }; let s := stCore c;
      s.dieIdle 0 (coreBox 0 0) c.seq = true ∧ s.sys.update = none ∧ 0 < s.sys.dies.length ∧ s.sys.hbms.length = 12 ∧ c.m.getLsbD 258 = true) ∧
    ((cmdM (0x62 + 3 * 2 ^ 256 + 9 * 2 ^ 260)).opc = 0x62) ∧
    (let c := cmdM (0x63 + dieAddr 0x100 * 2 ^ 256);
      c.opc = 0x63 ∧ c.checked = false ∧ addrWord (c.op 256 64) = some (.die 0 0x100)) ∧
    (0x100 + Config.firmwareSize ≤ 2 ^ 24 ∧ ([] : List Byte).length < Config.firmwareSize ∧
      Config.firmwareSize ≤ (List.replicate Config.firmwareSize (0 : Byte)).length) ∧
    (let c := { cmdM (0x63 + dieAddr 0x100 * 2 ^ 256) with checked := true };
      let s := { stCore c with sys := { State.reset.sys with update := some (coreBox 0 0), restart := [5, 6] } };
      s.sys.restart = [5, 6] ∧ 5 = 4 * 1 + 1 ∧ s.boxes.get? (coreBox 1 1) = none ∧ (s.boxes.getD (coreBox 0 0) {}).qs = [(0, [c])] ∧
      s.sys.dies.getD (6 / 4) true = true) ∧
    (let c := cmdM (0x64 + dieAddr 0x100 * 2 ^ 256 + dieAddr 0x200 * 2 ^ 320);
      c.opc = 0x64 ∧ addrWord (c.op 256 64) = some (.die 0 0x100) ∧ addrWord (c.op 320 64) = some (.die 0 0x200) ∧
      { c with held := List.replicate 32 1 }.held.length = 32 ∧ { c with held := [1] }.held ≠ [] ∧ 0x200 + c.off + [(1 : Byte)].length ≤ 2 ^ 24) ∧
    (State.reset.sys.dies.length = 4 ∧ State.reset.sys.hbms.length = 12 ∧ stBooted.sys.inForce = some (true, oldRecord 6)) ∧
    (let c := cmdM (0x65 + dieAddr 0x100 * 2 ^ 256); c.opc = 0x65 ∧ addrWord (c.op 256 64) = some (.die 0 0x100) ∧ 0x100 + 2032 ≤ 2 ^ 24 ∧ c.held.length < 2032) ∧
    (let c := { cmdM (0x65 + dieAddr 0x100 * 2 ^ 256) with held := List.replicate 2032 1 }; c.opc = 0x65 ∧ c.held.length = 2032) := by
  refine ⟨by unfold Sound; decide +kernel, by decide +kernel, by decide +kernel, by decide +kernel, by decide +kernel, by decide +kernel, by decide +kernel,
    by decide +kernel, ⟨small, image, by simp⟩, by decide +kernel, by decide +kernel, ⟨by decide +kernel, by decide +kernel, stBooted_inForce⟩, by decide +kernel,
    by decide +kernel⟩
/-! ### Witnesses: every instruction -/

theorem witness_WordFrames : (let w : Fields := { ty := 3, g1 := { pred := 3 }, d := rs 1, a := rs 2, b := im 1 };
    fieldsOf (.add w) = some w ∧ (st0.ctx st0.cur).arch.guards w = false) := by decide +kernel

/-- The word ENDA at place 9 of the block, which is the last. -/
def stIssue (pc : Nat) (w : BitVec 128) : State :=
  { (st0.modCell 0 (fun k => { ((k.setWord 0 (2 * pc) (w.extractLsb' 0 64)).setWord 0 (2 * pc + 1) (w.extractLsb' 64 64)) with grant := some 0, st := 2 })).modCtx {}
      (fun c => { c with arch := { c.arch with pos := .word pc 0 9 } }) with agenda := [.issue {}] }

/-- The same with the bit GRP, and VADD after it; and a CFGRD in a context that a freeze wave has reached. -/
def stPair : State := (stIssue 3 (0x0000000000000000E02002800C00C840 ||| BitVec.ofNat 128 (2 ^ 85))).modCell 0 (fun k =>
  (k.setWord 0 8 0x20808182040000C0).setWord 0 9 0x0000108900000000)
def wCfgrd : Instr := .cfgrd { ty := 15, d := rs 4, a := rs 1 }
def stWaved : State :=
  { ((stIssue 3 ((encodeWord wCfgrd).getD 0)).modCell 0 (fun k => { k with page := some (1, 0) })).modCtx {} (fun c => { c with info := { c.info with sys := true } }) with
    pages := [{ key := 1, freeze := .wave }] }

theorem witness_StepRunsTheDecodedInstruction_pair :
    (let i : Instr := .add { ty := 2, g1 := { pred := 3 }, d := rs 6, a := rs 5, b := im 1, grp := true };
      let j : Instr := .vadd { ty := 0, d := rv 2, a := rv 3, b := rv 4, imm := 0x1089 };
      let s := stPair; let v : State := { s.takeMove.2 with cur := {} }; let t := after (exec i v);
      s.takeMove.1 = .issue {} ∧ v.passed t {} = true ∧ v.waved (CtxId.ck {}) = false ∧ v.wordAt {} = some i ∧ t.wordAt {} = some j ∧ pairs i j = true ∧
      (after (step s)).takeMove.1 = .second {} ∧ (after (step (after (step s)))).clk = s.clk) ∧
    (let s := stWaved; let v : State := { s.takeMove.2 with cur := {} }; let t := after (exec wCfgrd v);
      v.wordAt {} = some wCfgrd ∧ v.passed t {} = true ∧ v.waved (CtxId.ck {}) = true ∧ stopsAfter wCfgrd (v.ctx {}).arch = true ∧
      ((after (step s)).ctx {}).frozen = true) := by
  refine ⟨by decide +kernel, by decide +kernel⟩

theorem witness_StepRunsTheDecodedInstruction :
    (let i : Instr := .add { ty := 2, g1 := { pred := 3 }, d := rs 6, a := rs 5, b := im 1 };
      let s := stIssue 3 0x0000000000000000E02002800C00C840;
      s.sys.stopped = false ∧ s.takeMove.1 = .issue {} ∧ CtxId.ok {} = true ∧ (s.ctx {}).life = .live ∧ (s.cell (CtxId.ck {})).grant = some 0 ∧
      (s.ctx {}).frozen = false ∧ (s.waved (CtxId.ck {}) && (s.ctx {}).atStop) = false ∧ (s.ctx {}).info.bad = false ∧ (s.ctx {}).arch.pos = .word 3 0 9 ∧ 3 ≤ 8191 ∧
      decodeWord (s.ctx {}).info.nacc ((s.cell (CtxId.ck {})).action 3) = .ok i ∧ 3 ≠ 9 ∧
      s.waved (CtxId.ck {}) = false ∧ ((fieldsOf i).all (fun w => !w.grp)) = true) ∧
    (let s := stIssue 3 0x0000000000000000E02002800C00CBFF; (s.ctx {}).arch.pos = .word 3 0 9 ∧ s.takeMove.1 = .issue {} ∧
      decodeWord (s.ctx {}).info.nacc ((s.cell (CtxId.ck {})).action 3) = .error (.ill 1 0)) ∧
    (let s := stIssue 9 0x0000000000000000E02002800C00C840; (s.ctx {}).arch.pos = .word 9 0 9 ∧ s.takeMove.1 = .issue {} ∧
      decodeWord (s.ctx {}).info.nacc ((s.cell (CtxId.ck {})).action 9) = .ok (.add { ty := 2, g1 := { pred := 3 }, d := rs 6, a := rs 5, b := im 1 })) ∧
    (let s := stIssue 9 0x00000000000000000000000000003C02;
      (s.ctx {}).arch.pos = .word 9 0 9 ∧ decodeWord (s.ctx {}).info.nacc ((s.cell (CtxId.ck {})).action 9) = .ok (.enda {})) ∧
    (let s := State.reset.placeCommand 0x01; s.sys.stopped = false ∧ s.takeMove.1 = .engine 0x2000 0 0 .clean ∧ boxRuns 0x2000 1 = true ∧
      s.queued 0x2000 0 0 = some { m := 0x01, priv := true, started := true } ∧ decodeCommand 0x01 = .ok (.ecopy 1)) ∧
    (let s := State.reset.placeCommand 0x21; s.takeMove.1 = .sampler 0 .clean ∧
      (s.sampler 0).batch = some { m := 0x21, priv := true, started := true } ∧ decodeCommand 0x21 = .ok (.sbatch 0x21)) ∧
    (let s := State.reset.placeCommand 0x30; s.takeMove.1 = .scheduler 0 ∧
      (s.sched 0).queue.head? = some { m := 0x30, priv := true, started := true } ∧ decodeCommand 0x30 = .ok (.slaunch 0x30)) ∧
    (let s := State.reset.placeLogit 3; s.takeMove.1 = .logit 0 ∧ (s.sampler 0).row = some { words := [3] } ∧ (s.sampler 0).cur = some {} ∧
      decodeLogit 3 = .ok .ltemp) ∧
    (let s := { State.reset with agenda := [.event (.arbiterGrant 3 143)] }; s.takeMove.1 = .event (.arbiterGrant 3 143) ∧
      encode (.arbiterGrant 3 143) = [] ∧ (Instr.arbiterGrant 3 143).wellFormed = true) ∧
    decodeTableWord 128 0x0000000000000000E02002800C00C840 = some (.add { ty := 2, g1 := { pred := 3 }, d := rs 6, a := rs 5, b := im 1 }) := by
  decide +kernel

theorem witness_DecodeInvertsEncode : ∀ i ∈ [Instr.add { ty := 2, g1 := { pred := 3 }, d := rs 6, a := rs 5, b := im 1 }, .ecopy (BitVec.ofNat 512 (2 ^ 512 - 255)), .lclamp 7 7],
    i.wellFormed = true ∧ encode i ≠ [] := by decide +kernel

def stMove : State := { bytesAt State.reset 0x100 [1, 0, 2] with agenda := [.event (.arbiterGrant 0 0)] }
theorem witness_StepsKeepMemoryCanonical : Sound stMove ∧ stMove.mem = [(0x100, 1), (0x102, 2)] ∧ StepsTo stMove (after (step stMove)) := by
  unfold Sound StepsTo
  exact ⟨by decide +kernel, by decide +kernel, rfl⟩

/-- A context whose s2 and v3 are empty. -/
def stLack : State := live (fun c => { c with arch := (c.arch.clear (.s 2)).clear (.v 3) })

/-- Whether the m registers that a word names are full. -/
def masksFull (c : Ctx) (w : Fields) : Bool :=
  ([w.a, w.b, w.c] ++ Fields.maskSrc w).all (fun o => o.cls != 2 || c.arch.full (.m (o.idx.toNat - 16)))

/-- A merge still takes beats of port 2, which the word names; and no word of the others' witnesses has an empty m register. -/
theorem witness_SourceChecks_merge :
    (let w : Fields := { ty := 0, d := rv 1, a := rv 3, b := rq 2 }; let i : Instr := .vadd w;
      let s := cell0 (stLack.modCtx {} (fun c => c.setPort 2 { c.port 2 with depth := 8 })) (fun k =>
        { k with island := { k.island with cq := [{ op := .rlmergeQ 31 2 }] } });
      i.wellFormed = true ∧ masksFull (s.ctx s.cur) w = true ∧ (s.ctx s.cur).arch.guards w = true ∧ sourcesOf i w = [rv 3, rq 2] ∧
      s.merging s.cur 2 = true ∧ s.mergeStuck s.cur 2 = false) ∧
    (∀ w ∈ [({ ty := 3, d := rs 1, a := { rs 2 with bt := true }, b := im 1 } : Fields), { ty := 15, d := rv 1, a := rb 2, b := im 1 },
        { a := rb 2, b := im 1 }, { ty := 0, d := rv 1, a := rv 3, b := rq 2 }, { ty := 3, d := rs 2, a := rs 1, b := im 1 }, { a := im 2, b := im 1 }],
      masksFull (stLack.ctx stLack.cur) w = true) ∧ stLack.merging stLack.cur 2 = false := by
  refine ⟨by decide +kernel, by decide +kernel, by decide +kernel⟩

theorem witness_SourceChecks :
    (let w : Fields := { ty := 3, d := rs 1, a := { rs 2 with bt := true }, b := im 1 }; let i : Instr := .add w; let s := stLack;
      fieldsOf i = some w ∧ i.wellFormed = true ∧ (s.ctx s.cur).arch.guards w = true ∧
      sourcesOf i w = [{ rs 2 with bt := true }] ∧ lacks (s.ctx s.cur) { rs 2 with bt := true } = true) ∧
    (∀ bt : Bool, let w : Fields := { ty := 15, d := rv 1, a := { rb 2 with bt := bt }, b := im 1 }; let i : Instr := .bpop w;
      let s := stLack.modCtx {} (fun c => { c with rings := [(2, { declared := true, sz := 128, n := 2 })] }); let c := s.ctx s.cur;
      fieldsOf i = some w ∧ i.wellFormed = true ∧ c.arch.guards w = true ∧ (c.ring 2).held < 1 + s.queuedOn s.cur 2 ∧
      (∀ o ∈ sourcesOf i w, lacks c o = false)) ∧
    (∀ bt : Bool, let w : Fields := { a := { rb 2 with bt := bt }, b := im 1 }; let i : Instr := .bret w;
      let s := stLack.modCtx {} (fun c => { c with rings := [(2, { declared := true, sz := 128, n := 2 })] }); let c := s.ctx s.cur;
      i.wellFormed = true ∧ c.bretNeed w = 1 ∧ (c.ring 2).held < c.bretNeed w + s.queuedOn s.cur 2 ∧ (∀ o ∈ sourcesOf i w, lacks c o = false)) ∧
    (let w : Fields := { ty := 0, d := rv 1, a := rv 3, b := rq 2 }; let i : Instr := .vadd w;
      let s := stLack.modCtx {} (fun c => c.setPort 2 { c.port 2 with depth := 8 });
      i.wellFormed = true ∧ sourcesOf i w = [rv 3, rq 2] ∧ lacks (s.ctx s.cur) (rv 3) = true ∧ lacks (s.ctx s.cur) (rq 2) = true ∧
      (s.ctx s.cur).stuckIn 2 1 = false) ∧
    (let w : Fields := { ty := 3, d := rs 2, a := rs 1, b := im 1 }; let i : Instr := .add w; let s := stLack;
      i.wellFormed = true ∧ (∀ o ∈ sourcesOf i w, lacks (s.ctx s.cur) o = false) ∧ (s.ctx s.cur).arch.full (.s 2) = false ∧
      (∃ e cls sat, opSpec i = some e ∧ e.d = .dst cls sat)) ∧
    (let w : Fields := { a := rs 5, b := im 1 }; let i : Instr := .skipt { w with a := im 2, b := im 1 }; let s := stLack;
      i.wellFormed = true ∧ (s.ctx s.cur).arch.pos = .word 3 0 9 ∧ 3 + ((immOf w (im 2)).toNat + 1) ≤ 9) := by
  refine ⟨by decide +kernel, by decide +kernel, by decide +kernel, by decide +kernel, ⟨by decide +kernel, by decide +kernel, by decide +kernel, _, _, _, rfl, rfl⟩, by decide +kernel⟩

end Sys2Proof.Tests
end

/-!
The source checks (R22 to R25, R194): what the shared check of a word's operands answers, which operands each word gives it, and that these
are the sources that the word's entry lists.
-/

namespace Sys2Proof

open Sys2Proof.Machine

/-! ### Lists of checks -/

/-- The first result of a list of checks is the first element that is one. -/
theorem firstRes_eq_findSome? (l : List (Option Res)) : firstRes l = l.findSome? id := by
  induction l with
  | nil => rfl
  | cons e r ih => cases e <;> simp [firstRes, ih]

/-- The first result stands in the list. -/
theorem mem_of_firstRes {l : List (Option Res)} {r : Res} (h : firstRes l = some r) : some r ∈ l := by
  rw [firstRes_eq_findSome?] at h
  obtain ⟨e, he, hr⟩ := List.exists_of_findSome?_eq_some h
  exact hr ▸ he

/-- A list with a result in it has a first one. -/
theorem firstRes_ne_none {l : List (Option Res)} {r : Res} (h : some r ∈ l) : firstRes l ≠ none := by
  rw [firstRes_eq_findSome?, ne_eq, List.findSome?_eq_none_iff]
  exact fun hn => Option.some_ne_none r (hn _ h)

/-- The first result of two lists is that of the first one, or else that of the second. -/
theorem firstRes_append (l m : List (Option Res)) : firstRes (l ++ m) = (firstRes l).or (firstRes m) := by
  simp only [firstRes_eq_findSome?, List.findSome?_append]

/-! ### Empty sources -/

/-- Every m register among the operands is full. -/
def MasksFull (c : Ctx) (l : List Operand) : Prop := ∀ o ∈ l, o.cls = 2 → c.arch.full (.m (o.idx.toNat - 16)) = true

/-- An operand lacks its value when the model finds its source empty. -/
theorem emptySrc_isSome {c : Ctx} {o : Operand} (hm : o.cls = 2 → c.arch.full (.m (o.idx.toNat - 16)) = true) :
    (c.emptySrc o).isSome = lacks c o := by
  unfold Ctx.emptySrc lacks Operand.reg
  by_cases h0 : o.cls = 0
  · simp only [h0, if_true]; cases c.arch.full (.s o.idx.toNat) <;> rfl
  by_cases h1 : o.cls = 1
  · simp only [h1, show ¬(1 : BitVec 3) = 0 by decide, if_true, if_false]; cases c.arch.full (.v o.idx.toNat) <;> rfl
  by_cases h2 : o.cls = 2
  · simp [h2, hm h2]
  simp only [h0, h1, h2, if_false]
  by_cases h4 : o.cls = 4 ∧ 2 ≤ o.idx.toNat
  · simp only [h4, and_self, if_true, beq_self_eq_true, decide_true, Bool.true_and]
    cases (c.port o.idx.toNat).out <;> cases (c.port o.idx.toNat).head? <;> rfl
  · rw [if_neg h4]
    simp only [not_and_or] at h4
    obtain h4 | h4 := h4
    · rw [beq_eq_false_iff_ne.2 h4]; rfl
    · simp [h4]

/-- A source waits for its register or for a beat of its port (R22, R24). -/
theorem emptySrc_eq_some {c : Ctx} {o : Operand} {wt : Wait} (h : c.emptySrc o = some wt) :
    (∃ r, wt = .regs [r]) ∨ o.cls = 4 ∧ wt = .portIn o.idx.toNat 1 := by
  unfold Ctx.emptySrc at h
  split at h
  · rename_i r _
    split at h
    · cases h
    · exact .inl ⟨r, (Option.some.inj h).symm⟩
  · split at h
    · rename_i h4
      dsimp only at h
      split at h
      · cases h
      · exact .inr ⟨h4.1, (Option.some.inj h).symm⟩
    · cases h

/-- Only registers of classes 0 and 1 and ports can lack a value. -/
theorem cls_of_lacks {c : Ctx} {o : Operand} (h : lacks c o = true ∨ o.cls = 4) : o.cls = 0 ∨ o.cls = 1 ∨ o.cls = 4 := by
  obtain h | h := h
  · unfold lacks at h
    split at h
    · exact .inl ‹_›
    · split at h
      · exact .inr (.inl ‹_›)
      · simp only [Bool.and_eq_true, beq_iff_eq] at h
        exact .inr (.inr h.1.1.1)
  · exact .inr (.inr h)

/-- s0 is always full, so an operand field of zeros lacks nothing. -/
theorem lacks_of_isZero {c : Ctx} {o : Operand} (h : Operand.isZero o = true) : lacks c o = false := by
  simp only [Operand.isZero, Bool.and_eq_true, beq_iff_eq] at h
  obtain ⟨⟨⟨hc, hi⟩, -⟩, -⟩ := h
  simp [lacks, hc, hi, Arch.full]

/-! ### The check of R22 and R23 -/

/-- An empty source with B/T traps, whatever else is missing (R22). -/
theorem check_traps {c : Ctx} {srcs dsts : List Operand} (hm : MasksFull c srcs) (h : ∃ o ∈ srcs, lacks c o = true ∧ o.bt = true) :
    c.check srcs dsts = some (.trap 2 0) := by
  obtain ⟨o, ho, hl, hb⟩ := h
  simp only [Ctx.check, List.append_assoc]
  rw [firstRes_append]
  have hs : some (Res.trap 2 0) ∈ srcs.map (fun o => if o.bt && (c.emptySrc o).isSome then some (Res.trap 2 0) else none) :=
    List.mem_map.2 ⟨o, ho, by rw [hb, emptySrc_isSome (hm o ho), hl]; rfl⟩
  obtain ⟨r, hr⟩ := Option.ne_none_iff_exists'.1 (firstRes_ne_none hs)
  obtain ⟨o', -, he⟩ := List.mem_map.1 (mem_of_firstRes hr)
  rw [hr, Option.some_or]
  split at he
  · exact he.symm
  · cases he

/-- An operand is missing: a source lacks its value, or the result of an earlier word for a destination is pending (R22, R23). -/
def Missing (c : Ctx) (srcs dsts : List Operand) : Prop :=
  (∃ o ∈ srcs, lacks c o = true) ∨ ∃ o ∈ dsts, ∃ r, Operand.reg o = some r ∧ c.arch.full r = false

/-- Nothing that a word lacks makes it trap: no empty source has B/T, and no empty port is stuck. -/
def MayWait (c : Ctx) (srcs : List Operand) : Prop :=
  ∀ o ∈ srcs, lacks c o = true → o.bt = false ∧ (o.cls = 4 → c.stuckIn o.idx.toNat 1 = false)

/-- A check that does not trap for what is missing answers a wait, one at least when something is missing, and looks for misused ports
after that. -/
theorem check_eq_or {c : Ctx} {srcs dsts : List Operand} (hm : MasksFull c srcs) (hw : MayWait c srcs) :
    ∃ x, c.check srcs dsts = x.or (firstRes (srcs.map c.srcMisuse)) ∧ (∀ r, x = some r → ∃ why, r = .wait why) ∧
      (Missing c srcs dsts → x ≠ none) := by
  refine ⟨_, by rw [Ctx.check, firstRes_append], fun r hr => ?_, fun h => ?_⟩
  · have hr := mem_of_firstRes hr
    simp only [List.mem_append, List.mem_map, List.mem_filterMap] at hr
    obtain ((⟨o, ho, he⟩ | ⟨o, ho, he⟩) | ⟨r', -, he⟩) | ⟨r', -, he⟩ := hr
    · rw [emptySrc_isSome (hm o ho)] at he
      split at he
      · rename_i h; simp only [Bool.and_eq_true] at h; rw [(hw o ho h.2).1] at h; cases h.1
      · cases he
    · obtain ⟨wt, hwt, he⟩ := Option.map_eq_some_iff.1 he
      have hlk := hw o ho (by rw [← emptySrc_isSome (hm o ho), hwt]; rfl)
      obtain ⟨r', rfl⟩ | ⟨h4, rfl⟩ := emptySrc_eq_some hwt
      · exact ⟨_, he.symm⟩
      · exact ⟨.portIn o.idx.toNat 1, by rw [← he]; simp [hlk.2 h4]⟩
    · split at he
      · cases he
      · exact ⟨_, (Option.some.inj he).symm⟩
    · split at he
      · exact ⟨_, (Option.some.inj he).symm⟩
      · cases he
  · obtain ⟨o, ho, hl⟩ | ⟨o, ho, r, hr, hf⟩ := h
    · rw [← emptySrc_isSome (hm o ho)] at hl
      obtain ⟨wt, hwt⟩ := Option.isSome_iff_exists.1 hl
      exact firstRes_ne_none (List.mem_append_left _ (List.mem_append_left _ (List.mem_append_right _
        (List.mem_map.2 ⟨o, ho, by rw [hwt]; rfl⟩))))
    · exact firstRes_ne_none (List.mem_append_left _ (List.mem_append_right _
        (List.mem_map.2 ⟨r, List.mem_filterMap.2 ⟨o, ho, hr⟩, by rw [hf]; rfl⟩)))

/-- With something missing, and nothing of it to trap for, a word waits (R22, R23). -/
theorem check_waits {c : Ctx} {srcs dsts : List Operand} (hm : MasksFull c srcs) (hw : MayWait c srcs) (h : Missing c srcs dsts) :
    ∃ why, c.check srcs dsts = some (.wait why) := by
  obtain ⟨x, hx, hwait, hsome⟩ := check_eq_or (dsts := dsts) hm hw
  obtain ⟨r, rfl⟩ := Option.ne_none_iff_exists'.1 (hsome h)
  obtain ⟨why, rfl⟩ := hwait r rfl
  exact ⟨why, by rw [hx, Option.some_or]⟩

/-- Without ports among its sources, a word that does not trap for what it lacks waits or passes. -/
theorem check_passes_or_waits {c : Ctx} {srcs dsts : List Operand} (hm : MasksFull c srcs) (hw : MayWait c srcs)
    (hq : ∀ o ∈ srcs, o.cls ≠ 4) : c.check srcs dsts = none ∨ ∃ why, c.check srcs dsts = some (.wait why) := by
  obtain ⟨x, hx, hwait, -⟩ := check_eq_or (dsts := dsts) hm hw
  have hmis : firstRes (srcs.map c.srcMisuse) = none := firstRes_none (by
    intro e he
    obtain ⟨o, ho, rfl⟩ := List.mem_map.1 he
    exact if_neg (hq o ho))
  rw [hx, hmis, Option.or_none]
  cases x with
  | none => exact .inl rfl
  | some r => exact .inr ((hwait r rfl).imp fun why he => by rw [he])

/-! ### Merges of earlier words (R194) -/

/-- An earlier merge still takes beats of the port that an operand names. -/
def Late (s : State) (o : Operand) : Prop := o.cls = 4 ∧ s.merging s.cur o.idx.toNat = true

theorem late_iff {s : State} {o : Operand} : (o.cls == 4 && s.merging s.cur o.idx.toNat) = true ↔ Late s o := by
  simp [Late]

/-- An empty source with B/T that no merge takes beats of leaves the merges nothing else to answer than its trap. -/
theorem mergeWaits_of_traps {s : State} {srcs : List Operand} (hm : MasksFull (s.ctx s.cur) srcs)
    (h : ∃ o ∈ srcs, lacks (s.ctx s.cur) o = true ∧ o.bt = true ∧ ¬Late s o) :
    s.mergeWaits srcs = none ∨ s.mergeWaits srcs = some (.trap 2 0) := by
  obtain ⟨o, ho, hl, hb, hn⟩ := h
  unfold State.mergeWaits
  dsimp only
  split
  · exact .inl rfl
  · refine .inr (if_pos (List.any_eq_true.2 ⟨o, ho, ?_⟩))
    rw [emptySrc_isSome (hm o ho), hl, hb, Bool.eq_false_iff.2 (fun h => hn (late_iff.1 h))]
    rfl

/-- A word with a port that an earlier merge still takes beats of waits, unless another source makes it trap or the merge is stuck. -/
theorem mergeWaits_waits {s : State} {srcs : List Operand} (hm : MasksFull (s.ctx s.cur) srcs) (h : ∃ o ∈ srcs, Late s o)
    (hb : ∀ o ∈ srcs, lacks (s.ctx s.cur) o = true → o.bt = true → Late s o)
    (hq : ∀ o ∈ srcs, o.cls = 4 → s.mergeStuck s.cur o.idx.toNat = false) : ∃ why, s.mergeWaits srcs = some (.wait why) := by
  obtain ⟨o, ho, hlate⟩ := h
  have hwait (o : Operand) (ho : o ∈ srcs) (hl : Late s o) : ∃ why, s.mergeWait o.idx.toNat = some (.wait why) :=
    ⟨_, by rw [State.mergeWait, hq o ho hl.1, hl.2]; rfl⟩
  have hany : srcs.any (fun o => o.cls == 4 && s.merging s.cur o.idx.toNat) = true :=
    List.any_eq_true.2 ⟨o, ho, late_iff.2 hlate⟩
  unfold State.mergeWaits
  dsimp only
  rw [if_neg (by rw [hany]; decide), if_neg]
  · obtain ⟨why, hw⟩ := hwait o ho hlate
    have hs : some (Res.wait why) ∈ (srcs.filter (fun o => o.cls == 4 && s.merging s.cur o.idx.toNat)).map
        (fun o => s.mergeWait o.idx.toNat) := List.mem_map.2 ⟨o, List.mem_filter.2 ⟨ho, late_iff.2 hlate⟩, hw⟩
    obtain ⟨r, hr⟩ := Option.ne_none_iff_exists'.1 (firstRes_ne_none hs)
    obtain ⟨o', ho', he⟩ := List.mem_map.1 (mem_of_firstRes hr)
    obtain ⟨hin, hl'⟩ := List.mem_filter.1 ho'
    obtain ⟨why', hw'⟩ := hwait o' hin (late_iff.1 hl')
    exact ⟨why', by rw [hr, ← he, hw']⟩
  · simp only [List.any_eq_true, not_exists, not_and]
    intro o' ho' h'
    rw [emptySrc_isSome (hm o' ho')] at h'
    simp only [Bool.and_eq_true, Bool.not_eq_true'] at h'
    have := late_iff.2 (hb o' ho' h'.2 h'.1.2)
    rw [h'.1.1] at this
    cases this

/-! ### The operands of a word, without and with a ring -/

/-- A word traps on an empty source with B/T that no earlier merge takes beats of (R22). -/
theorem srcs_traps {s : State} {srcs dsts : List Operand} {k : Ctx → Res} (hm : MasksFull (s.ctx s.cur) srcs)
    (h : ∃ o ∈ srcs, lacks (s.ctx s.cur) o = true ∧ o.bt = true ∧ ¬Late s o) : s.srcs srcs dsts k = .trap 2 0 := by
  have hc := check_traps (dsts := dsts) hm (h.imp fun _ ⟨ho, hl, hb, _⟩ => ⟨ho, hl, hb⟩)
  obtain hw | hw := mergeWaits_of_traps hm h <;> simp only [State.srcs, hw, hc, firstRes]

/-- A word waits for the earlier merges of its ports (R194). -/
theorem srcs_waits_late {s : State} {srcs dsts : List Operand} {k : Ctx → Res} (hm : MasksFull (s.ctx s.cur) srcs)
    (h : ∃ o ∈ srcs, Late s o) (hb : ∀ o ∈ srcs, lacks (s.ctx s.cur) o = true → o.bt = true → Late s o)
    (hq : ∀ o ∈ srcs, o.cls = 4 → s.mergeStuck s.cur o.idx.toNat = false) : ∃ why, s.srcs srcs dsts k = .wait why := by
  obtain ⟨why, hw⟩ := mergeWaits_waits hm h hb hq
  exact ⟨why, by simp only [State.srcs, hw, firstRes]⟩

/-- A word waits for what is missing (R22, R23). -/
theorem srcs_waits_missing {s : State} {srcs dsts : List Operand} {k : Ctx → Res} (hm : MasksFull (s.ctx s.cur) srcs)
    (hl : ∀ o ∈ srcs, ¬Late s o) (hw : MayWait (s.ctx s.cur) srcs) (h : Missing (s.ctx s.cur) srcs dsts) :
    ∃ why, s.srcs srcs dsts k = .wait why := by
  obtain ⟨why, hc⟩ := check_waits hm hw h
  have hn : noMerges s srcs = true := by
    simp only [noMerges, List.all_eq_true]
    intro o ho
    have := Bool.eq_false_iff.2 (fun h => hl o ho (late_iff.1 h))
    rw [bne, ← Bool.not_and, this]
    rfl
  exact ⟨why, by simp only [State.srcs, mergeWaits_of_noMerges hn, hc, firstRes]⟩

/-- A ring holds fewer slots than a word and the rows queued before it take (R24). -/
def RingShort (s : State) (o : Operand) (n : Nat) : Prop :=
  n ≠ 0 ∧ ((s.ctx s.cur).ring o.idx.toNat).held < n + s.queuedOn s.cur o.idx.toNat

theorem ringShort_iff {s : State} {o : Operand} {n : Nat} :
    (decide (((s.ctx s.cur).ring o.idx.toNat).held < n + s.queuedOn s.cur o.idx.toNat) && n != 0) = true ↔ RingShort s o n := by
  simp [RingShort, and_comm]

/-- A short ring with B/T traps before anything else (R22, R24). -/
theorem srcsRing_traps_short {s : State} {o : Operand} {n : Ctx → Nat} {srcs dsts : List Operand} {k : Ctx → Res}
    (h : RingShort s o (n (s.ctx s.cur))) (hb : o.bt = true) : s.srcsRing o n srcs dsts k = .trap 2 0 :=
  if_pos (by rw [hb, ringShort_iff.2 h]; rfl)

/-- With a ring without B/T, or one that is not short, the check of the other operands decides. -/
theorem srcsRing_of_check {s : State} {o : Operand} {n : Ctx → Nat} {srcs dsts : List Operand} {k : Ctx → Res} {r : Res}
    (hb : RingShort s o (n (s.ctx s.cur)) → o.bt = false) (hc : (s.ctx s.cur).check srcs dsts = some r) :
    s.srcsRing o n srcs dsts k = r := by
  unfold State.srcsRing
  dsimp only
  rw [if_neg, hc]
  intro h
  rw [Bool.and_eq_true] at h
  rw [hb (ringShort_iff.1 h.2)] at h
  cases h.1

/-- A word that names a ring traps on an empty source with B/T (R22). -/
theorem srcsRing_traps {s : State} {o : Operand} {n : Ctx → Nat} {srcs dsts : List Operand} {k : Ctx → Res}
    (hm : MasksFull (s.ctx s.cur) srcs) (h : ∃ o ∈ srcs, lacks (s.ctx s.cur) o = true ∧ o.bt = true) :
    s.srcsRing o n srcs dsts k = .trap 2 0 := by
  by_cases hs : RingShort s o (n (s.ctx s.cur)) ∧ o.bt = true
  · exact srcsRing_traps_short hs.1 hs.2
  · exact srcsRing_of_check (fun h => Bool.eq_false_iff.2 (fun hb => hs ⟨h, hb⟩)) (check_traps hm h)

/-- A word waits for a short ring without B/T (R22, R24). -/
theorem srcsRing_waits_short {s : State} {o : Operand} {n : Ctx → Nat} {srcs dsts : List Operand} {k : Ctx → Res}
    (hm : MasksFull (s.ctx s.cur) srcs) (hw : MayWait (s.ctx s.cur) srcs) (hq : ∀ o ∈ srcs, o.cls ≠ 4)
    (h : RingShort s o (n (s.ctx s.cur))) (hb : o.bt = false) : ∃ why, s.srcsRing o n srcs dsts k = .wait why := by
  obtain hc | ⟨why, hc⟩ := check_passes_or_waits (dsts := dsts) hm hw hq
  · refine ⟨.ringIn o.idx.toNat (n (s.ctx s.cur)), ?_⟩
    unfold State.srcsRing
    dsimp only
    rw [hb, Bool.false_and, if_neg Bool.false_ne_true, hc]
    exact if_pos (ringShort_iff.2 h)
  · exact ⟨why, srcsRing_of_check (fun _ => hb) hc⟩

/-- A word that names a ring waits for what is missing of its other operands, unless the ring makes it trap (R22, R23). -/
theorem srcsRing_waits_missing {s : State} {o : Operand} {n : Ctx → Nat} {srcs dsts : List Operand} {k : Ctx → Res}
    (hm : MasksFull (s.ctx s.cur) srcs) (hw : MayWait (s.ctx s.cur) srcs) (h : Missing (s.ctx s.cur) srcs dsts)
    (hb : RingShort s o (n (s.ctx s.cur)) → o.bt = false) : ∃ why, s.srcsRing o n srcs dsts k = .wait why :=
  (check_waits hm hw h).imp fun _ hc => srcsRing_of_check hb hc

/-! ### The operands that a word gives the check -/

/-- A word checks these sources and destinations before anything else, in this state. -/
def Checks (i : Instr) (w : Fields) (s : State) (srcs dsts : List Operand) : Prop :=
  ∃ k, exec i s = s.finish s.cur w.y (s.srcs srcs dsts k)

/-- The body of a word checks these sources and destinations before anything else. -/
def ChecksFirst (srcs dsts : List Operand) (body : State → Res) : Prop :=
  ∃ k : State → Ctx → Res, ∀ s, body s = s.srcs srcs dsts (k s)

/-- A word with true guards ends as its body does in this state (R64). -/
theorem exec_of_body {i : Instr} {w : Fields} {s : State} {body : State → Res} {r : Res} (hg : (s.ctx s.cur).arch.guards w = true)
    (hx : exec i s = s.word w body) (hb : body s = r) : exec i s = s.finish s.cur w.y r := by
  rw [hx, word_of_guards hg, hb]

/-- A word whose body checks its operands first checks them first when its guards are true. -/
theorem ChecksFirst.word {i : Instr} {w : Fields} {s : State} {srcs dsts : List Operand} {body : State → Res}
    (h : ChecksFirst srcs dsts body) (hx : ∀ s, exec i s = s.word w body) (hg : (s.ctx s.cur).arch.guards w = true) :
    Checks i w s srcs dsts := by
  obtain ⟨k, hk⟩ := h
  exact ⟨k s, exec_of_body hg (hx s) (hk s)⟩

/-- Two bodies that check the same operands do so whichever of them runs. -/
theorem ChecksFirst.ite {srcs dsts : List Operand} {f g : State → Res} (p : Prop) [Decidable p] (hf : ChecksFirst srcs dsts f)
    (hg : ChecksFirst srcs dsts g) : ChecksFirst srcs dsts (fun s => if p then f s else g s) := by
  by_cases h : p
  · simpa only [h, if_true] using hf
  · simpa only [h, if_false] using hg

/-- The bodies that begin with the shared check itself; the lemmas that follow say of each shared operation what it checks first. -/
theorem checksFirst_srcs {srcs dsts : List Operand} {k : State → Ctx → Res} : ChecksFirst srcs dsts (fun s => s.srcs srcs dsts (k s)) :=
  ⟨k, fun _ => rfl⟩

theorem checksFirst_alu {srcs dsts : List Operand} {f : Ctx → Arch} : ChecksFirst srcs dsts (fun s => s.alu srcs dsts f) :=
  ⟨_, fun _ => rfl⟩

theorem checksFirst_atomic {w : Fields} {op : Nat} :
    ChecksFirst ([w.a, w.b, w.c] ++ (if op = 7 then [w.e] else [])) [w.d] (fun s => s.atomic w op) := by
  unfold State.atomic
  exact ⟨_, fun _ => rfl⟩

theorem checksFirst_vecTo {w : Fields} {srcs : List Operand} {ty : Nat} {f : Ctx → List Nat} :
    ChecksFirst (srcs ++ Fields.maskSrc w) [w.d] (fun s => s.vecTo w srcs ty f) :=
  checksFirst_alu

theorem checksFirst_vec1 {w : Fields} {f : Nat → Nat} : ChecksFirst ([w.a] ++ Fields.maskSrc w) [w.d] (fun s => s.vec1 w f) :=
  checksFirst_vecTo

theorem checksFirst_vec2 {w : Fields} {f : Nat → Nat → Nat} :
    ChecksFirst ([w.a, w.b] ++ Fields.maskSrc w) [w.d] (fun s => s.vec2 w f) :=
  checksFirst_vecTo

theorem checksFirst_vec3 {w : Fields} {f : Nat → Nat → Nat → Nat} :
    ChecksFirst ([w.a, w.b, w.c] ++ Fields.maskSrc w) [w.d] (fun s => s.vec3 w f) :=
  checksFirst_vecTo

theorem checksFirst_load {w : Fields} {srcs : List Operand} {vec : Bool} {accs : Ctx → List Acc} :
    ChecksFirst (srcs ++ (if vec then Fields.maskSrc w else [])) [w.d] (fun s => s.loadWord w srcs vec accs) :=
  ⟨_, fun _ => rfl⟩

theorem checksFirst_store {w : Fields} {opc : Nat} {srcs : List Operand} {vec : Bool} {accs : Ctx → List Acc} {data : Ctx → Nat} :
    ChecksFirst (srcs ++ (if vec then Fields.maskSrc w else [])) [] (fun s => s.storeWord w opc srcs vec accs data) :=
  ⟨_, fun _ => rfl⟩

theorem checksFirst_laneLoad {w : Fields} {srcs : List Operand} {indexed : Bool} :
    ChecksFirst (srcs ++ Fields.maskSrc w) [w.d] (fun s => s.laneLoad w srcs indexed) :=
  ⟨_, fun _ => rfl⟩

theorem checksFirst_laneStore {w : Fields} {srcs : List Operand} {indexed : Bool} :
    ChecksFirst (srcs ++ Fields.maskSrc w) [] (fun s => s.laneStore w srcs indexed) :=
  ⟨_, fun _ => rfl⟩

/-- A vector load, from `.l` or from the other spaces. -/
theorem checksFirst_vecLoad {w : Fields} {indexed : Bool} {accs : Ctx → List Acc} :
    ChecksFirst ([w.a, w.b] ++ Fields.maskSrc w) [w.d]
      (fun s => if Fields.space w = .l then s.laneLoad w [w.a, w.b] indexed else s.loadWord w [w.a, w.b] true accs) :=
  .ite _ checksFirst_laneLoad checksFirst_load

/-- A vector store, to `.l` or to the other spaces. -/
theorem checksFirst_vecStore {w : Fields} {opc : Nat} {indexed : Bool} {accs : Ctx → List Acc} {data : Ctx → Nat} :
    ChecksFirst ([w.a, w.b, w.c] ++ Fields.maskSrc w) [] (fun s =>
      if Fields.space w = .l then s.laneStore w [w.a, w.b, w.c] indexed else s.storeWord w opc [w.a, w.b, w.c] true accs data) :=
  .ite _ checksFirst_laneStore checksFirst_store

/-! ### The operands that an entry lists -/

/-- A use that reads registers or a port, so that its field takes part in the source checks. -/
def Use.checked : Use → Bool
  | .src cls _ => cls.any (fun k => k == .s || k == .v || k == .m || k == .q)
  | _ => false

/-- A use that writes an s or v register, whose result may be pending. -/
def Use.written : Use → Bool
  | .dst cls _ => cls.any (fun k => k == .s || k == .v)
  | _ => false

/-- The source in bits [127:96] of a word: operand E or the mask. -/
def extraSrcs (u : EUse) (w : Fields) : List Operand :=
  match u with
  | .reg _ => [w.e]
  | .mask => Fields.maskSrc w
  | _ => []

/-- The sources that an entry makes a word check. -/
def entrySrcs (e : OpSpec) (w : Fields) : List Operand :=
  (if Use.checked e.a then [w.a] else []) ++ ((if Use.checked e.b then [w.b] else []) ++
    ((if Use.checked e.c then [w.c] else []) ++ extraSrcs e.e w))

/-- The destination that an entry makes a word check. -/
def entryDsts (e : OpSpec) (w : Fields) : List Operand := if Use.written e.d then [w.d] else []

/-! ### What a well-formed word keeps (R20, R76) -/

/-- Only the empty list of flaws has no least one. -/
theorem flawLeast_eq_none {l : List Flaw} (h : Flaw.least l = none) : l = [] := by
  cases l with
  | nil => rfl
  | cons f r =>
    simp only [Flaw.least] at h
    split at h
    · cases h
    · split at h <;> cases h

/-- A word is well formed when it breaks no rule of R76; the other rows have no fields. -/
theorem wellFormed_eq_wordOk {i : Instr} {w : Fields} (hw : fieldsOf i = some w) : i.wellFormed = wordOk i := by
  unfold Instr.wellFormed
  split
  all_goals try cases hw
  rfl

/-- A well-formed word has no flaw. -/
theorem wordFlaws_eq_nil {i : Instr} {w : Fields} (hw : fieldsOf i = some w) (h : i.wellFormed = true) : wordFlaws 8 i w = [] := by
  rw [wellFormed_eq_wordOk hw, wordOk, wordFlaw, hw, Option.isNone_iff_eq_none] at h
  exact flawLeast_eq_none h

/-- The flaws of a word by the entry that holds for it; only ILL breaks no rule. -/
theorem wordFlaws_of_spec {n : Nat} {i : Instr} {w : Fields} {e : OpSpec} (hs : wordSpec i w = some e) (hi : ∀ v, i ≠ .ill v) :
    wordFlaws n i w = when' (!e.tys.contains w.ty.toNat) (2, 10)
      ++ useFlaws n 22 e.d w.d ++ useFlaws n 36 e.a w.a ++ useFlaws n 50 e.b w.b ++ useFlaws n 64 e.c w.c
      ++ immFlaws n e ((opSpec i).getD e) w ++ spaceFlaws e w ++ when' (!fnOk e w) (6, 88) ++ entryFlaws i w := by
  unfold wordFlaws
  split
  · exact absurd rfl (hi _)
  · rename_i h; rw [hs] at h; cases h
  · rename_i h; rw [hs] at h; cases h; rfl

/-- A word without flaws has none in its operand fields. -/
theorem operandFlaws_eq_nil {n : Nat} {i : Instr} {w : Fields} {e : OpSpec} (hs : wordSpec i w = some e) (hi : ∀ v, i ≠ .ill v)
    (h : wordFlaws n i w = []) : useFlaws n 22 e.d w.d = [] ∧ useFlaws n 36 e.a w.a = [] ∧ useFlaws n 50 e.b w.b = [] ∧
      useFlaws n 64 e.c w.c = [] ∧ immFlaws n e ((opSpec i).getD e) w = [] := by
  rw [wordFlaws_of_spec hs hi] at h
  simp only [List.append_eq_nil_iff] at h
  obtain ⟨⟨⟨⟨⟨⟨⟨⟨-, hd⟩, ha⟩, hb⟩, hc⟩, himm⟩, -⟩, -⟩, -⟩ := h
  exact ⟨hd, ha, hb, hc, himm⟩

/-- A field without a class flaw is of one of the classes that its entry lists. -/
theorem exists_code_of_classFlaws {n base : Nat} {cls : List Cls} {o : Operand} (h : classFlaws n base cls o = []) :
    ∃ k ∈ cls, k.code = o.cls.toNat := by
  unfold classFlaws at h
  split at h
  · rename_i hk
    obtain ⟨k, hk, hc⟩ := List.any_eq_true.1 hk
    rw [Bool.and_eq_true, beq_iff_eq] at hc
    exact ⟨k, hk, hc.1⟩
  · split at h <;> cases h

theorem exists_code_of_src {n base : Nat} {cls : List Cls} {m : Mods} {o : Operand} (h : useFlaws n base (.src cls m) o = []) :
    ∃ k ∈ cls, k.code = o.cls.toNat :=
  exists_code_of_classFlaws (List.append_eq_nil_iff.1 h).1

theorem exists_code_of_dst {n base : Nat} {cls : List Cls} {sat : Bool} {o : Operand} (h : useFlaws n base (.dst cls sat) o = []) :
    ∃ k ∈ cls, k.code = o.cls.toNat :=
  exists_code_of_classFlaws (List.append_eq_nil_iff.1 (List.append_eq_nil_iff.1 h).1).1

/-- An unused field holds zeros. -/
theorem isZero_of_unused {n base : Nat} {o : Operand} (h : useFlaws n base .unused o = []) : Operand.isZero o = true := by
  simpa [useFlaws, when'] using h

/-- A B/T bit of a destination is a flaw. -/
theorem useFlaws_dst_of_bt {n base : Nat} {cls : List Cls} {sat : Bool} {o : Operand} (h : o.bt = true) :
    useFlaws n base (.dst cls sat) o ≠ [] := by
  simp [useFlaws, when', h]

/-- A mask field that is not zero names an m register (R107). -/
theorem cls_of_masked {n : Nat} {e full : OpSpec} {w : Fields} (h : immFlaws n e full w = []) (he : e.e = .mask)
    (hm : Fields.masked w = true) : w.e.cls = 2 := by
  simp only [Fields.masked, Bool.and_eq_true, Bool.not_eq_true', Bool.or_eq_false_iff] at hm
  obtain ⟨⟨⟨ha, hb⟩, hc⟩, hz⟩ := hm
  have hu : imm32Users full w = [] := by
    simp only [imm32Users, ha, hb, hc, Bool.false_and, List.append_eq_nil_iff]
    refine ⟨⟨?_, ?_⟩, ?_⟩ <;> split <;> rfl
  simp only [immFlaws, he, hu, List.isEmpty_nil, if_true, hz, Bool.false_eq_true, if_false, List.append_eq_nil_iff] at h
  obtain ⟨-, hcls, -⟩ := h
  obtain ⟨k, hk, hcode⟩ := exists_code_of_classFlaws hcls
  rw [List.mem_singleton.1 hk] at hcode
  exact BitVec.eq_of_toNat_eq hcode.symm

/-- Operand E, where an entry has it, is of a class that the entry lists. -/
theorem exists_code_of_reg {n : Nat} {e full : OpSpec} {w : Fields} {cls : List Cls} (h : immFlaws n e full w = []) (he : e.e = .reg cls) :
    ∃ k ∈ cls, k.code = w.e.cls.toNat := by
  simp only [immFlaws, he, List.append_eq_nil_iff] at h
  obtain ⟨⟨⟨hu, -⟩, -⟩, -⟩ := h
  exact exists_code_of_src hu

/-- An entry is narrowed only in its B, which is then unused where it was a scalar (R121). -/
theorem wordSpec_eq {i : Instr} {w : Fields} {e : OpSpec} (he : opSpec i = some e) :
    ∃ u, wordSpec i w = some { e with b := u } ∧ (u = e.b ∨ u = .unused ∧ e.b = .src [.s, .c, .i] .none) := by
  unfold wordSpec
  split
  · rename_i h
    rw [h] at he
    cases he
    split
    · exact ⟨.unused, rfl, .inr ⟨rfl, by cases h; rfl⟩⟩
    · exact ⟨_, rfl, .inl rfl⟩
  · exact ⟨e.b, he, .inl rfl⟩

/-- A field of zeros is s0, a scalar without flaw. -/
theorem useFlaws_of_isZero {base : Nat} {o : Operand} (h : Operand.isZero o = true) : useFlaws 8 base (.src [.s, .c, .i] .none) o = [] := by
  simp only [Operand.isZero, Bool.and_eq_true, beq_iff_eq] at h
  obtain ⟨⟨⟨hc, hi⟩, -⟩, hm⟩ := h
  simp [useFlaws, classFlaws, when', modOk, Operand.isImm32, Cls.code, Cls.legalIdx, hc, hi, hm]

/-- The operand fields of a word are of classes that its entry lists (R20, R76). -/
structure LegalFields (e : OpSpec) (w : Fields) : Prop where
  d : useFlaws 8 22 e.d w.d = []
  a : useFlaws 8 36 e.a w.a = []
  b : useFlaws 8 50 e.b w.b = []
  c : useFlaws 8 64 e.c w.c = []
  mask : e.e = .mask → Fields.masked w = true → w.e.cls = 2
  reg : ∀ cls, e.e = .reg cls → ∃ k ∈ cls, k.code = w.e.cls.toNat

/-- The fields of a well-formed word other than ILL are legal. -/
theorem legalFields {i : Instr} {w : Fields} {e : OpSpec} (hw : fieldsOf i = some w) (h : i.wellFormed = true)
    (he : opSpec i = some e) (hi : ∀ v, i ≠ .ill v) : LegalFields e w := by
  obtain ⟨u, hs, hu⟩ := wordSpec_eq (w := w) he
  obtain ⟨hd, ha, hb, hc, himm⟩ := operandFlaws_eq_nil hs hi (wordFlaws_eq_nil hw h)
  refine ⟨hd, ha, ?_, hc, fun hr => cls_of_masked himm (by exact hr), fun cls hr => exists_code_of_reg himm (by exact hr)⟩
  obtain rfl | ⟨rfl, hbe⟩ := hu
  · exact hb
  · exact hbe ▸ useFlaws_of_isZero (isZero_of_unused hb)

/-- A B/T bit of a destination is a flaw (R22). -/
theorem wordFlaw_of_bt {n : Nat} {i : Instr} {w : Fields} {e : OpSpec} {cls : List Cls} {sat : Bool} (hw : fieldsOf i = some w)
    (he : opSpec i = some e) (hd : e.d = .dst cls sat) (hb : w.d.bt = true) : (wordFlaw n i).isSome = true := by
  have hi : ∀ v, i ≠ .ill v := by
    rintro v rfl
    cases he
    cases hd
  obtain ⟨u, hs, -⟩ := wordSpec_eq (w := w) he
  rw [Option.isSome_iff_ne_none, wordFlaw, hw]
  intro hn
  obtain ⟨hf, -⟩ := operandFlaws_eq_nil hs hi (flawLeast_eq_none hn)
  exact useFlaws_dst_of_bt hb (hd ▸ hf)

/-! ### The sources of a word, field by field -/

/-- A use that reads its field. -/
def Use.isSrc : Use → Bool
  | .src _ _ => true
  | _ => false

/-- The source that a field is, for the classes that can be empty; QSTAT never waits for its port (R160). -/
def Use.sources (opc : Nat) (u : Use) (o : Operand) : List Operand :=
  match u with
  | .src _ _ => if o.cls = 0 ∨ o.cls = 1 ∨ (o.cls = 4 ∧ opc ≠ 0x283) then [o] else []
  | _ => []

/-- Operand E as a source. -/
def EUse.sources (u : EUse) (o : Operand) : List Operand :=
  match u with
  | .reg _ => if o.cls = 0 then [o] else []
  | _ => []

/-- The sources of a word, by the use that its entry makes of each field. -/
theorem sourcesOf_eq {i : Instr} {w : Fields} {e : OpSpec} (he : opSpec i = some e) :
    sourcesOf i w = Use.sources e.opc e.a { w.a with bt := w.a.bt && e.opc != 0x340 } ++ Use.sources e.opc e.b w.b ++
      Use.sources e.opc e.c w.c ++ EUse.sources e.e w.e := by
  simp only [sourcesOf, he]
  rfl

/-- The classes that can be empty (R22, R24). -/
def Emptiable (o : Operand) : Prop := o.cls = 0 ∨ o.cls = 1 ∨ o.cls = 4

/-- Of the operands that can be empty, a field that is read is the only source it gives. -/
theorem mem_useSources {opc : Nat} {u : Use} {x o : Operand} (hq : opc ≠ 0x283) (ho : Emptiable o) :
    o ∈ Use.sources opc u x ↔ Use.isSrc u = true ∧ o = x := by
  cases u with
  | src cls mods =>
    simp only [Use.sources, Use.isSrc, hq, ne_eq, not_false_eq_true, and_true, true_and]
    split
    · exact List.mem_singleton
    · rename_i hx
      exact iff_of_false List.not_mem_nil (fun h => hx (h ▸ ho))
  | unused => simp [Use.sources, Use.isSrc]
  | dst cls sat => simp [Use.sources, Use.isSrc]

/-- A word's sources are the fields that its entry reads; QSTAT and LAUNCH are read apart (R160, R215). -/
theorem mem_sourcesOf {i : Instr} {w : Fields} {e : OpSpec} {o : Operand} (he : opSpec i = some e) (hq : e.opc ≠ 0x283)
    (hl : e.opc ≠ 0x340) (ho : Emptiable o) :
    o ∈ sourcesOf i w ↔ (Use.isSrc e.a = true ∧ o = w.a) ∨ (Use.isSrc e.b = true ∧ o = w.b) ∨ (Use.isSrc e.c = true ∧ o = w.c) ∨
      o ∈ EUse.sources e.e w.e := by
  rw [sourcesOf_eq he, bne_iff_ne.2 hl]
  simp only [List.mem_append, mem_useSources hq ho, Bool.and_true, or_assoc]

/-- A legal source field can be empty only if its use takes part in the checks. -/
theorem checked_iff_isSrc {n base : Nat} {u : Use} {o : Operand} (h : useFlaws n base u o = []) (ho : Emptiable o) :
    Use.checked u = true ↔ Use.isSrc u = true := by
  cases u with
  | src cls mods =>
    obtain ⟨k, hk, hc⟩ := exists_code_of_src h
    refine iff_of_true (List.any_eq_true.2 ⟨k, hk, ?_⟩) rfl
    unfold Emptiable at ho
    obtain ho | ho | ho := ho <;> rw [ho] at hc <;> revert hc <;> cases k <;> decide
  | unused => exact Iff.rfl
  | dst cls sat => exact Iff.rfl

/-! ### The operands checked are the sources listed -/

/-- What holds when the checks of a word's operands begin: the word is well formed, its guards are true, the m registers it names are full,
the privilege check (R200) and the target check of SKIPT (R90) pass. -/
structure Before (i : Instr) (w : Fields) (s : State) : Prop where
  word : fieldsOf i = some w
  wf : i.wellFormed = true
  masks : MasksFull (s.ctx s.cur) ([w.a, w.b, w.c] ++ Fields.maskSrc w)
  guards : (s.ctx s.cur).arch.guards w = true
  priv : (s.ctx s.cur).priv = true ∨ ∀ v, i ≠ .swr v ∧ i ≠ .tlbinv v ∧ i ≠ .cfgwr v ∧ i ≠ .cfgrd v
  target : ∀ v, i = .skipt v →
    ∃ pc first last, (s.ctx s.cur).arch.pos = .word pc first last ∧ pc + ((immOf w w.a).toNat + 1) ≤ last

/-- The operands checked are those that the word's entry lists, as far as they can be empty, and its destination, as far as it can be
pending. -/
structure OperandsListed (i : Instr) (w : Fields) (s : State) (srcs dsts : List Operand) : Prop where
  masks : MasksFull (s.ctx s.cur) srcs
  srcs : ∀ o, lacks (s.ctx s.cur) o = true ∨ o.cls = 4 → (o ∈ srcs ↔ o ∈ sourcesOf i w)
  dst : ∀ e cls sat, opSpec i = some e → e.d = .dst cls sat → w.d.cls = 0 ∨ w.d.cls = 1 → w.d ∈ dsts

theorem Before.legal {i : Instr} {w : Fields} {s : State} {e : OpSpec} (h : Before i w s) (he : opSpec i = some e)
    (hi : ∀ v, i ≠ .ill v) : LegalFields e w :=
  legalFields h.word h.wf he hi

/-- A mask is no source that can be empty. -/
theorem not_mem_maskSrc {e : OpSpec} {w : Fields} {o : Operand} (h : LegalFields e w) (he : e.e = .mask) (ho : Emptiable o) :
    o ∉ Fields.maskSrc w := by
  unfold Fields.maskSrc
  split
  · rename_i hm
    intro hin
    rw [List.mem_singleton.1 hin, Emptiable, h.mask he hm] at ho
    revert ho
    decide
  · exact List.not_mem_nil

/-- The only operand E of an entry is a scalar. -/
theorem code_of_reg {i : Instr} {e : OpSpec} {cls : List Cls} (he : opSpec i = some e) (hr : e.e = .reg cls) :
    ∀ k ∈ cls, k.code = 0 ∨ k.code = 6 ∨ k.code = 7 := by
  unfold opSpec at he
  split at he <;> cases he <;> cases hr <;> decide

/-- A pending destination of a legal word is one that its entry makes it check. -/
theorem mem_entryDsts {e : OpSpec} {w : Fields} {cls : List Cls} {sat : Bool} (h : LegalFields e w) (hd : e.d = .dst cls sat)
    (hc : w.d.cls = 0 ∨ w.d.cls = 1) : w.d ∈ entryDsts e w := by
  obtain ⟨k, hk, hcode⟩ := exists_code_of_dst (hd ▸ h.d)
  have hw : Use.written e.d = true := by
    rw [hd]
    refine List.any_eq_true.2 ⟨k, hk, ?_⟩
    obtain hc | hc := hc <;> rw [hc] at hcode <;> revert hcode <;> cases k <;> decide
  rw [entryDsts, if_pos hw]
  exact List.mem_singleton_self _

/-- A legal word that checks what its entry makes it check has checked the sources that the entry lists. -/
theorem lists_of_entry {i : Instr} {w : Fields} {s : State} {e : OpSpec} (h : Before i w s) (he : opSpec i = some e)
    (hi : ∀ v, i ≠ .ill v) (hq : e.opc ≠ 0x283) (hl : e.opc ≠ 0x340) :
    OperandsListed i w s (entrySrcs e w) (entryDsts e w) := by
  have hf := h.legal he hi
  have hreg : ∀ cls, e.e = .reg cls → ¬(w.e.cls = 1 ∨ w.e.cls = 2 ∨ w.e.cls = 4) := fun cls hr hc => by
    obtain ⟨k, hk, hcode⟩ := hf.reg cls hr
    have := code_of_reg he hr k hk
    rw [hcode] at this
    obtain hc | hc | hc := hc <;> rw [hc] at this <;> exact absurd this (by decide)
  have hmem (o : Operand) : o ∈ entrySrcs e w ↔ (Use.checked e.a = true ∧ o = w.a) ∨ (Use.checked e.b = true ∧ o = w.b) ∨
      (Use.checked e.c = true ∧ o = w.c) ∨ o ∈ extraSrcs e.e w := by
    simp only [entrySrcs, List.mem_append, List.mem_ite_nil_right, List.mem_singleton]
  refine ⟨fun o ho h2 => ?_, fun o ho => ?_, fun e' cls sat he' hd hc => ?_⟩
  · obtain ⟨-, rfl⟩ | ⟨-, rfl⟩ | ⟨-, rfl⟩ | ho := (hmem o).1 ho
    · exact h.masks _ (by simp) h2
    · exact h.masks _ (by simp) h2
    · exact h.masks _ (by simp) h2
    · unfold extraSrcs at ho
      split at ho
      · rename_i cls hr
        rw [List.mem_singleton.1 ho] at h2
        exact absurd (.inr (.inl h2)) (hreg cls hr)
      · exact h.masks o (List.mem_append_right _ ho) h2
      · cases ho
  · have ho := cls_of_lacks ho
    have hextra : o ∈ extraSrcs e.e w ↔ o ∈ EUse.sources e.e w.e := by
      cases hr : e.e with
      | reg cls =>
        simp only [extraSrcs, EUse.sources, List.mem_ite_nil_right, List.mem_singleton, iff_and_self]
        rintro rfl
        exact ho.resolve_right fun hc => hreg cls hr (hc.imp_right .inr)
      | mask => exact iff_of_false (not_mem_maskSrc hf hr ho) List.not_mem_nil
      | none => exact Iff.rfl
      | noMask => exact Iff.rfl
    have hfield {n : Nat} {u : Use} {x : Operand} (hu : useFlaws 8 n u x = []) :
        (Use.checked u = true ∧ o = x) ↔ (Use.isSrc u = true ∧ o = x) :=
      and_congr_left fun hox => checked_iff_isSrc hu (hox ▸ ho)
    rw [hmem, mem_sourcesOf he hq hl ho, hfield hf.a, hfield hf.b, hfield hf.c, hextra]
  · rw [he] at he'
    cases he'
    exact mem_entryDsts hf hd hc

/-- A field of none of the classes s, v and q cannot be empty. -/
theorem not_emptiable {cls : List Cls} {o : Operand} (h : ∃ k ∈ cls, k.code = o.cls.toNat)
    (hc : ∀ k ∈ cls, k ≠ .s ∧ k ≠ .v ∧ k ≠ .q) :
    ¬Emptiable o := fun ho => by
  obtain ⟨k, hk, hcode⟩ := h
  obtain ⟨hs, hv, hq⟩ := hc k hk
  obtain ho | ho | ho := ho <;> rw [ho] at hcode <;> revert hcode hs hv hq <;> cases k <;> decide

/-- A word may leave unchecked what can be neither empty nor pending. -/
theorem OperandsListed.of_subset {i : Instr} {w : Fields} {s : State} {srcs dsts srcs' dsts' : List Operand}
    (h : OperandsListed i w s srcs dsts) (hs : srcs' ⊆ srcs) (hn : ∀ o ∈ srcs, o ∉ srcs' → lacks (s.ctx s.cur) o = false ∧ o.cls ≠ 4)
    (hd : w.d ∈ dsts → w.d.cls = 0 ∨ w.d.cls = 1 → w.d ∈ dsts') : OperandsListed i w s srcs' dsts' where
  masks o ho := h.masks o (hs ho)
  srcs o ho := (h.srcs o ho).symm.trans ⟨fun hin => by
    by_contra hout
    obtain ⟨hl, h4⟩ := hn o hin hout
    exact ho.elim (fun ho => by rw [hl] at ho; cases ho) h4, fun hin => hs hin⟩ |>.symm
  dst e cls sat he hu hc := hd (h.dst e cls sat he hu hc) hc

/-- What is of no class that can be empty lacks nothing and is no port. -/
theorem lacks_of_not_emptiable {c : Ctx} {o : Operand} (h : ¬Emptiable o) : lacks c o = false ∧ o.cls ≠ 4 :=
  ⟨Bool.eq_false_iff.2 fun hl => h (cls_of_lacks (.inl hl)), fun h4 => h (.inr (.inr h4))⟩

/-! ### Words whose operands decide what they check -/

/-- QSTAT checks its destination alone: it never waits for its port (R160). -/
theorem lists_qstat {w : Fields} {s : State} (h : Before (.qstat w) w s) : OperandsListed (.qstat w) w s [] [w.d] := by
  have ha : ¬(w.a.cls = 0 ∨ w.a.cls = 1) := fun hc => by
    obtain ⟨k, hk, hcode⟩ := exists_code_of_src (h.legal rfl (by simp)).a
    rw [List.mem_singleton.1 hk] at hcode
    obtain hc | hc := hc <;> rw [hc] at hcode <;> exact absurd hcode (by decide)
  have hs : sourcesOf (.qstat w) w = [] := by
    rw [sourcesOf_eq rfl]
    simp only [Use.sources, EUse.sources, List.append_nil]
    exact if_neg fun hc => hc.elim (ha ∘ .inl) (fun hc => hc.elim (ha ∘ .inr) (fun hc => hc.2 rfl))
  exact ⟨fun _ ho => absurd ho List.not_mem_nil, fun _ _ => by rw [hs], fun _ _ _ _ _ _ => List.mem_singleton_self _⟩

/-- The B/T bit of LAUNCH's A has no meaning for the checks (R215). -/
theorem lists_launch {w : Fields} {s : State} (h : Before (.launch w) w s) :
    OperandsListed (.launch w) w s [{ w.a with bt := false }, w.b] [w.d] := by
  refine ⟨fun o ho => ?_, fun o ho => ?_, fun _ _ _ _ _ _ => List.mem_singleton_self _⟩
  · simp only [List.mem_cons, List.not_mem_nil, or_false] at ho
    obtain rfl | rfl := ho
    · exact h.masks w.a (by simp)
    · exact h.masks w.b (by simp)
  · rw [sourcesOf_eq rfl]
    simp [mem_useSources (opc := 0x340) (by decide) (cls_of_lacks ho), Use.isSrc, EUse.sources]

/-- MMA checks its B unless that is a mask register. -/
theorem lists_mma {w : Fields} {s : State} (h : Before (.mma w) w s) :
    OperandsListed (.mma w) w s (if w.b.cls = 2 then [] else [w.b]) [] := by
  refine (lists_of_entry h rfl (by simp) (by decide) (by decide)).of_subset (show _ ⊆ [w.b] by split <;> simp) (fun o ho hn => ?_)
    (fun hd _ => hd)
  obtain rfl : o = w.b := List.mem_singleton.1 ho
  have h2 : w.b.cls = 2 := by
    by_contra h2
    rw [if_neg h2] at hn
    exact hn ho
  exact lacks_of_not_emptiable (by rw [Emptiable, h2]; decide)

/-- MDRN checks its destination only when that is a v register. -/
theorem lists_mdrn {w : Fields} {s : State} (h : Before (.mdrn w) w s) :
    OperandsListed (.mdrn w) w s [w.b] (if w.d.cls = 1 then [w.d] else []) := by
  refine (lists_of_entry h rfl (by simp) (by decide) (by decide)).of_subset (List.Subset.refl _)
    (fun o ho hn => absurd ho hn) (fun _ hc => ?_)
  obtain ⟨k, hk, hcode⟩ := exists_code_of_dst (h.legal rfl (by simp)).d
  obtain hc | hc := hc
  · rw [hc] at hcode
    exact absurd ⟨k, hk, hcode⟩ (by decide : ¬∃ k ∈ [Cls.v, .q, .b], k.code = (0 : BitVec 3).toNat)
  · rw [if_pos hc]
    exact List.mem_singleton_self _

/-- RLPUSH checks its B, its C and its mask as a vector word, and of an accumulator as B its C alone. -/
theorem lists_rlpush {w : Fields} {s : State} (h : Before (.rlpush w) w s) :
    OperandsListed (.rlpush w) w s ([w.a] ++ (if w.b.cls = 1 then [w.b, w.c] ++ Fields.maskSrc w else [w.c])) [] := by
  have hall : OperandsListed (.rlpush w) w s ([w.a, w.b, w.c] ++ Fields.maskSrc w) [] :=
    lists_of_entry h rfl (by simp) (by decide) (by decide)
  have hf := h.legal rfl (by simp)
  split
  · exact hall
  · rename_i h1
    refine hall.of_subset (by simp) (fun o ho hn => lacks_of_not_emptiable ?_) (fun hd _ => hd)
    have hout : o = w.b ∨ o ∈ Fields.maskSrc w := by
      simp only [List.mem_append, List.mem_cons, List.not_mem_nil, or_false] at ho hn
      tauto
    obtain rfl | hmask := hout
    · obtain ⟨k, hk, hcode⟩ := exists_code_of_src hf.b
      simp only [List.mem_cons, List.not_mem_nil, or_false] at hk
      obtain rfl | rfl := hk
      · exact absurd (BitVec.eq_of_toNat_eq hcode.symm) h1
      · exact not_emptiable (cls := [.a]) ⟨.a, by simp, hcode⟩ (by decide)
    · exact fun ho => not_mem_maskSrc hf rfl ho hmask

/-- B of a VBCAST of a scalar holds zeros (R121). -/
theorem isZero_vbcast {w : Fields} {s : State} (h : Before (.vbcast w) w s) (hv : Operand.isVec w.a = false) :
    Operand.isZero w.b = true := by
  have hs : (w.a.cls == 0 || w.a.cls == 6 || w.a.cls == 7) = true := by
    have hcls := exists_code_of_src (h.legal rfl (by simp)).a
    unfold Operand.isVec at hv
    generalize w.a.cls = x at hv hcls
    revert x
    decide
  have hspec : wordSpec (.vbcast w) w = some _ := congrArg some (if_pos hs)
  obtain ⟨-, -, hb, -⟩ := operandFlaws_eq_nil hspec (by simp) (wordFlaws_eq_nil h.word h.wf)
  exact isZero_of_unused hb

/-- VBCAST of a scalar leaves its B, which holds zeros, unchecked (R121). -/
theorem lists_vbcast {w : Fields} {s : State} (h : Before (.vbcast w) w s) :
    OperandsListed (.vbcast w) w s ((if Operand.isVec w.a then [w.a, w.b] else [w.a]) ++ Fields.maskSrc w) [w.d] := by
  have hall : OperandsListed (.vbcast w) w s ([w.a, w.b] ++ Fields.maskSrc w) [w.d] :=
    lists_of_entry h rfl (by simp) (by decide) (by decide)
  split
  · exact hall
  · rename_i hv
    refine hall.of_subset (by simp) (fun o ho hn => ?_) (fun hd _ => hd)
    obtain rfl : o = w.b := by
      simp only [List.mem_append, List.mem_cons, List.not_mem_nil, or_false] at ho hn
      tauto
    have hz := isZero_vbcast h (Bool.eq_false_iff.2 hv)
    exact ⟨lacks_of_isZero hz, fun h4 => by simp [Operand.isZero, h4] at hz⟩

/-! ### Every word checks its operands -/

/-- Every word but BPOP and BRET gives the shared check the operands that its entry lists, or has none that can be empty or pending. -/
def ChecksItsOperands (i : Instr) (w : Fields) (s : State) : Prop :=
  ∃ srcs dsts, OperandsListed i w s srcs dsts ∧ (Checks i w s srcs dsts ∨ srcs = [] ∧ dsts = [])

/-- The fields of an instruction are the ones that `Before` speaks of. -/
theorem Before.fields_eq {i : Instr} {v w : Fields} {s : State} (h : Before i w s) (hv : fieldsOf i = some v) : v = w :=
  Option.some.inj (hv.symm.trans h.word)

/-- ILL alone has opcode 0. -/
theorem ne_ill_of_opc {i : Instr} {e : OpSpec} (he : opSpec i = some e) (h0 : e.opc ≠ 0) (v : Fields) : i ≠ .ill v := by
  rintro rfl
  cases he
  exact h0 rfl

/-- A word whose body checks what its entry makes it check. -/
theorem Before.checks {i : Instr} {v w : Fields} {s : State} {e : OpSpec} {srcs dsts : List Operand} {body : State → Res}
    (h : Before i w s) (hv : fieldsOf i = some v) (he : opSpec i = some e) (hopc : e.opc ≠ 0 ∧ e.opc ≠ 0x283 ∧ e.opc ≠ 0x340)
    (hb : ChecksFirst srcs dsts body) (hx : ∀ s, exec i s = s.word v body)
    (hs : srcs = entrySrcs e v := by rfl) (hd : dsts = entryDsts e v := by rfl) :
    ChecksItsOperands i w s := by
  obtain rfl := h.fields_eq hv
  obtain ⟨h0, hq, hl⟩ := hopc
  exact ⟨_, _, lists_of_entry h he (ne_ill_of_opc he h0) hq hl, .inl (hs ▸ hd ▸ hb.word hx h.guards)⟩

/-- A word whose entry lists nothing that can be empty or pending. -/
theorem Before.checks_nothing {i : Instr} {v w : Fields} {s : State} {e : OpSpec} (h : Before i w s) (hv : fieldsOf i = some v)
    (he : opSpec i = some e) (hopc : e.opc ≠ 0 ∧ e.opc ≠ 0x283 ∧ e.opc ≠ 0x340) (hs : entrySrcs e v = [])
    (hd : entryDsts e v = []) :
    ChecksItsOperands i w s := by
  obtain rfl := h.fields_eq hv
  obtain ⟨h0, hq, hl⟩ := hopc
  exact ⟨_, _, lists_of_entry h he (ne_ill_of_opc he h0) hq hl, .inr ⟨hs, hd⟩⟩

/-- SKIPT with its target inside the block checks its B (R90). -/
theorem checks_skipt {v w : Fields} {s : State} (h : Before (.skipt v) w s) : Checks (.skipt v) w s [w.b] [] := by
  obtain rfl := h.fields_eq rfl
  obtain ⟨pc, first, last, hpos, hle⟩ := h.target v rfl
  have hstay : (s.ctx s.cur).arch.leaves ((immOf v v.a).toNat + 1) = false := by
    simp only [Arch.leaves, hpos, decide_eq_false_iff_not]
    omega
  exact ⟨_, exec_of_body h.guards (if_neg (by rw [hstay]; decide)) rfl⟩

/-- A privileged word checks its operands once the privilege check has passed (R200). -/
theorem Before.checks_priv {i : Instr} {v w : Fields} {s : State} {e : OpSpec} {srcs dsts : List Operand} {t : Res}
    {k : State → Ctx → Res} (h : Before i w s) (hi : ∃ v, i = .swr v ∨ i = .tlbinv v ∨ i = .cfgwr v ∨ i = .cfgrd v)
    (hv : fieldsOf i = some v) (he : opSpec i = some e) (hopc : e.opc ≠ 0 ∧ e.opc ≠ 0x283 ∧ e.opc ≠ 0x340)
    (hx : ∀ s, exec i s = s.word v (fun s => if (s.ctx s.cur).priv = false then t else s.srcs srcs dsts (k s)))
    (hs : srcs = entrySrcs e v := by rfl) (hd : dsts = entryDsts e v := by rfl) : ChecksItsOperands i w s := by
  obtain rfl := h.fields_eq hv
  obtain ⟨h0, hq, hl⟩ := hopc
  have hp := h.priv.resolve_right fun hn => by
    obtain ⟨v, hv⟩ := hi
    obtain ⟨hswr, htlb, hcw, hcr⟩ := hn v
    tauto
  exact ⟨_, _, lists_of_entry h he (ne_ill_of_opc he h0) hq hl,
    .inl (hs ▸ hd ▸ ⟨_, exec_of_body h.guards (hx s) (if_neg (by rw [hp]; decide))⟩)⟩

/-- Every word but BPOP and BRET checks its operands: by family, with what its body begins with. -/
theorem Before.checksItsOperands {i : Instr} {w : Fields} {s : State} (h : Before i w s) (hr : ∀ v, i ≠ .bpop v ∧ i ≠ .bret v) :
    ChecksItsOperands i w s := by
  cases i with
  | ill v =>
    exact ⟨[], [], ⟨fun _ ho => absurd ho List.not_mem_nil, fun _ _ => Iff.rfl, fun _ _ _ he hd _ => by cases he; cases hd⟩,
      .inr ⟨rfl, rfl⟩⟩
  | nop v | enda v | brf v | commit v | abort v | fence v | rtt v => exact h.checks_nothing rfl rfl (by decide) rfl rfl
  | add v | sub v | mul v | mulh v | div v | rem v | madd v | and v | or v | xor v | andn v | shl v | shr v | sar v | rotr v | min v
  | max v | clz v | popc v | bfx v | bfi v | mov v | sel v | cmp v | fadd v | fsub v | fmul v | ffma v | fmin v | fmax v | fdiv v | fsqrt v
  | fcmp v | fcvt v | plog v | vcmp v | vfcmp v | vcvt v | vqk4 v | vins v | vext v | vcompr v | vexpnd v | vrmax v | vrmin v | mlog v
  | mcnt v | mfirst v =>
    exact h.checks rfl rfl (by decide) checksFirst_alu (fun _ => rfl)
  | vabs v | vclz v | vpopc v | vfexp2 v | vflog2 v | vfrcp v | vfrsq v | vfsig v =>
    exact h.checks rfl rfl (by decide) checksFirst_vec1 (fun _ => rfl)
  | vadd v | vsub v | vmul v | vmulh v | vand v | vor v | vxor v | vshl v | vshr v | vsar v | vmin v | vmax v | vfadd v | vfsub v | vfmul v
  | vfmin v | vfmax v =>
    exact h.checks rfl rfl (by decide) checksFirst_vec2 (fun _ => rfl)
  | vmadd v | vffma v => exact h.checks rfl rfl (by decide) checksFirst_vec3 (fun _ => rfl)
  | vadds v | vsubs v | vsel v | vdot v | vperm v | vslide v | vzip v | vunzip v | vscan v | viota v =>
    exact h.checks rfl rfl (by decide) checksFirst_vecTo (fun _ => rfl)
  | peek v | pushn v | tsset v | handoff v | trap v | yield v | pref v | binit v | bpush v | bht v | cflush v | cinv v | waitw v
  | barinit v | bararr v | bartx v | barwait v | qbind v | qpush v | qmark v | qfilt v | qclose v | send v | sendi v | mldb v | mswap v
  | msca v | mzero v | mstat v | rldecl v | rlmerge v | rlsend v | rlread v | rlth v | rlclr v | rnorm v | rscan v | cancel v | cstat v
  | srd v | crc32c v | sm3c v | halt v =>
    exact h.checks rfl rfl (by decide) checksFirst_srcs (fun _ => rfl)
  | aadd v | amin v | amax v | aand v | aor v | axor v | axchg v | acas v | afadd v | ainc v =>
    exact h.checks rfl rfl (by decide) checksFirst_atomic (fun _ => rfl)
  | ld v | vlds v =>
    exact h.checks rfl rfl (by decide) checksFirst_load (fun _ => rfl)
  | st v | vsts v =>
    exact h.checks rfl rfl (by decide) checksFirst_store (fun _ => rfl)
  | vld v | vgath v => exact h.checks rfl rfl (by decide) checksFirst_vecLoad (fun _ => rfl)
  | vst v | vscat v => exact h.checks rfl rfl (by decide) checksFirst_vecStore (fun _ => rfl)
  | vrsum v => exact h.checks rfl rfl (by decide) (.ite (isInt v.ty.toNat = true) checksFirst_alu checksFirst_alu) (fun _ => rfl)
  | skipt v => exact ⟨_, _, lists_of_entry h rfl (by simp) (by decide) (by decide), .inl (checks_skipt h)⟩
  | swr v | tlbinv v | cfgwr v | cfgrd v => exact h.checks_priv ⟨v, by simp⟩ rfl rfl (by decide) (fun _ => rfl)
  | qstat v =>
    obtain rfl := h.fields_eq rfl
    exact ⟨_, _, lists_qstat h, .inl (checksFirst_srcs.word (fun _ => rfl) h.guards)⟩
  | launch v =>
    obtain rfl := h.fields_eq rfl
    exact ⟨_, _, lists_launch h, .inl (checksFirst_srcs.word (fun _ => rfl) h.guards)⟩
  | mma v =>
    obtain rfl := h.fields_eq rfl
    exact ⟨_, _, lists_mma h, .inl (checksFirst_srcs.word (fun _ => rfl) h.guards)⟩
  | mdrn v =>
    obtain rfl := h.fields_eq rfl
    exact ⟨_, _, lists_mdrn h, .inl (checksFirst_srcs.word (fun _ => rfl) h.guards)⟩
  | rlpush v =>
    obtain rfl := h.fields_eq rfl
    exact ⟨_, _, lists_rlpush h, .inl (checksFirst_srcs.word (fun _ => rfl) h.guards)⟩
  | vbcast v =>
    obtain rfl := h.fields_eq rfl
    exact ⟨_, _, lists_vbcast h, .inl (checksFirst_vecTo.word (fun _ => rfl) h.guards)⟩
  | bpop v => exact absurd rfl (hr v).1
  | bret v => exact absurd rfl (hr v).2
  | _ => cases h.word

/-! ### The words that take slots of a ring -/

/-- The ring that a word takes slots of, and how many (R24, R141). -/
def ringOf (i : Instr) (c : Ctx) : Option (Operand × Nat) :=
  match i with
  | .bpop v => some (v.a, 1)
  | .bret v => some (v.a, c.bretNeed v)
  | _ => none

/-- A word that takes n slots of a ring gives the ring's check its other operands, none of which is a port. -/
def ChecksRing (i : Instr) (w : Fields) (s : State) (o : Operand) (n : Nat) : Prop :=
  ∃ srcs dsts need, ∃ k : State → Ctx → Res, OperandsListed i w s srcs dsts ∧ (∀ x ∈ srcs, x.cls ≠ 4) ∧
    need (s.ctx s.cur) = n ∧
    ∀ t, exec i t = t.word w (fun t => t.srcsRing o need srcs dsts (k t))

/-- BPOP and BRET check their ring and their other operands. -/
theorem Before.checksRing {i : Instr} {w : Fields} {s : State} {o : Operand} {n : Nat} (h : Before i w s)
    (hr : ringOf i (s.ctx s.cur) = some (o, n)) : ChecksRing i w s o n := by
  unfold ringOf at hr
  split at hr
  · rename_i v
    cases hr
    obtain rfl := h.fields_eq rfl
    exact ⟨[], [v.d], fun _ => 1, _, lists_of_entry h rfl (by simp) (by decide) (by decide), by simp, rfl, fun _ => rfl⟩
  · rename_i v
    cases hr
    obtain rfl := h.fields_eq rfl
    have hb : v.b.cls ≠ 4 := fun h4 => by
      have hcls := exists_code_of_src (h.legal rfl (by simp)).b
      rw [h4] at hcls
      exact absurd hcls (by decide)
    exact ⟨[v.b], [], fun c => c.bretNeed v, _, lists_of_entry h rfl (by simp) (by decide) (by decide), by simpa using hb,
      rfl, fun _ => rfl⟩
  · cases hr

/-! ### What the checks answer -/

/-- The ring of a word holds too few slots (R24). -/
def Short (i : Instr) (s : State) (o : Operand) : Prop := ∃ n, ringOf i (s.ctx s.cur) = some (o, n) ∧ RingShort s o n

/-- A word lacks an operand of its entry: a source, or a destination that is pending. -/
def Lacking (i : Instr) (w : Fields) (s : State) : Prop :=
  (∃ o ∈ sourcesOf i w, lacks (s.ctx s.cur) o = true) ∨ ∃ e cls sat, opSpec i = some e ∧ e.d = .dst cls sat ∧
    (w.d.cls = 0 ∧ (s.ctx s.cur).arch.full (.s w.d.idx.toNat) = false ∨
      w.d.cls = 1 ∧ (s.ctx s.cur).arch.full (.v w.d.idx.toNat) = false)

/-- The answers that R22 to R24 and R194 give for the operands of a word. -/
structure Answers (i : Instr) (w : Fields) (s : State) : Prop where
  ringTraps : (∃ o, Short i s o ∧ o.bt = true) → Traps i s 2 0
  ringWaits : (∃ o, Short i s o ∧ o.bt = false) → (∀ o ∈ sourcesOf i w, lacks (s.ctx s.cur) o = false) → ∃ why, Waits i s why
  traps : (∃ o ∈ sourcesOf i w, lacks (s.ctx s.cur) o = true ∧ o.bt = true ∧ ¬Late s o) → Traps i s 2 0
  waitsLate : (∃ o ∈ sourcesOf i w, Late s o) →
    (∀ o ∈ sourcesOf i w, lacks (s.ctx s.cur) o = true → o.bt = true → Late s o) →
    (∀ o ∈ sourcesOf i w, o.cls = 4 → s.mergeStuck s.cur o.idx.toNat = false) → ∃ why, Waits i s why
  waitsMissing : (∀ o, Short i s o → o.bt = false) → (∀ o ∈ sourcesOf i w, ¬Late s o) →
    MayWait (s.ctx s.cur) (sourcesOf i w) → Lacking i w s →
    ∃ why, Waits i s why

section
variable {i : Instr} {w : Fields} {s : State} {srcs dsts : List Operand}

/-- A fact about the listed sources that lack something, or are ports, holds of the checked ones. -/
theorem OperandsListed.forall_srcs (hl : OperandsListed i w s srcs dsts) {P : Operand → Prop} (h : ∀ o ∈ sourcesOf i w, P o) :
    ∀ o ∈ srcs, lacks (s.ctx s.cur) o = true ∨ o.cls = 4 → P o :=
  fun o ho hc => h o ((hl.srcs o hc).1 ho)

theorem OperandsListed.not_late (hl : OperandsListed i w s srcs dsts) (h : ∀ o ∈ sourcesOf i w, ¬Late s o) :
    ∀ o ∈ srcs, ¬Late s o :=
  fun o ho hlate => hl.forall_srcs h o ho (.inr hlate.1) hlate

theorem OperandsListed.mayWait (hl : OperandsListed i w s srcs dsts) (h : MayWait (s.ctx s.cur) (sourcesOf i w)) :
    MayWait (s.ctx s.cur) srcs :=
  fun o ho hlk => hl.forall_srcs h o ho (.inl hlk) hlk

/-- What the entry's sources and destination miss, the check misses. -/
theorem OperandsListed.missing (hl : OperandsListed i w s srcs dsts)
    (h : Lacking i w s) :
    Missing (s.ctx s.cur) srcs dsts := by
  obtain ⟨o, ho, hlk⟩ | ⟨e, cls, sat, he, hd, hp⟩ := h
  · exact .inl ⟨o, (hl.srcs o (.inl hlk)).2 ho, hlk⟩
  · refine .inr ⟨w.d, hl.dst e cls sat he hd (hp.imp And.left And.left), ?_⟩
    obtain ⟨hc, hf⟩ | ⟨hc, hf⟩ := hp
    · exact ⟨_, by rw [Operand.reg, if_pos hc], hf⟩
    · exact ⟨_, by rw [Operand.reg, if_neg (by rw [hc]; decide), if_pos hc], hf⟩

/-- A body that answers the EMPTY trap makes its word trap. -/
theorem traps_of_finish {r : Res} (hx : exec i s = s.finish s.cur w.y r) (hr : r = .trap 2 0) : Traps i s 2 0 := by
  rw [Traps, hx, hr]
  rfl

/-- A body that answers a wait makes its word wait. -/
theorem waits_of_finish {r : Res} (hx : exec i s = s.finish s.cur w.y r) (hr : ∃ why, r = .wait why) : ∃ why, Waits i s why := by
  obtain ⟨why, rfl⟩ := hr
  exact ⟨why, hx⟩

/-- A word without a ring is never short of slots. -/
theorem not_short (hr : ringOf i (s.ctx s.cur) = none) (o : Operand) : ¬Short i s o := fun ⟨n, hn, _⟩ => by
  rw [hr] at hn
  cases hn

/-- The answers for a word that begins with the shared check. -/
theorem OperandsListed.answers (hl : OperandsListed i w s srcs dsts) (hr : ringOf i (s.ctx s.cur) = none) (hc : Checks i w s srcs dsts) :
    Answers i w s := by
  obtain ⟨k, hx⟩ := hc
  refine ⟨fun ⟨o, hs, _⟩ => absurd hs (not_short hr o), fun ⟨o, hs, _⟩ => absurd hs (not_short hr o), fun ⟨o, ho, hlk, hb⟩ => ?_,
    fun ⟨o, ho, hlate⟩ hb hq => ?_, fun _ hn hw hm => ?_⟩
  · exact traps_of_finish hx (srcs_traps hl.masks ⟨o, (hl.srcs o (.inl hlk)).2 ho, hlk, hb⟩)
  · exact waits_of_finish hx (srcs_waits_late hl.masks ⟨o, (hl.srcs o (.inr hlate.1)).2 ho, hlate⟩
      (fun o ho hlk => hl.forall_srcs hb o ho (.inl hlk) hlk) (fun o ho h4 => hl.forall_srcs hq o ho (.inr h4) h4))
  · exact waits_of_finish hx (srcs_waits_missing hl.masks (hl.not_late hn) (hl.mayWait hw) (hl.missing hm))

/-- A word whose entry lists nothing to check is asked for no answer. -/
theorem OperandsListed.answers_of_nil (hl : OperandsListed i w s [] []) (hr : ringOf i (s.ctx s.cur) = none) : Answers i w s := by
  refine ⟨fun ⟨o, hs, _⟩ => absurd hs (not_short hr o), fun ⟨o, hs, _⟩ => absurd hs (not_short hr o), fun ⟨o, ho, hlk, _⟩ => ?_,
    fun ⟨o, ho, hlate⟩ _ _ => ?_, fun _ _ _ hm => ?_⟩
  · exact absurd ((hl.srcs o (.inl hlk)).2 ho) List.not_mem_nil
  · exact absurd ((hl.srcs o (.inr hlate.1)).2 ho) List.not_mem_nil
  · obtain ⟨o, ho, _⟩ | ⟨o, ho, _⟩ := hl.missing hm <;> exact absurd ho List.not_mem_nil

/-- The answers for a word without a ring. -/
theorem Before.answers_of_srcs (h : Before i w s) (hr : ringOf i (s.ctx s.cur) = none) : Answers i w s := by
  obtain ⟨srcs, dsts, hl, hc | ⟨rfl, rfl⟩⟩ :=
    h.checksItsOperands fun v => ⟨(by rintro rfl; cases hr), (by rintro rfl; cases hr)⟩
  · exact hl.answers hr hc
  · exact hl.answers_of_nil hr

/-- The answers for a word that takes slots of a ring. -/
theorem Before.answers_of_ring (h : Before i w s) {o : Operand} {n : Nat} (hr : ringOf i (s.ctx s.cur) = some (o, n)) : Answers i w s := by
  obtain ⟨srcs, dsts, need, k, hl, hports, rfl, hword⟩ := h.checksRing hr
  have hx := exec_of_body h.guards (hword s) rfl
  have hshort {o' : Operand} (hs : Short i s o') : o' = o ∧ RingShort s o (need (s.ctx s.cur)) := by
    obtain ⟨n, hn, hs⟩ := hs
    rw [hr] at hn
    cases hn
    exact ⟨rfl, hs⟩
  refine ⟨fun ⟨o', hs, hb⟩ => ?_, fun ⟨o', hs, hb⟩ hfull => ?_, fun ⟨o, ho, hlk, hb, _⟩ => ?_, fun ⟨o, ho, hlate⟩ _ _ => ?_,
    fun hb _ hw hm => ?_⟩
  · obtain ⟨rfl, hs⟩ := hshort hs
    exact traps_of_finish hx (srcsRing_traps_short hs hb)
  · obtain ⟨rfl, hs⟩ := hshort hs
    have hw : MayWait (s.ctx s.cur) (sourcesOf i w) := fun o ho hlk => by rw [hfull o ho] at hlk; cases hlk
    exact waits_of_finish hx (srcsRing_waits_short hl.masks (hl.mayWait hw) hports hs hb)
  · exact traps_of_finish hx (srcsRing_traps hl.masks ⟨o, (hl.srcs o (.inl hlk)).2 ho, hlk, hb⟩)
  · exact absurd hlate.1 (hports o ((hl.srcs o (.inr hlate.1)).2 ho))
  · exact waits_of_finish hx (srcsRing_waits_missing hl.masks (hl.mayWait hw) (hl.missing hm) (fun hs => hb o ⟨_, hr, hs⟩))

/-- The checks of any word answer as R22 to R24 and R194 say. -/
theorem Before.answers (h : Before i w s) : Answers i w s := by
  cases hr : ringOf i (s.ctx s.cur) with
  | none => exact h.answers_of_srcs hr
  | some r => exact h.answers_of_ring hr

end

/-- Settles O54: every word gives the shared check of its operands the sources that its entry lists, and the check answers, in its order, the
EMPTY trap, a wait for merges, and a wait for what is missing. -/
theorem sourceChecks : Obligations.SourceChecks := by
  unfold Obligations.SourceChecks
  intro i w s hw c src late before ring short
  have hbefore (hb : before) : Before i w s := by
    obtain ⟨hwf, hm, hg, hp, ht⟩ := hb
    exact ⟨hw, hwf, hm, hg, hp, ht⟩
  refine ⟨fun hb => (hbefore hb).answers.ringTraps, fun hb => (hbefore hb).answers.ringWaits, fun hb => (hbefore hb).answers.traps,
    fun hb => (hbefore hb).answers.waitsLate, fun hb hs hn hlk hw => ?_, fun hb hs hn hfull e cls sat he hd hp => ?_,
    fun e cls sat n he hd hbt => wordFlaw_of_bt hw he hd hbt⟩
  · exact (hbefore hb).answers.waitsMissing hs hn hw (.inl hlk)
  · exact (hbefore hb).answers.waitsMissing hs hn (fun o ho hlk => by rw [hfull o ho] at hlk; cases hlk)
      (.inr ⟨e, cls, sat, he, hd, hp⟩)

end Sys2Proof

/-!
The vector integer words (R107, R108, R112 to R115): each word of one, two or three sources element by element, the pairs of the widening
words, and the exact sum of the dot product.
-/

namespace Sys2Proof

open Sys2Proof.Machine

/-! ### Elementwise words -/

/-- The results of the elements may be given by any function with the same values. -/
theorem GivesEach.congr {i : Instr} {s : State} {w : Fields} {srcs : List Operand} {ty : Nat} {f g : Nat → Nat}
    (h : GivesEach i s w srcs ty f) (hfg : ∀ j, f j = g j) : GivesEach i s w srcs ty g := funext hfg ▸ h

/-- The integer types are the first eight (R37). -/
theorem le_of_isInt {ty : Nat} (h : isInt ty = true) : ty ≤ 13 := by
  have : ty < 8 := of_decide_eq_true h
  omega

/-- An exact integer operation element by element, wrapped or clamped once (R37, R113). -/
theorem givesEach_vint2 {i : Instr} {s : State} {w : Fields} {f : Int → Int → Int} (hr : Runs s w (withMask w [w.a, w.b]) [w.d])
    (hd : w.d.cls = 1) (hty : w.ty.toNat ≤ 13) (he : exec i s = s.word w (fun s => s.vint2 w f)) :
    GivesEach i s w (withMask w [w.a, w.b]) w.ty.toNat (fun j => toTy w.ty.toNat (Fields.sat w)
      (f (tyVal w.ty.toNat (element (s.ctx s.cur) w w.ty.toNat w.a j)) (tyVal w.ty.toNat (element (s.ctx s.cur) w w.ty.toNat w.b j)))) :=
  givesEach_vec2 hr hd hty he

/-- VSEL chooses element by element (R113). -/
theorem givesEach_vsel {s : State} {w : Fields} (hr : Runs s w (withMask w [w.a, w.b, w.c]) [w.d]) (hd : w.d.cls = 1)
    (hty : w.ty.toNat ≤ 13) :
    GivesEach (.vsel w) s w (withMask w [w.a, w.b, w.c]) w.ty.toNat (fun j =>
      if bit ((s.ctx s.cur).mask w.c).toNat (govern w.ty.toNat j) then element (s.ctx s.cur) w w.ty.toNat w.a j
      else element (s.ctx s.cur) w w.ty.toNat w.b j) := by
  refine givesEach_vec hr hd hty rfl ?_ (fun j hj => ?_)
  · rw [zip3With_length] <;> simp [elts_length]
  · rw [zip3With_getElem (by simp [elts_length]) (by simp [elts_length]) (by simpa using hj)]
    simp only [List.getElem_range, elts_getElem]

/-! ### Pairs of elements (R114) -/

theorem pairs2_length : ∀ l : List Nat, (pairs2 l).length = l.length / 2
  | [] => rfl
  | [_] => by simp [pairs2]
  | _ :: _ :: r => by
    simp only [pairs2, List.length_cons, pairs2_length r]
    omega

/-- Pair j is elements 2j and 2j + 1. -/
theorem pairs2_getElem : ∀ {l : List Nat} {j : Nat} (h : 2 * j + 1 < l.length),
    (pairs2 l)[j]'(by rw [pairs2_length]; omega) = (l[2 * j], l[2 * j + 1])
  | _ :: _ :: _, 0, _ => rfl
  | _ :: _ :: r, j + 1, h => pairs2_getElem (l := r) (j := j) (by simp only [List.length_cons] at h; omega)

/-- A type whose pairs have a wider type has twice the elements of it. -/
theorem nElems_wider {ty : Nat} (h : ty ∈ [0, 1, 2, 4, 5, 6]) : ty + 1 ≤ 13 ∧ nElems ty = 2 * nElems (ty + 1) := by
  revert ty
  decide

/-- A widening word combines the pair of elements 2j and 2j + 1 with element j of B, and wraps or clamps once (R57, R114). -/
theorem givesEach_widen {i : Instr} {s : State} {w : Fields} {f : Int → Int → Int → Int}
    (hr : Runs s w (withMask w [w.a, w.b]) [w.d]) (hd : w.d.cls = 1) (hty : w.ty.toNat ∈ [0, 1, 2, 4, 5, 6])
    (he : exec i s = s.word w (fun s => s.widen w f)) :
    let c := s.ctx s.cur
    let ty := w.ty.toNat
    let a (j : Nat) : Int := tyVal ty (element c w ty w.a j)
    GivesEach i s w (withMask w [w.a, w.b]) (ty + 1) (fun j => toTy (ty + 1) (Fields.sat w)
      (f (a (2 * j)) (a (2 * j + 1)) (tyVal (ty + 1) (element c w (ty + 1) w.b j)))) := by
  obtain ⟨hwide, hn⟩ := nElems_wider hty
  refine givesEach_vec hr hd hwide he ?_ (fun j hj => ?_)
  · simp only [List.length_zipWith, pairs2_length, elts_length, wider]; omega
  · simp only [List.getElem_zipWith]
    rw [pairs2_getElem (by rw [elts_length]; omega)]
    simp only [elts_getElem, wider]

/-! ### The dot product (R57, R115) -/

/-- The type of the bytes that VDOT multiplies: of the signedness of its own type. -/
def byteTy (ty : Nat) : Nat := if isSigned ty then 0 else 4

/-- The value of a byte at its type. -/
theorem tyVal_byteTy (ty x : Nat) (hx : x < 2 ^ 8) : tyVal (byteTy ty) x = if isSigned ty then sgn 8 x else (x : Int) := by
  unfold byteTy
  split
  · rfl
  · exact congrArg Int.ofNat (Nat.mod_eq_of_lt hx)

/-- Without a modifier, the bits of a source stay (R66). -/
theorem modBits_zero (ty x : Nat) : modBits ty 0 x = x % 2 ^ tyBits ty := by
  unfold modBits
  exact if_pos (.inl rfl)

/-- A scalar source of an integer type (R99). -/
theorem scalar_of_isInt {c : Ctx} {w : Fields} {ty : Nat} {o : Operand} (h : isInt ty = true) :
    c.scalar w ty o = modBits ty o.mod.toNat (c.raw w o).toNat := if_neg (by simp [h])

/-- Without a modifier, element k of a source of VDOT is its byte k. -/
theorem element_byteTy {c : Ctx} {w : Fields} {o : Operand} (ty : Nat) (hm : o.mod = 0) {k : Nat} (hk : k < 256) :
    element c w (byteTy ty) o k = elem 8 (c.bytes256 w o) k := by
  have hb : tyBits (byteTy ty) = 8 ∧ isInt (byteTy ty) = true := by unfold byteTy; split <;> decide
  unfold element Ctx.bytes256
  split
  · rw [hm, hb.1]
    exact (modBits_zero ..).trans (by rw [hb.1, Nat.mod_eq_of_lt elem_lt])
  · rw [elem_pack (by rw [List.length_replicate]; exact hk), List.getElem_replicate, scalar_of_isInt hb.2, scalar_of_isInt rfl, hm]
    exact (modBits_zero ..).trans (by rw [hb.1]; exact (Nat.mod_eq_of_lt (Nat.mod_lt _ (by decide))).symm)

/-- The sum of eight products is the exact sum of the products of elements. -/
theorem dot8_eq_sum {c : Ctx} {w : Fields} {ty j : Nat} (ha : w.a.mod = 0) (hb : w.b.mod = 0) (hj : j < 32) :
    dot8 (isSigned ty) (c.bytes256 w w.a) (c.bytes256 w w.b) j =
      ((List.range 8).map (fun k => tyVal (byteTy ty) (element c w (byteTy ty) w.a (8 * j + k)) *
        tyVal (byteTy ty) (element c w (byteTy ty) w.b (8 * j + k)))).sum := by
  have hval (o : Operand) (ho : o.mod = 0) (k : Nat) (hk : k < 8) :
      tyVal (byteTy ty) (element c w (byteTy ty) o (8 * j + k)) =
        if isSigned ty then sgn 8 (elem 8 (c.bytes256 w o) (8 * j + k)) else (elem 8 (c.bytes256 w o) (8 * j + k) : Int) := by
    rw [element_byteTy ty ho (by omega), tyVal_byteTy ty _ elem_lt]
  unfold dot8
  rw [← List.sum_eq_foldl]
  congr 1
  refine List.map_congr_left (fun k hk => ?_)
  rw [hval _ ha k (List.mem_range.1 hk), hval _ hb k (List.mem_range.1 hk)]

/-- VDOT adds the exact sum of eight products to element j of C and wraps or clamps once; the elements from 32 on are zero (R57, R115). -/
theorem givesEach_vdot {s : State} {w : Fields} (hr : Runs s w (withMask w [w.a, w.b, w.c]) [w.d]) (hd : w.d.cls = 1)
    (hty : w.ty.toNat ≤ 13) (ha : w.a.mod = 0) (hb : w.b.mod = 0) :
    let c := s.ctx s.cur
    let ty := w.ty.toNat
    let p (k : Nat) : Int := tyVal (byteTy ty) (element c w (byteTy ty) w.a k) * tyVal (byteTy ty) (element c w (byteTy ty) w.b k)
    GivesEach (.vdot w) s w (withMask w [w.a, w.b, w.c]) ty (fun j =>
      if j < 32 then toTy ty (Fields.sat w) (tyVal ty (element c w ty w.c j) + ((List.range 8).map (fun k => p (8 * j + k))).sum)
      else 0) := by
  refine givesEach_vec hr hd hty rfl (by simp [elts_length]) (fun j hj => ?_)
  simp only [List.getElem_zipWith, List.getElem_range, elts_getElem]
  split
  · rw [dot8_eq_sum ha hb ‹_›]
  · rfl

/-- Settles O5: elementwise words by the laws of one, two and three sources, the others by the laws of pairs and of the dot product. -/
theorem vectorIntegerElements : Obligations.VectorIntegerElements := by
  unfold Obligations.VectorIntegerElements
  refine ⟨fun w s hd hint => ?_, fun w s hd => ⟨fun hty hr => ?_, fun hty ha hb hr => ?_⟩⟩
  · have hty := le_of_isInt hint
    refine ⟨fun hr => ?_, fun hr => ?_, fun hr => (givesEach_vec3 hr hd hty rfl).congr fun _ => rfl, fun hr => givesEach_vsel hr hd hty⟩
    · have exact2 {i : Instr} (f : Int → Int → Int) (he : exec i s = s.word w (fun s => s.vint2 w f)) := givesEach_vint2 hr hd hty he
      have bits2 {i : Instr} (f : Nat → Nat → Nat) (he : exec i s = s.word w (fun s => s.vec2 w f)) := givesEach_vec2 hr hd hty he
      exact ⟨exact2 (· + ·) rfl, exact2 (· - ·) rfl, exact2 (· * ·) rfl, exact2 (mulhInt _) rfl,
        (exact2 min rfl).congr fun _ => congrArg _ (min_def ..), (exact2 max rfl).congr fun _ => congrArg _ (max_def ..),
        bits2 (· &&& ·) rfl, bits2 (· ||| ·) rfl, bits2 (· ^^^ ·) rfl,
        (bits2 _ rfl).congr fun _ => Nat.shiftLeft_eq .., (bits2 _ rfl).congr fun _ => Nat.shiftRight_eq_div_pow ..,
        bits2 (sarBits _) rfl⟩
    · have bits1 {i : Instr} (f : Nat → Nat) (he : exec i s = s.word w (fun s => s.vec1 w f)) := givesEach_vec1 hr hd hty he
      exact ⟨(bits1 _ rfl).congr fun _ => congrArg _ (Int.natCast_natAbs _), bits1 (clzBits _) rfl, bits1 (popCount _) rfl⟩
  · exact ⟨givesEach_widen (f := fun x y b => x + y + b) hr hd hty rfl, givesEach_widen (f := fun x y b => b - x - y) hr hd hty rfl⟩
  · exact givesEach_vdot hr hd ((by decide : ∀ ty ∈ [1, 2, 3, 5, 6, 7], ty ≤ 13) _ hty) ha hb

end Sys2Proof

/-!
CMP, FCMP and PLOG (R73, R100, R102, R104): what a condition gives at an integer and at a floating-point type, and the flaw of a PLOG
that names an m register.
-/

namespace Sys2Proof

open Sys2Proof.Machine

/-! ### The least flaw (R76) -/

/-- The least flaw is one of the flaws, and none has a lower REASON. -/
theorem flawLeast_eq_some {l : List Flaw} {f : Flaw} (h : Flaw.least l = some f) : f ∈ l ∧ ∀ g ∈ l, f.1 ≤ g.1 := by
  induction l generalizing f with
  | nil => cases h
  | cons e r ih =>
    simp only [Flaw.least] at h
    split at h
    · rename_i hr
      obtain rfl := flawLeast_eq_none hr
      cases h
      simp
    · rename_i g hr
      obtain ⟨hg, hle⟩ := ih hr
      simp only [Bool.or_eq_true, Bool.and_eq_true, beq_iff_eq, decide_eq_true_eq] at h
      split at h
      · cases h
        have heg : e.1 ≤ g.1 := by omega
        exact ⟨List.mem_cons_self, List.forall_mem_cons.2 ⟨le_rfl, fun x hx => heg.trans (hle x hx)⟩⟩
      · cases h
        have hge : f.1 ≤ e.1 := by omega
        exact ⟨List.mem_cons_of_mem _ hg, List.forall_mem_cons.2 ⟨hge, hle⟩⟩

/-- A flaw of a REASON below which there is none decides the REASON reported. -/
theorem flawLeast_of_reason {l : List Flaw} {f : Flaw} (hf : f ∈ l) (hmin : ∀ g ∈ l, f.1 ≤ g.1) : ∃ b, Flaw.least l = some (f.1, b) := by
  cases hl : Flaw.least l with
  | none => cases flawLeast_eq_none hl ▸ hf
  | some g =>
    obtain ⟨hg, hle⟩ := flawLeast_eq_some hl
    exact ⟨g.2, by rw [Nat.le_antisymm (hmin g hg) (hle f hf)]⟩

/-! ### The REASON of a flaw of a field (R76) -/

/-- A check adds the flaw that it names and no other. -/
theorem forall_mem_when' {P : Flaw → Prop} {c : Bool} {f : Flaw} (h : P f) : ∀ g ∈ when' c f, P g := by
  unfold when'
  split <;> simp [h]

/-- A flaw of class or index has REASON 3, and index bits that IMM32 leaves unused have REASON 5. -/
theorem three_le_reason_classFlaws {n base : Nat} {cls : List Cls} {o : Operand} : ∀ g ∈ classFlaws n base cls o, 3 ≤ g.1 := by
  unfold classFlaws
  split
  · exact forall_mem_when' (show 3 ≤ 5 by decide)
  · split <;> simp

/-- The flaws of an operand field have REASON 3 or more. -/
theorem three_le_reason_useFlaws {n base : Nat} {u : Use} {o : Operand} : ∀ g ∈ useFlaws n base u o, 3 ≤ g.1 := by
  have hmod {c : Bool} {b : Nat} : ∀ g ∈ when' c (4, b), 3 ≤ g.1 := forall_mem_when' (show 3 ≤ 4 by decide)
  cases u with
  | unused => exact forall_mem_when' (show 3 ≤ 5 by decide)
  | dst cls sat => exact List.forall_mem_append.2 ⟨List.forall_mem_append.2 ⟨three_le_reason_classFlaws, hmod⟩, hmod⟩
  | src cls m => exact List.forall_mem_append.2 ⟨three_le_reason_classFlaws, hmod⟩

/-- Where neither a mask nor an operand E is listed, bits [127:96] have flaws of REASON 5, unused bits set, or 7, a second user of IMM32. -/
theorem three_le_reason_immFlaws {n : Nat} {e full : OpSpec} {w : Fields} (he : e.e = .none) : ∀ g ∈ immFlaws n e full w, 3 ≤ g.1 := by
  simp only [immFlaws, he]
  split
  · exact forall_mem_when' (show 3 ≤ 5 by decide)
  · split <;> simp

/-- Illegal values of SPC, NT and CH have REASON 5. -/
theorem three_le_reason_spaceFlaws {e : OpSpec} {w : Fields} : ∀ g ∈ spaceFlaws e w, 3 ≤ g.1 := by
  have h5 {c : Bool} {b : Nat} : ∀ g ∈ when' c (5, b), 3 ≤ g.1 := forall_mem_when' (show 3 ≤ 5 by decide)
  exact List.forall_mem_append.2 ⟨h5, iteInduction (motive := fun l : List Flaw => ∀ g ∈ l, 3 ≤ g.1) (fun _ => h5)
    (fun _ => List.forall_mem_append.2 ⟨h5, h5⟩)⟩

/-! ### PLOG and m registers (R104) -/

/-- An m register where only a predicate may stand is an index outside its class (R20). -/
theorem classFlaws_of_mask {n base : Nat} {o : Operand} (hc : o.cls = 2) (hi : 16 ≤ o.idx.toNat) :
    classFlaws n base [.p] o = [(3, base + 3)] := by
  have hout : ¬o.idx.toNat < 8 := by omega
  simp [classFlaws, Cls.code, Cls.legalIdx, hc, hout]

/-- PLOG has no flaw of a REASON below 3 when its TY is 15. -/
theorem three_le_reason_wordFlaws_plog {n : Nat} {w : Fields} (hty : w.ty.toNat = 15) : ∀ g ∈ wordFlaws n (.plog w) w, 3 ≤ g.1 := by
  rw [wordFlaws_of_spec rfl (by simp)]
  have htype : when' (!([15] : List Nat).contains w.ty.toNat) (2, 10) = [] := by rw [hty]; rfl
  rw [htype]
  simp only [List.nil_append, List.forall_mem_append]
  exact ⟨⟨⟨⟨⟨⟨⟨three_le_reason_useFlaws, three_le_reason_useFlaws⟩, three_le_reason_useFlaws⟩, three_le_reason_useFlaws⟩,
    three_le_reason_immFlaws rfl⟩, three_le_reason_spaceFlaws⟩, forall_mem_when' (show 3 ≤ 6 by decide)⟩, by simp [entryFlaws]⟩

/-- An operand of PLOG that names an m register is a flaw of REASON 3. -/
theorem mem_wordFlaws_plog_of_mask {n : Nat} {w : Fields} {o : Operand} (ho : o = w.d ∨ o = w.a ∨ o = w.b ∨ o = w.c) (hc : o.cls = 2)
    (hi : 16 ≤ o.idx.toNat) : ∃ b, (3, b) ∈ wordFlaws n (.plog w) w := by
  rw [wordFlaws_of_spec rfl (by simp)]
  have hflaw (base : Nat) : (3, base + 3) ∈ classFlaws n base [.p] o := by simp [classFlaws_of_mask hc hi]
  obtain rfl | rfl | rfl | rfl := ho
  · exact ⟨25, by simp [useFlaws, hflaw 22]⟩
  · exact ⟨39, by simp [useFlaws, hflaw 36]⟩
  · exact ⟨53, by simp [useFlaws, hflaw 50]⟩
  · exact ⟨67, by simp [useFlaws, hflaw 64]⟩

/-- A PLOG that names an m register is illegal with REASON 3. -/
theorem wordFlaw_plog_of_mask {n : Nat} {w : Fields} {o : Operand} (hty : w.ty.toNat = 15)
    (ho : o = w.d ∨ o = w.a ∨ o = w.b ∨ o = w.c) (hc : o.cls = 2) (hi : 16 ≤ o.idx.toNat) :
    ∃ b, wordFlaw n (.plog w) = some (3, b) := by
  obtain ⟨b, hb⟩ := mem_wordFlaws_plog_of_mask (n := n) ho hc hi
  exact flawLeast_of_reason hb (three_le_reason_wordFlaws_plog hty)

/-! ### Conditions (R73) -/

/-- At an integer type a condition compares exact integers. -/
theorem cond_of_isInt {ty code x y : Nat} (h : isInt ty = true) : cond ty code x y = condInt code (tyVal ty x) (tyVal ty y) := by
  have hlt : ty < 8 := of_decide_eq_true h
  have hf : Fmt.ofTy ty = none := by
    unfold Fmt.ofTy
    simp only [show ty ≠ 8 ∧ ty ≠ 9 ∧ ty ≠ 10 ∧ ty ≠ 11 ∧ ty ≠ 12 ∧ ty ≠ 13 by omega, if_false]
  simp only [Machine.cond, hf]

/-- At a floating-point type a condition compares the values of the codes. -/
theorem cond_of_fmt {ty code x y : Nat} {f : Fmt} (h : Fmt.ofTy ty = some f) :
    cond ty code x y = condFloat code (FVal.ofCode f x) (FVal.ofCode f y) := by
  simp only [Machine.cond, h]

/-- With a NaN operand only ne and un hold (R46). -/
theorem condFloat_of_nan {code : Nat} {a b : FVal} (h : (a.isNan || b.isNan) = true) :
    condFloat code a b = decide (code = 1 ∨ code = 6) := by
  rw [condFloat, if_pos h, Bool.decide_or]; rfl

/-! ### Words that write a predicate -/

/-- The value of a predicate may be given by any equal one. -/
theorem GivesP.congr {i : Instr} {s : State} {w : Fields} {srcs : List Operand} {u v : Bool} (h : GivesP i s w srcs u) (huv : u = v) :
    GivesP i s w srcs v := huv ▸ h

/-- A compare writes the condition of FN at its type (R73, R100, R102). -/
theorem givesP_cmp2 {i : Instr} {s : State} {w : Fields} (hr : Runs s w [w.a, w.b] []) (hd : w.d.idx.toNat < 8) (hfn : w.fn.toNat < 8)
    (he : exec i s = s.word w (fun s => s.cmp2 w)) :
    GivesP i s w [w.a, w.b] (cond w.ty.toNat w.fn.toNat ((s.ctx s.cur).scalar w w.ty.toNat w.a) ((s.ctx s.cur).scalar w w.ty.toNat w.b)) :=
  (givesP_alu hr hd he).congr (by rw [Nat.mod_eq_of_lt (by omega)])

/-- PLOG writes the bit of FN that its operands number (R104). -/
theorem givesP_plog {s : State} {w : Fields} (hr : Runs s w [] []) (hd : w.d.idx.toNat < 8) :
    GivesP (.plog w) s w [] (truth w.fn.toNat ((s.ctx s.cur).pred w.a) ((s.ctx s.cur).pred w.b) ((s.ctx s.cur).pred w.c)) :=
  givesP_alu (f := fun c => truth w.fn.toNat (c.pred w.a) (c.pred w.b) (c.pred w.c)) hr hd rfl

/-- Settles O4: the rules of a compare and of a predicate result, code by code, and the least flaw of a PLOG that names an m register. -/
theorem predicateResults : Obligations.PredicateResults := by
  unfold Obligations.PredicateResults
  refine ⟨fun w n hty ⟨o, ho, hc, hi, _⟩ => wordFlaw_plog_of_mask hty ho hc hi,
    fun w s hd => ⟨fun hint hfn hr => ?_, fun f hf hfn hr => ?_, fun hr => givesP_plog hr hd⟩⟩
  · refine (givesP_cmp2 hr hd (by omega) rfl).congr ?_
    rw [cond_of_isInt hint]
    generalize w.fn.toNat = code at hfn
    interval_cases code
    · rfl
    · exact decide_not.symm
    all_goals rfl
  · refine (givesP_cmp2 hr hd hfn rfl).congr ?_
    rw [cond_of_fmt hf]
    split
    · exact condFloat_of_nan ‹_›
    · rename_i hn
      rw [condFloat, if_neg hn]
      generalize w.fn.toNat = code at hfn
      interval_cases code <;> rfl

end Sys2Proof
